-- ==== Sys2Proof/Word.lean ====
section
/-! DEFINITION. The word types of the FCY-192A and the shape of its sparse stores. -/

namespace Sys2Proof

/-- One byte of memory (00_scope.md, R1). -/
abbrev Byte := BitVec 8

/-- A 64-bit scalar value (08, R203). -/
abbrev Word := BitVec 64

/-- A 56-bit virtual address (01, R12). -/
abbrev Va := BitVec 56

/-- The 2,048 bits of one vector register or queue entry (01, R12: 256 bytes). -/
abbrev Vec := BitVec 2048

/-- The 128 bits of an instruction word (07, R163). -/
abbrev IWord := BitVec 128

/-- A sparse store: keys strictly rising, no entry equal to what an unlisted key reads as.
The operations that keep that form stand in Machine/SMap.lean. -/
abbrev SMap (α : Type) := List (Nat × α)

end Sys2Proof
end

