-- ==== Sys2Proof/Syntax.lean ====
section
/-! DEFINITION. The instructions of the FCY-192A: one constructor of `Instr` per row of the opcode table.
A word carries its clauses (07, R163, R164) and the operands its entry names; a row that is no word (one of the
part's own steps, 95_what_each_step_holds.md) carries the place it acts on and what comes from outside the module. -/

namespace Sys2Proof

/-- The engine tags of R163; tag 6 is reserved and has no name. -/
inductive Eng where
  | s | v | m | a | f | j | x
  deriving DecidableEq, Repr

/-- The causes of R456 that the part writes. -/
inductive Cause where
  | none
  | illegalOpcode | reservedEngine | reservedSpecifier | privilegedWord | reservedField | pcAlign | loopNest
  | callDepth | noUserFault | uframeFault | frameInvalid
  | translationAbsent | permissionRead | permissionWrite | permissionAtomic | permissionExecute | atomicAlign
  | migrationBusy | migrationStale
  | slotUnbound | tileBounds | descriptorInvalid | tileSetFull | footprint | peerSlotMismatch | gatherBounds
  | staleIndex | packOverrun | packFormat | indexOverflow
  | fpInvalid | fpDivzero | fpOverflow | fpUnderflow | fpInexact | intDivzero | trigRange
  | leaseNotHeld | operandType | attState | attShape
  | peerAbsent | remoteTimeout | partitionKey | reduceTimeout | remoteContext | groupUnset | dieLinkLost | linkLost
  | semOverflow | barNotCoresident | barAbandoned | queueRecord | imageInvalid | saveFailed
  | uncorrectableData | checkMismatch | correctedError | lineLost | sensorLimit
  | userTrap | breakpoint
  deriving DecidableEq, Repr

/-- s0 to s63. -/
abbrev SReg := BitVec 6
/-- k0 to k31. -/
abbrev KReg := BitVec 5
/-- p0 to p63. -/
abbrev PReg := BitVec 6

/-- The signal points of R33. -/
inductive SigPoint where
  | done | issue | vis
  deriving DecidableEq, Repr

/-- The wait clause of a word with WE = 1 (R32). -/
structure WaitClause where
  sem : BitVec 8
  thr : BitVec 8
  deriving DecidableEq, Repr

/-- The signal clause of a word with SE = 1 (R33); `inc` is SINC, one less than the increment. -/
structure SigClause where
  sem : BitVec 8
  inc : BitVec 4
  pt  : SigPoint
  deriving DecidableEq, Repr

/-- The clauses of a word (R163, R164): an absent clause has all its fields zero. -/
structure Clauses where
  wait : Option WaitClause
  sig  : Option SigClause
  deriving DecidableEq, Repr

/-- The COND codes of BRC and CMP (R173). -/
inductive Cond where
  | eq | ne | lt | ge | le | gt | ltn | gen | len | gtn | bs | bc
  deriving DecidableEq, Repr

/-- The COND codes of BRP (R173). -/
inductive PCond where
  | any | all | none
  deriving DecidableEq, Repr

/-- The SIZE codes of R169. -/
inductive MSize where
  | b1 | b2 | b4 | b8 | b16
  deriving DecidableEq, Repr

/-- The ORD codes of R169. -/
inductive Ord where
  | relaxed | acq | rel | ar
  deriving DecidableEq, Repr

/-- The SCOPE codes of R169. -/
inductive Scope where
  | core | team | die | module | domain
  deriving DecidableEq, Repr

/-- The rounding codes of R51; `dyn` is 111, the mode in FPCTL.RM. -/
inductive Rnd where
  | rne | rtz | rup | rdn | rsr | dyn
  deriving DecidableEq, Repr

/-- The element type codes of R171. -/
inductive ETy where
  | f32 | f16 | bf16 | e4m3 | e5m2 | e2m1 | i8 | i16 | i32 | n8 | n16 | n32 | e8m0
  deriving DecidableEq, Repr

/-- A V source specifier (R172): a register name, or the head of an operand queue, popped or left. -/
inductive VSrc where
  | reg (n : BitVec 10)
  | pop (q : BitVec 3)
  | peek (q : BitVec 3)
  deriving DecidableEq, Repr

/-- A V destination specifier (R172): a register name or a push into a store queue. -/
inductive VDst where
  | reg (n : BitVec 10)
  | push (w : BitVec 2)
  deriving DecidableEq, Repr

/-- The governing predicate of a V word (R228): its name and the zeroing bit pm. -/
structure VPred where
  p : PReg
  z : Bool
  deriving DecidableEq, Repr

/-- The conditions of VFCMP (R238). -/
inductive FCmp where
  | eq | ne | lt | le | gt | ge | un | or
  deriving DecidableEq, Repr

/-- The conditions of VCMP (R243). -/
inductive ICmp where
  | eq | ne | lt | le | gt | ge
  deriving DecidableEq, Repr

/-- The patterns of VSHUF (R251). -/
inductive ShufPat where
  | zlo | zhi | even | odd | pswap | rev
  deriving DecidableEq, Repr

/-- The patterns of PSET (R259). -/
inductive PsetPat where
  | none | all | first | from
  deriving DecidableEq, Repr

/-- The user control registers of R223. -/
inductive Csr where
  | fpctl | fpstat | lseed | rrb | prb | win | taskid | teaminfo | gridinfo | domain | mstat | ufentry | chrono
  deriving DecidableEq, Repr

/-- The functions of RAMO (R322). -/
inductive AmoOp where
  | add | and | or | xor | min | max | minn | maxn | swp | fadd
  deriving DecidableEq, Repr

/-- The hints of THINT (R289). -/
inductive Hint where
  | norm | strm | lu
  deriving DecidableEq, Repr

/-! ## Operands of the S and X words -/

structure R2 where
  d : SReg
  a : SReg
  deriving DecidableEq, Repr
structure R3 where
  d : SReg
  a : SReg
  b : SReg
  deriving DecidableEq, Repr
structure R4 where
  d : SReg
  a : SReg
  b : SReg
  c : SReg
  deriving DecidableEq, Repr
structure RI where
  d : SReg
  a : SReg
  imm : BitVec 64
  deriving DecidableEq, Repr
structure DI where
  d : SReg
  imm : BitVec 64
  deriving DecidableEq, Repr
structure CmpOp where
  d : SReg
  a : SReg
  b : SReg
  cond : Cond
  deriving DecidableEq, Repr
/-- SEXT and ZEXT; the size is 1, 2 or 4 bytes. -/
structure ExtOp where
  d : SReg
  a : SReg
  size : MSize
  deriving DecidableEq, Repr
/-- A scalar memory word with the order its entry lets it choose (R205). -/
structure MemOp where
  d : SReg
  a : SReg
  imm : BitVec 64
  size : MSize
  ord : Ord
  scope : Scope
  deriving DecidableEq, Repr
/-- A scalar memory word whose order is fixed by its name (R205). -/
structure MemFix where
  d : SReg
  a : SReg
  imm : BitVec 64
  size : MSize
  scope : Scope
  deriving DecidableEq, Repr
structure AddrOp where
  a : SReg
  imm : BitVec 64
  deriving DecidableEq, Repr
structure AmoS where
  d : SReg
  a : SReg
  b : SReg
  size : MSize
  ord : Ord
  scope : Scope
  deriving DecidableEq, Repr
structure CasS where
  d : SReg
  a : SReg
  b : SReg
  c : SReg
  size : MSize
  ord : Ord
  scope : Scope
  deriving DecidableEq, Repr
structure Cas2S where
  d : SReg
  a : SReg
  b : SReg
  c : SReg
  ord : Ord
  scope : Scope
  deriving DecidableEq, Repr
structure RangeOp where
  a : SReg
  b : SReg
  deriving DecidableEq, Repr
/-- IINV: the scope is die or module (R214). -/
structure IinvOp where
  a : SReg
  b : SReg
  wide : Bool
  deriving DecidableEq, Repr
structure SemAmt where
  sem : BitVec 8
  a : SReg
  amt : BitVec 16
  deriving DecidableEq, Repr
structure SemThr where
  sem : BitVec 8
  a : SReg
  thr : BitVec 8
  deriving DecidableEq, Repr
structure SemGetOp where
  d : SReg
  sem : BitVec 8
  deriving DecidableEq, Repr
structure EvOp where
  a : SReg
  ev : BitVec 8
  deriving DecidableEq, Repr
structure KsetOp where
  d : KReg
  a : SReg
  b : SReg
  deriving DecidableEq, Repr
structure KaddOp where
  d : KReg
  a : KReg
  b : SReg
  c : SReg
  deriving DecidableEq, Repr
structure KgetOp where
  d : SReg
  a : KReg
  deriving DecidableEq, Repr
structure CsrrOp where
  d : SReg
  csr : Csr
  deriving DecidableEq, Repr
structure CsrwOp where
  a : SReg
  csr : Csr
  deriving DecidableEq, Repr
structure Abc where
  a : SReg
  b : SReg
  c : SReg
  deriving DecidableEq, Repr
structure BrcOp where
  a : SReg
  b : SReg
  cond : Cond
  off : BitVec 32
  deriving DecidableEq, Repr
/-- BRP; `w32` selects the 32-bit lane view of SB = 1 (R198). -/
structure BrpOp where
  p : PReg
  cond : PCond
  w32 : Bool
  off : BitVec 32
  deriving DecidableEq, Repr
structure LoopOp where
  a : SReg
  len : BitVec 32
  deriving DecidableEq, Repr
structure LoopmOp where
  cnt : SReg
  len : BitVec 10
  ii : BitVec 8
  stg : BitVec 4
  vstep : BitVec 10
  pstep : BitVec 6
  gp : BitVec 6
  deriving DecidableEq, Repr
structure WinsetOp where
  a : SReg
  off : BitVec 32
  deriving DecidableEq, Repr
structure BrxOp where
  a : SReg
  off : BitVec 32
  link : SReg
  deriving DecidableEq, Repr

/-! ## Operands of the V words -/

structure VF1 where
  d : VDst
  a : VSrc
  pr : VPred
  ty : ETy
  rm : Rnd
  sat : Bool
  deriving DecidableEq, Repr
structure VF2 where
  d : VDst
  a : VSrc
  b : VSrc
  pr : VPred
  ty : ETy
  rm : Rnd
  sat : Bool
  deriving DecidableEq, Repr
structure VF3 where
  d : VDst
  a : VSrc
  b : VSrc
  c : VSrc
  pr : VPred
  ty : ETy
  rm : Rnd
  sat : Bool
  deriving DecidableEq, Repr
structure VX1 where
  d : VDst
  a : VSrc
  pr : VPred
  ty : ETy
  deriving DecidableEq, Repr
structure VX2 where
  d : VDst
  a : VSrc
  b : VSrc
  pr : VPred
  ty : ETy
  deriving DecidableEq, Repr
structure VX3 where
  d : VDst
  a : VSrc
  b : VSrc
  c : VSrc
  pr : VPred
  ty : ETy
  deriving DecidableEq, Repr
/-- A transcendental word: its rounding field is ignored, whatever its bits (R65, R234). -/
structure VTr where
  d : VDst
  a : VSrc
  pr : VPred
  ty : ETy
  rnd : BitVec 3
  deriving DecidableEq, Repr
structure VFCmpOp where
  d : PReg
  a : VSrc
  b : VSrc
  pr : VPred
  ty : ETy
  cond : FCmp
  deriving DecidableEq, Repr
structure VICmpOp where
  d : PReg
  a : VSrc
  b : VSrc
  pr : VPred
  ty : ETy
  cond : ICmp
  deriving DecidableEq, Repr
structure VRndOp where
  d : VDst
  a : VSrc
  pr : VPred
  ty : ETy
  rm : Rnd
  deriving DecidableEq, Repr
/-- A V word with a 24-bit immediate (shifts, rotations, lanes). -/
structure VImm1 where
  d : VDst
  a : VSrc
  pr : VPred
  ty : ETy
  imm : BitVec 24
  deriving DecidableEq, Repr
structure VImm2 where
  d : VDst
  a : VSrc
  b : VSrc
  pr : VPred
  ty : ETy
  imm : BitVec 24
  deriving DecidableEq, Repr
structure VCvtOp where
  d : VDst
  a : VSrc
  pr : VPred
  dst : ETy
  src : ETy
  rm : Rnd
  sat : Bool
  seg : BitVec 3
  deriving DecidableEq, Repr
structure VPackOp where
  d : VDst
  a : VSrc
  b : VSrc
  pr : VPred
  dst : ETy
  src : ETy
  rm : Rnd
  sat : Bool
  deriving DecidableEq, Repr
structure VUnpkOp where
  d : VDst
  a : VSrc
  pr : VPred
  dst : ETy
  src : ETy
  rm : Rnd
  sat : Bool
  deriving DecidableEq, Repr
structure VQntOp where
  d : VDst
  a : VSrc
  b : BitVec 10
  dst : ETy
  src : ETy
  rm : Rnd
  seg : BitVec 3
  deriving DecidableEq, Repr
structure VSclI where
  d : VDst
  a : VSrc
  pr : VPred
  ty : ETy
  rm : Rnd
  sat : Bool
  imm : BitVec 24
  deriving DecidableEq, Repr
structure VMoviOp where
  d : VDst
  ty : ETy
  p : PReg
  imm : BitVec 32
  deriving DecidableEq, Repr
structure VSelOp where
  d : VDst
  a : VSrc
  b : VSrc
  p : PReg
  ty : ETy
  deriving DecidableEq, Repr
structure VShufOp where
  d : VDst
  a : VSrc
  b : VSrc
  pr : VPred
  ty : ETy
  pat : ShufPat
  deriving DecidableEq, Repr
structure VBcsOp where
  d : VDst
  sa : SReg
  pr : VPred
  ty : ETy
  deriving DecidableEq, Repr
structure VSetlOp where
  d : BitVec 10
  sa : SReg
  ty : ETy
  lane : BitVec 24
  deriving DecidableEq, Repr
structure VTposeOp where
  d : BitVec 10
  a : BitVec 10
  ty : ETy
  deriving DecidableEq, Repr
structure VIotaOp where
  d : VDst
  pr : VPred
  ty : ETy
  imm : BitVec 24
  deriving DecidableEq, Repr
structure VComprOp where
  d : VDst
  a : VSrc
  p : PReg
  ty : ETy
  deriving DecidableEq, Repr
structure VRedOp where
  d : VDst
  a : VSrc
  p : PReg
  ty : ETy
  rm : Rnd
  deriving DecidableEq, Repr
structure VScanOp where
  d : VDst
  a : VSrc
  pr : VPred
  ty : ETy
  rm : Rnd
  deriving DecidableEq, Repr
structure P3 where
  d : PReg
  a : PReg
  b : PReg
  deriving DecidableEq, Repr
structure P2 where
  d : PReg
  a : PReg
  deriving DecidableEq, Repr
structure PsetOp where
  d : PReg
  ty : ETy
  pat : PsetPat
  n : BitVec 10
  deriving DecidableEq, Repr
structure PfirstOp where
  d : PReg
  a : PReg
  ty : ETy
  deriving DecidableEq, Repr

/-! ## Operands of the M, A, F and J words -/

/-- A tile operand of an M word (R267): slot, coordinate register, peer rank if any, multicast, last-use. -/
structure MTile where
  slot : BitVec 10
  k : KReg
  peer : Option (BitVec 2)
  mc : Bool
  lu : Bool
  deriving DecidableEq, Repr
structure AccOp where
  acc : BitVec 1
  deriving DecidableEq, Repr
structure AccldOp where
  acc : BitVec 1
  t : MTile
  src : ETy
  cell : ETy
  kb : BitVec 5
  deriving DecidableEq, Repr
structure AccstOp where
  acc : BitVec 1
  slot : BitVec 10
  k : KReg
  dst : ETy
  cell : ETy
  kb : BitVec 5
  rm : Rnd
  sat : Bool
  fin : Bool
  deriving DecidableEq, Repr
/-- MMA and ATTKV: two tile operands with their types and a block count less one. -/
structure MmaOp where
  acc : BitVec 1
  ta : MTile
  tb : MTile
  aty : ETy
  bty : ETy
  kb : BitVec 5
  deriving DecidableEq, Repr
structure AttqOp where
  acc : BitVec 1
  t : MTile
  kc : KReg
  qty : ETy
  kb : BitVec 5
  deriving DecidableEq, Repr
structure AttstOp where
  acc : BitVec 1
  oslot : BitVec 10
  ko : KReg
  mslot : BitVec 10
  km : KReg
  oty : ETy
  kb : BitVec 5
  rm : Rnd
  sat : Bool
  deriving DecidableEq, Repr
structure AttmrgOp where
  acc : BitVec 1
  ta : MTile
  tb : MTile
  oty : ETy
  kb : BitVec 5
  deriving DecidableEq, Repr
structure MstatOp where
  mask : BitVec 6
  deriving DecidableEq, Repr

structure SlotAddr where
  slot : BitVec 10
  sa : SReg
  imm : BitVec 32
  deriving DecidableEq, Repr
structure SlotOp where
  slot : BitVec 10
  deriving DecidableEq, Repr
structure TileOp where
  slot : BitVec 10
  k : KReg
  deriving DecidableEq, Repr
structure TvacqOp where
  slot : BitVec 10
  sa : SReg
  imm : BitVec 32
  scope : Scope
  deriving DecidableEq, Repr
structure TvbumpOp where
  slot : BitVec 10
  scope : Scope
  deriving DecidableEq, Repr
structure TprefOp where
  slot : BitVec 10
  sa : SReg
  n : BitVec 6
  imm : BitVec 32
  deriving DecidableEq, Repr
structure TpinOp where
  slot : BitVec 10
  k : KReg
  sa : SReg
  imm : BitVec 32
  deriving DecidableEq, Repr
structure ThintOp where
  slot : BitVec 10
  k : KReg
  hint : Hint
  deriving DecidableEq, Repr
/-- THINT.slot: the slot's default hint, normal or stream-through (R296); the row names K, which the form ignores. -/
structure ThintSlotOp where
  slot : BitVec 10
  k : KReg
  strm : Bool
  deriving DecidableEq, Repr
structure TcopyOp where
  dslot : BitVec 10
  dk : KReg
  sslot : BitVec 10
  sk : KReg
  peer : Option (BitVec 2)
  lu : Bool
  deriving DecidableEq, Repr
structure GsetOp where
  g : BitVec 4
  sa : SReg
  imm : BitVec 32
  deriving DecidableEq, Repr
structure GrunOp where
  g : BitVec 4
  q : BitVec 3
  row : Bool
  cont : Bool
  deriving DecidableEq, Repr
structure GstoOp where
  g : BitVec 4
  w : BitVec 2
  row : Bool
  cont : Bool
  deriving DecidableEq, Repr
structure GOp where
  g : BitVec 4
  deriving DecidableEq, Repr
/-- QCLR: queue field 0 to 11 (R290). -/
structure QclrOp where
  q : BitVec 4
  deriving DecidableEq, Repr
structure LdxOp where
  i : BitVec 4
  sa : SReg
  sb : SReg
  bound : BitVec 32
  deriving DecidableEq, Repr
structure LdxBtOp where
  i : BitVec 4
  sa : SReg
  sb : SReg
  bound : BitVec 32
  pos : Bool
  deriving DecidableEq, Repr
structure GatherOp where
  g : BitVec 4
  i : BitVec 4
  q : BitVec 3
  sa : SReg
  sb : SReg
  ty : ETy
  bytes : BitVec 9
  deriving DecidableEq, Repr
structure GatherIdxOp where
  g : BitVec 4
  i : BitVec 4
  q : BitVec 3
  deriving DecidableEq, Repr
structure ScatterOp where
  g : BitVec 4
  i : BitVec 4
  w : BitVec 2
  sa : SReg
  sb : SReg
  ty : ETy
  bytes : BitVec 9
  deriving DecidableEq, Repr

structure RldOp where
  die : BitVec 14
  sa : SReg
  sc : SReg
  sd : SReg
  imm : BitVec 24
  size : MSize
  ord : Ord
  scope : Scope
  adp : Bool
  deriving DecidableEq, Repr
structure RstOp where
  die : BitVec 14
  sa : SReg
  sb : SReg
  sc : SReg
  imm : BitVec 24
  size : MSize
  ord : Ord
  scope : Scope
  adp : Bool
  deriving DecidableEq, Repr
structure RamoOp where
  op : AmoOp
  die : BitVec 14
  sa : SReg
  sb : SReg
  sc : SReg
  sd : SReg
  size : MSize
  ord : Ord
  scope : Scope
  adp : Bool
  deriving DecidableEq, Repr
structure RcasOp where
  die : BitVec 14
  sa : SReg
  sb : SReg
  sc : SReg
  sd : SReg
  size : MSize
  ord : Ord
  scope : Scope
  adp : Bool
  deriving DecidableEq, Repr
structure RsigOp where
  die : BitVec 14
  sa : SReg
  sb : SReg
  sc : SReg
  sem : BitVec 8
  inc : BitVec 16
  adp : Bool
  deriving DecidableEq, Repr
structure RbulkOp where
  die : BitVec 14
  sa : SReg
  sb : SReg
  sc : SReg
  sd : SReg
  adp : Bool
  deriving DecidableEq, Repr
structure GrpsetOp where
  sd : SReg
  sa : SReg
  imm : BitVec 24
  cg : BitVec 4
  deriving DecidableEq, Repr
structure GrpstatOp where
  sd : SReg
  cg : BitVec 4
  deriving DecidableEq, Repr
structure MldredOp where
  sa : SReg
  sb : SReg
  cg : BitVec 4
  deriving DecidableEq, Repr
structure McastOp where
  sa : SReg
  sb : SReg
  sd : SReg
  cg : BitVec 4
  adp : Bool
  deriving DecidableEq, Repr

structure JsubOp where
  scard : SReg
  sd : SReg
  imm : BitVec 32
  deriving DecidableEq, Repr
structure JnodeOp where
  scard : SReg
  sd : SReg
  sa : SReg
  imm : BitVec 32
  deriving DecidableEq, Repr
structure JhOp where
  sd : SReg
  sa : SReg
  deriving DecidableEq, Repr

/-! ## What the part's own steps carry -/

/-- A semaphore signal on its way to a task (R325): the sender, the target and the increment. -/
structure RsigMsg where
  srcLabel : BitVec 14
  srcCore : BitVec 8
  fid : BitVec 32
  grid : BitVec 32
  tx : BitVec 16
  ty : BitVec 16
  tz : BitVec 16
  rank : BitVec 2
  sem : BitVec 8
  inc : BitVec 16
  /-- the key the packet carries and the bank it was injected under (R466, R467) -/
  key : BitVec 16 := 0
  bank : Bool := false
  deriving DecidableEq, Repr

/-- What a fabric request asks of its destination (R322, R325, R326), the arrival of another module's participant at a domain
barrier (R37), and within the load-store domain an instruction fetch and a write-back (R427, R432). -/
inductive RemoteOp where
  | read (size : Nat)
  | write (bytes : List Byte)
  | amo (op : AmoOp) (size : Nat) (operand : BitVec 64)
  | cas (size : Nat) (cmp new : BitVec 128)
  | put (bytes : List Byte)
  | get (len : Nat)
  | sig (m : RsigMsg)
  | barArrive (grid : BitVec 32)
  | fetch (size : Nat)
  | writeBack (bytes : List Byte)
  deriving DecidableEq, Repr

/-- A request that reaches a router of this module: one of its own, by number, or one of another module, through the fabric
or within the load-store domain. -/
inductive RemoteReq where
  | own (id : Nat)
  /-- one of another module: its class, its number in its pair of dies, the lowest number of the pair that its source has
  not retired (R464), and the scopes of its acquire and its release (R323) -/
  | ext (die : Nat) (srcLabel dstLabel : BitVec 14) (adp : Bool) (seq oldest : Nat) (fid : BitVec 32) (key : BitVec 16)
      (bank : Bool) (va : Va) (op : RemoteOp) (acq rel : Option Scope)
  /-- an access of another module of the load-store domain, untranslated (R109, R431): the die it reaches, who asks, its
  address-space identifier and address, and the stamp it carries, by position in the domain (R127) -/
  | ls (die : Nat) (srcLabel : BitVec 14) (asid : BitVec 16) (va : Va) (op : RemoteOp) (stamp : List (Nat × BitVec 32))
  deriving DecidableEq, Repr

/-- The answer to a request: the bytes that come back, a cause with the label it names, or the refusal of an access to a page that
migrates (R433). -/
inductive AckResult where
  | ok (bytes : List Byte)
  | fail (c : Cause) (label : BitVec 14)
  | refused
  deriving DecidableEq, Repr

/-- A member's contribution to one episode of a collective group (R333, R334): the fabric identity, the key it carries
(R387) under the bank it was injected in, the descriptor fields that must agree, the member's label, the episode number and the
elements as f32 bits. -/
structure ContribMsg where
  label : BitVec 14
  fid : BitVec 32
  key : BitVec 16
  bank : Bool
  gid : BitVec 16
  mask : BitVec 14
  op : BitVec 2
  ity : ETy
  oty : ETy
  count : Nat
  timeout : Nat
  episode : Nat
  vals : List (BitVec 32)
  deriving DecidableEq, Repr

/-- What a packet carries for the die that it is delivered to: a request, or the answer to one of that die's. -/
inductive Cargo where
  | none
  | req (r : RemoteReq)
  | ack (id : Nat) (a : AckResult)
  deriving DecidableEq, Repr

/-- A packet that another die hands to a router of this module (R463): its channel is its class, whether it is a response, and
its lane (R461). -/
structure PacketIn where
  dst : BitVec 14
  key : BitVec 16
  bank : Bool
  cls : BitVec 2
  arrived : Nat
  resp : Bool := false
  lane : BitVec 3 := 0
  cargo : Cargo := .none
  deriving DecidableEq, Repr

/-- A link notice (R470). -/
structure Notice where
  stamp : BitVec 64
  near : BitVec 14
  far : BitVec 14
  dim : BitVec 4
  kind : BitVec 4
  cause : BitVec 4
  deriving DecidableEq, Repr

/-- The kernel image that the control node supplies for one die (R482). -/
structure KernelImage where
  bytes : List Byte
  load : Nat
  entry : Nat
  deriving DecidableEq, Repr

/-- The registers of one partition (R386), as whole 64-bit words. -/
structure PartRegs where
  pclu : BitVec 64
  pstk : BitVec 64
  pque : BitVec 64
  pfab : BitVec 64
  deriving DecidableEq, Repr

/-- What the control node hands to INIT and SYNC (R481, R482, R488): the values of every `fw` field, keys by die and bank, the
limits of each temperature point, and whether INIT's training and SYNC's synchronisation succeed. -/
structure FwValues where
  ctxtab : BitVec 64
  parts : List PartRegs
  lself : List (BitVec 14)
  phys : List (BitVec 14)
  keys : List (List (List (BitVec 64)))
  temps : List (BitVec 16 × BitVec 16)
  chk : List (List Bool)
  expect : List (List (BitVec 14))
  kernels : List (Option KernelImage)
  trained : Bool
  synced : Bool
  chrono : BitVec 64
  deriving DecidableEq, Repr

/-! ## What comes to one of the part's own steps from outside -/

/-- The payload of an input: what the control node, another module, a link, a sensor or a free choice brings. -/
inductive Payload where
  | none
  /-- Bytes the control node writes. -/
  | bytes (l : List Byte)
  /-- A length, or any other natural number. -/
  | num (n : Nat)
  /-- A value the control node writes to a register of the part, or a Chronometer reading. -/
  | word (v : BitVec 64)
  /-- The compared and the new value of the Mailbox engine's compare-and-swap (R435). -/
  | pair (old new : BitVec 64)
  /-- The places the Pilot chose for the teams it places: (team number, first core) (R412). -/
  | place (l : List (Nat × Nat))
  | sig (m : RsigMsg)
  | req (r : RemoteReq)
  | ack (a : AckResult)
  | failure (c : Cause) (label : BitVec 14)
  | contrib (m : ContribMsg)
  | packet (p : PacketIn)
  | notice (n : Notice)
  | trained (far : BitVec 14) (ok : Bool)
  | image (bytes signature : List Byte) (v : FwValues)
  | nonce (n : BitVec 256)
  | sensors (temps : List (BitVec 16)) (rails : List (BitVec 48))
  deriving DecidableEq, Repr

/-- Which unit, which entry of its list, and what comes with it. -/
structure Input where
  unit : Nat
  idx : Nat
  load : Payload
  deriving DecidableEq, Repr

/-- One constructor per row of spec/opcode_table.json; each docstring gives the row's rule. A word carries its operands;
its clauses stand beside it (Decoded pairs in Decode.lean, State.cur when it runs). A row that is no word carries nothing:
what comes to it from outside stands in State.input. Words with operands come first, since Lean's compiler gives a
constructor with fields no number above 244; words without operands and the part's own steps follow, each in table order. -/
inductive Instr where
  /-- BR (R198). -/
  | br (o : BitVec 32)
  /-- BRC (R198). -/
  | brc (o : BrcOp)
  /-- BRP (R198). -/
  | brp (o : BrpOp)
  /-- CALL (R198). -/
  | call (o : BitVec 32)
  /-- LOOP (R199). -/
  | loop (o : LoopOp)
  /-- LOOPM (R28). -/
  | loopm (o : LoopmOp)
  /-- FORK (R25). -/
  | fork (o : BitVec 32)
  /-- WINSET (R201). -/
  | winset (o : WinsetOp)
  /-- BRX (R198). -/
  | brx (o : BrxOp)
  /-- ADD (R203). -/
  | add (o : R3)
  /-- SUB (R203). -/
  | sub (o : R3)
  /-- ADDI (R203). -/
  | addi (o : RI)
  /-- MUL (R203). -/
  | mul (o : R3)
  /-- MULH (R203). -/
  | mulh (o : R3)
  /-- MULHN (R203). -/
  | mulhn (o : R3)
  /-- DIV (R204). -/
  | div (o : R3)
  /-- DIVN (R204). -/
  | divn (o : R3)
  /-- REM (R204). -/
  | rem (o : R3)
  /-- REMN (R204). -/
  | remn (o : R3)
  /-- AND (R203). -/
  | and (o : R3)
  /-- OR (R203). -/
  | or (o : R3)
  /-- XOR (R203). -/
  | xor (o : R3)
  /-- ANDN (R203). -/
  | andn (o : R3)
  /-- SHL (R203). -/
  | shl (o : R3)
  /-- SHR (R203). -/
  | shr (o : R3)
  /-- SRA (R203). -/
  | sra (o : R3)
  /-- ROTR (R203). -/
  | rotr (o : R3)
  /-- CMP (R203). -/
  | cmp (o : CmpOp)
  /-- MIN (R203). -/
  | min (o : R3)
  /-- MAX (R203). -/
  | max (o : R3)
  /-- MINN (R203). -/
  | minn (o : R3)
  /-- MAXN (R203). -/
  | maxn (o : R3)
  /-- SEL (R203). -/
  | sel (o : R4)
  /-- CLZ (R203). -/
  | clz (o : R2)
  /-- CTZ (R203). -/
  | ctz (o : R2)
  /-- POPC (R203). -/
  | popc (o : R2)
  /-- BREV (R203). -/
  | brev (o : R2)
  /-- BSWAP (R203). -/
  | bswap (o : R2)
  /-- EXTR (R204). -/
  | extr (o : R4)
  /-- INSR (R204). -/
  | insr (o : R4)
  /-- MOVI (R203). -/
  | movi (o : DI)
  /-- MOV (R203). -/
  | mov (o : R2)
  /-- SEXT (R203). -/
  | sext (o : ExtOp)
  /-- ZEXT (R203). -/
  | zext (o : ExtOp)
  /-- GETL (R203). -/
  | getl (o : SReg)
  /-- LD (R206). -/
  | ld (o : MemOp)
  /-- ST (R206). -/
  | st (o : MemOp)
  /-- LDA (R207). -/
  | lda (o : MemFix)
  /-- STL (R207). -/
  | stl (o : MemFix)
  /-- LDNT (R208). -/
  | ldnt (o : MemFix)
  /-- PREFL (R208). -/
  | prefl (o : AddrOp)
  /-- AMOADD (R211). -/
  | amoadd (o : AmoS)
  /-- AMOAND (R211). -/
  | amoand (o : AmoS)
  /-- AMOOR (R211). -/
  | amoor (o : AmoS)
  /-- AMOXOR (R211). -/
  | amoxor (o : AmoS)
  /-- AMOMIN (R211). -/
  | amomin (o : AmoS)
  /-- AMOMAX (R211). -/
  | amomax (o : AmoS)
  /-- AMOMINN (R211). -/
  | amominn (o : AmoS)
  /-- AMOMAXN (R211). -/
  | amomaxn (o : AmoS)
  /-- AMOSWP (R211). -/
  | amoswp (o : AmoS)
  /-- CAS (R211). -/
  | cas (o : CasS)
  /-- CAS2 (R211). -/
  | cas2 (o : Cas2S)
  /-- AMOFADD (R212). -/
  | amofadd (o : AmoS)
  /-- FENCE.acq (R122). -/
  | fenceAcq (o : Scope)
  /-- FENCE.rel (R122). -/
  | fenceRel (o : Scope)
  /-- FENCE.full (R122). -/
  | fenceFull (o : Scope)
  /-- FENCE.mca (R123). -/
  | fenceMca (o : Scope)
  /-- DCWB (R215). -/
  | dcwb (o : RangeOp)
  /-- DCINV (R215). -/
  | dcinv (o : RangeOp)
  /-- IINV (R215). -/
  | iinv (o : IinvOp)
  /-- SEMSIG (R217). -/
  | semsig (o : SemAmt)
  /-- SEMWAIT (R217). -/
  | semwait (o : SemThr)
  /-- SEMGET (R217). -/
  | semget (o : SemGetOp)
  /-- SEMSET (R217). -/
  | semset (o : SemAmt)
  /-- EVSET (R217). -/
  | evset (o : EvOp)
  /-- EVCLR (R217). -/
  | evclr (o : EvOp)
  /-- EVWAIT (R217). -/
  | evwait (o : EvOp)
  /-- LAUNCH (R220). -/
  | launch (o : RI)
  /-- LSTAT (R220). -/
  | lstat (o : R2)
  /-- KSET (R222). -/
  | kset (o : KsetOp)
  /-- KADD (R222). -/
  | kadd (o : KaddOp)
  /-- KGET.lo (R222). -/
  | kgetLo (o : KgetOp)
  /-- KGET.hi (R222). -/
  | kgetHi (o : KgetOp)
  /-- CSRR (R223). -/
  | csrr (o : CsrrOp)
  /-- CSRW (R223). -/
  | csrw (o : CsrwOp)
  /-- CHRON (R225). -/
  | chron (o : SReg)
  /-- TRAP (R226). -/
  | trap (o : BitVec 16)
  /-- BRK (R226). -/
  | brk (o : BitVec 16)
  /-- CSRRP (R392). -/
  | csrrp (o : R2)
  /-- CSRWP (R392). -/
  | csrwp (o : R3)
  /-- RESUME (R393). -/
  | resume (o : R2)
  /-- HARVEST (R395). -/
  | harvest (o : R4)
  /-- TLBINV.range (R396). -/
  | tlbinvRange (o : Abc)
  /-- TLBINV.asid (R396). -/
  | tlbinvAsid (o : SReg)
  /-- KILLTASK (R394). -/
  | killtask (o : R2)
  /-- VFADD (R235). -/
  | vfadd (o : VF2)
  /-- VFSUB (R235). -/
  | vfsub (o : VF2)
  /-- VFMUL (R235). -/
  | vfmul (o : VF2)
  /-- VFMULZ (R63). -/
  | vfmulz (o : VF2)
  /-- VFMA (R235). -/
  | vfma (o : VF3)
  /-- VFMAZ (R63). -/
  | vfmaz (o : VF3)
  /-- VFMS (R235). -/
  | vfms (o : VF3)
  /-- VFNMA (R235). -/
  | vfnma (o : VF3)
  /-- VFMIN (R236). -/
  | vfmin (o : VX2)
  /-- VFMAX (R236). -/
  | vfmax (o : VX2)
  /-- VFABS (R236). -/
  | vfabs (o : VX1)
  /-- VFNEG (R236). -/
  | vfneg (o : VX1)
  /-- VFCPSGN (R236). -/
  | vfcpsgn (o : VX2)
  /-- VFDIV (R237). -/
  | vfdiv (o : VF2)
  /-- VFSQRT (R237). -/
  | vfsqrt (o : VF1)
  /-- VFRCP (R69). -/
  | vfrcp (o : VTr)
  /-- VFRSQ (R69). -/
  | vfrsq (o : VTr)
  /-- VFEXP2 (R67). -/
  | vfexp2 (o : VTr)
  /-- VFLOG2 (R68). -/
  | vflog2 (o : VTr)
  /-- VFSIN (R71). -/
  | vfsin (o : VTr)
  /-- VFCOS (R71). -/
  | vfcos (o : VTr)
  /-- VFTANH (R70). -/
  | vftanh (o : VTr)
  /-- VFCMP (R238). -/
  | vfcmp (o : VFCmpOp)
  /-- VFCLASS (R239). -/
  | vfclass (o : VX1)
  /-- VFRND (R240). -/
  | vfrnd (o : VRndOp)
  /-- VADD (R241). -/
  | vadd (o : VX2)
  /-- VSUB (R241). -/
  | vsub (o : VX2)
  /-- VADDS (R242). -/
  | vadds (o : VX2)
  /-- VSUBS (R242). -/
  | vsubs (o : VX2)
  /-- VMUL (R241). -/
  | vmul (o : VX2)
  /-- VMULH (R242). -/
  | vmulh (o : VX2)
  /-- VMIN (R241). -/
  | vmin (o : VX2)
  /-- VMAX (R241). -/
  | vmax (o : VX2)
  /-- VAND (R241). -/
  | vand (o : VX2)
  /-- VOR (R241). -/
  | vor (o : VX2)
  /-- VXOR (R241). -/
  | vxor (o : VX2)
  /-- VSHL (R242). -/
  | vshl (o : VX2)
  /-- VSHL (R242). -/
  | vshlImm (o : VImm1)
  /-- VSHR (R242). -/
  | vshr (o : VX2)
  /-- VSHR (R242). -/
  | vshrImm (o : VImm1)
  /-- VSRA (R242). -/
  | vsra (o : VX2)
  /-- VSRA (R242). -/
  | vsraImm (o : VImm1)
  /-- VCMP (R243). -/
  | vcmp (o : VICmpOp)
  /-- VABS (R242). -/
  | vabs (o : VX1)
  /-- VCLZ (R241). -/
  | vclz (o : VX1)
  /-- VPOPC (R241). -/
  | vpopc (o : VX1)
  /-- VCVT (R244). -/
  | vcvt (o : VCvtOp)
  /-- VPACK (R245). -/
  | vpack (o : VPackOp)
  /-- VUNPK (R245). -/
  | vunpk (o : VUnpkOp)
  /-- VQNT (R246). -/
  | vqnt (o : VQntOp)
  /-- VSCL (R247). -/
  | vscl (o : VF2)
  /-- VSCL (R247). -/
  | vsclImm (o : VSclI)
  /-- VMOV (R248). -/
  | vmov (o : VX1)
  /-- VMOVI (R248). -/
  | vmovi (o : VMoviOp)
  /-- VSEL (R249). -/
  | vsel (o : VSelOp)
  /-- VPERM (R250). -/
  | vperm (o : VX3)
  /-- VSHUF (R251). -/
  | vshuf (o : VShufOp)
  /-- VROT (R252). -/
  | vrot (o : VImm1)
  /-- VSLIDE (R252). -/
  | vslide (o : VImm2)
  /-- VBCAST (R253). -/
  | vbcast (o : VImm1)
  /-- VBCAST (R253). -/
  | vbcastScalar (o : VBcsOp)
  /-- VSETL (R253). -/
  | vsetl (o : VSetlOp)
  /-- VTPOSE (R254). -/
  | vtpose (o : VTposeOp)
  /-- VIOTA (R255). -/
  | viota (o : VIotaOp)
  /-- VIOTA.cnt (R255). -/
  | viotaCnt (o : VIotaOp)
  /-- VCOMPR (R256). -/
  | vcompr (o : VComprOp)
  /-- VEXPND (R256). -/
  | vexpnd (o : VX1)
  /-- VRSUM (R74). -/
  | vrsum (o : VRedOp)
  /-- VRMAX (R258). -/
  | vrmax (o : VRedOp)
  /-- VRMIN (R258). -/
  | vrmin (o : VRedOp)
  /-- VRAMAX (R258). -/
  | vramax (o : VRedOp)
  /-- VSCAN (R258). -/
  | vscan (o : VScanOp)
  /-- VRSUMW (R74). -/
  | vrsumw (o : VRedOp)
  /-- PAND (R259). -/
  | pand (o : P3)
  /-- POR (R259). -/
  | por (o : P3)
  /-- PXOR (R259). -/
  | pxor (o : P3)
  /-- PNOT (R259). -/
  | pnot (o : P2)
  /-- PMOV (R259). -/
  | pmov (o : P2)
  /-- PSET (R259). -/
  | pset (o : PsetOp)
  /-- PFIRST (R259). -/
  | pfirst (o : PfirstOp)
  /-- ACCZ (R271). -/
  | accz (o : AccOp)
  /-- ACCLD (R272). -/
  | accld (o : AccldOp)
  /-- ACCST (R273). -/
  | accst (o : AccstOp)
  /-- MMA (R275). -/
  | mma (o : MmaOp)
  /-- ATTQ (R277). -/
  | attq (o : AttqOp)
  /-- ATTKV (R278). -/
  | attkv (o : MmaOp)
  /-- ATTFIN (R280). -/
  | attfin (o : AccOp)
  /-- ATTST (R281). -/
  | attst (o : AttstOp)
  /-- ATTMRG (R282). -/
  | attmrg (o : AttmrgOp)
  /-- MSTAT.clr (R284). -/
  | mstat (o : MstatOp)
  /-- TBIND (R292). -/
  | tbind (o : SlotAddr)
  /-- TUNB (R293). -/
  | tunb (o : SlotOp)
  /-- TVACQ (R294). -/
  | tvacq (o : TvacqOp)
  /-- TVBUMP (R295). -/
  | tvbump (o : TvbumpOp)
  /-- TFILL (R296). -/
  | tfill (o : TileOp)
  /-- TPREF (R301). -/
  | tpref (o : TprefOp)
  /-- TPIN (R297). -/
  | tpin (o : TpinOp)
  /-- TUNPIN (R296). -/
  | tunpin (o : TileOp)
  /-- TUNPIN.slot (R296). -/
  | tunpinSlot (o : TileOp)
  /-- THINT (R296). -/
  | thint (o : ThintOp)
  /-- THINT.slot (R296). -/
  | thintSlot (o : ThintSlotOp)
  /-- TWB (R296). -/
  | twb (o : TileOp)
  /-- TWB.slot (R296). -/
  | twbSlot (o : TileOp)
  /-- TINV (R298). -/
  | tinv (o : TileOp)
  /-- TINV.slot (R298). -/
  | tinvSlot (o : TileOp)
  /-- TCOPY (R300). -/
  | tcopy (o : TcopyOp)
  /-- GSET (R303). -/
  | gset (o : GsetOp)
  /-- GRUN (R306). -/
  | grun (o : GrunOp)
  /-- GSTO (R307). -/
  | gsto (o : GstoOp)
  /-- GSTOP (R308). -/
  | gstop (o : GOp)
  /-- QCLR (R309). -/
  | qclr (o : QclrOp)
  /-- LDX (R312). -/
  | ldx (o : LdxOp)
  /-- LDX.bt (R313). -/
  | ldxBt (o : LdxBtOp)
  /-- GATHER.lin (R315). -/
  | gatherLin (o : GatherOp)
  /-- GATHER.paged (R315). -/
  | gatherPaged (o : GatherOp)
  /-- GATHER.idx (R315). -/
  | gatherIdx (o : GatherIdxOp)
  /-- SCATTER.lin (R316). -/
  | scatterLin (o : ScatterOp)
  /-- SCATTER.paged (R316). -/
  | scatterPaged (o : ScatterOp)
  /-- TZERO (R299). -/
  | tzero (o : TileOp)
  /-- RLD (R322). -/
  | rld (o : RldOp)
  /-- RST (R322). -/
  | rst (o : RstOp)
  /-- RAMO (R322). -/
  | ramo (o : RamoOp)
  /-- RCAS (R322). -/
  | rcas (o : RcasOp)
  /-- RSIG (R325). -/
  | rsig (o : RsigOp)
  /-- RPUT (R326). -/
  | rput (o : RbulkOp)
  /-- RGET (R326). -/
  | rget (o : RbulkOp)
  /-- GRPSET (R331). -/
  | grpset (o : GrpsetOp)
  /-- GRPSTAT (R332). -/
  | grpstat (o : GrpstatOp)
  /-- MLDRED (R333). -/
  | mldred (o : MldredOp)
  /-- MCAST (R327). -/
  | mcast (o : McastOp)
  /-- JCOPY (R340). -/
  | jcopy (o : JsubOp)
  /-- JFILL (R340). -/
  | jfill (o : JsubOp)
  /-- JSEL (R340). -/
  | jsel (o : JsubOp)
  /-- JPAGE (R340). -/
  | jpage (o : JsubOp)
  /-- JSPAN (R340). -/
  | jspan (o : JsubOp)
  /-- JCOMMIT (R340). -/
  | jcommit (o : JsubOp)
  /-- JTAG (R340). -/
  | jtag (o : JsubOp)
  /-- JNODE (R347). -/
  | jnode (o : JnodeOp)
  /-- JWAIT (R348). -/
  | jwait (o : JhOp)
  /-- JWAIT.all (R348). -/
  | jwaitAll (o : JhOp)
  /-- JSTAT (R348). -/
  | jstat (o : JhOp)
  /-- JCANCEL (R349). -/
  | jcancel (o : JhOp)
  /-- SYNC.x (R175). -/
  | syncX
  /-- RET (R198). -/
  | ret
  /-- RDV (R25). -/
  | rdv
  /-- EXIT (R25). -/
  | exit
  /-- FRET (R448). -/
  | fret
  /-- SYNC.s (R175). -/
  | syncS
  /-- FETCHB (R215). -/
  | fetchb
  /-- BAR.team (R37). -/
  | barTeam
  /-- BAR.die (R37). -/
  | barDie
  /-- BAR.module (R37). -/
  | barModule
  /-- BAR.domain (R37). -/
  | barDomain
  /-- YIELD (R219). -/
  | yield
  /-- TLBINV.all (R396). -/
  | tlbinvAll
  /-- SYNC.v (R175). -/
  | syncV
  /-- SYNC.m (R175). -/
  | syncM
  /-- LEASE (R261). -/
  | lease
  /-- LREL (R261). -/
  | lrel
  /-- MBURST.start (R283). -/
  | mburstStart
  /-- MBURST.end (R283). -/
  | mburstEnd
  /-- SYNC.a (R175). -/
  | syncA
  /-- SYNC.f (R175). -/
  | syncF
  /-- RFENCE (R136). -/
  | rfence
  /-- RWAIT (R328). -/
  | rwait
  /-- SYNC.j (R175). -/
  | syncJ
  /-- SIGNAL_CLAUSE (R33). Input: unit is the core. -/
  | signalClause
  /-- RSIG_ARRIVAL (R35). Input: load is m. -/
  | rsigArrival
  /-- TASK_END (R25). Input: unit is the core. -/
  | taskEnd
  /-- REPLAY_EXECUTE (R95). Input: unit is the core, idx is the index in its list. -/
  | replayExecute
  /-- TILE_FILL (R97). Input: unit is the core, idx is the index in its list. -/
  | tileFill
  /-- TILE_WRITE_BACK (R101). Input: unit is the core, idx is the index in its list. -/
  | tileWriteBack
  /-- CAUSAL_WRITE_APPLY (R127). Input: unit is the die. -/
  | causalWriteApply
  /-- CONTROL_NODE_WRITE (R17). Input: unit is the address, load is bytes. -/
  | controlNodeWrite
  /-- CONTROL_NODE_READ (R133). Input: unit is the address, idx is the node or byte count. -/
  | controlNodeRead
  /-- MAILBOX_CAS (R435). Input: unit is the address, load is old/new. -/
  | mailboxCas
  /-- COPY_JOB (R344). Input: unit is the job. -/
  | copyJob
  /-- FILL_JOB (R344). Input: unit is the job. -/
  | fillJob
  /-- SELECT_JOB (R162). Input: unit is the job. -/
  | selectJob
  /-- PAGE_JOB (R147). Input: unit is the job. -/
  | pageJob
  /-- TAG_JOB (R146). Input: unit is the job. -/
  | tagJob
  /-- SPAN_KEEP (R149). Input: unit is the job. -/
  | spanKeep
  /-- SPAN_CLOSE (R150). Input: unit is the job. -/
  | spanClose
  /-- SPAN_CLOSE_ROT (R152). Input: unit is the job. -/
  | spanCloseRot
  /-- COMMIT_JOB (R156). Input: unit is the job. -/
  | commitJob
  /-- COMMIT_REPAIR (R157). Input: unit is the job. -/
  | commitRepair
  /-- PENDING_FRAME_PUSH (R153). Input: unit is the die, idx is the index in its list. -/
  | pendingFramePush
  /-- GENERATOR_LOAD_ENTRY (R306). Input: unit is the core, idx is the generator. -/
  | generatorLoadEntry
  /-- GENERATOR_STORE_ENTRY (R307). Input: unit is the core, idx is the generator. -/
  | generatorStoreEntry
  /-- VERSION_REREAD (R294). Input: unit is the core. -/
  | versionReread
  /-- REMOTE_REQUEST (R319). Input: load is r. -/
  | remoteRequest
  /-- REMOTE_ACK (R323). Input: unit is the id, load is a. -/
  | remoteAck
  /-- REMOTE_TIMEOUT (R319). Input: unit is the id. -/
  | remoteTimeout
  /-- DEFERRED_FAILURE (R320). Input: unit is the core, load is cause/label. -/
  | deferredFailure
  /-- CONTRIBUTION_ARRIVAL (R369). Input: load is m. -/
  | contributionArrival
  /-- EPISODE_RESULT (R333). Input: unit is the core, idx is the group slot. -/
  | episodeResult
  /-- REDUCE_TIMEOUT (R334). Input: unit is the core, idx is the group slot. -/
  | reduceTimeout
  /-- LEASE_GRANT (R262). Input: unit is the cluster. -/
  | leaseGrant
  /-- LEASE_QUANTUM_EXPIRY (R262). Input: unit is the cluster. -/
  | leaseQuantumExpiry
  /-- ARRAY_LEVEL_STEP (R283). Input: unit is the cluster. -/
  | arrayLevelStep
  /-- BURST_LAPSE (R283). Input: unit is the core. -/
  | burstLapse
  /-- RAMP_DOWN_START (R283). Input: unit is the cluster. -/
  | rampDownStart
  /-- RECORD_FETCH (R398). Input: unit is the queue. -/
  | recordFetch
  /-- EVENT_WAIT_RESOLVE (R410). Input: unit is the node or byte count. -/
  | eventWaitResolve
  /-- NODE_DISPATCH (R412). Input: unit is the node or byte count, load is place. -/
  | nodeDispatch
  /-- WAIT_MEMORY_POLL (R410). Input: unit is the node or byte count. -/
  | waitMemoryPoll
  /-- SIGNAL_MEMORY (R405). Input: unit is the node or byte count. -/
  | signalMemory
  /-- FENCE_RECORD (R405). Input: unit is the node or byte count. -/
  | fenceRecord
  /-- NOP_RECORD (R405). Input: unit is the node or byte count. -/
  | nopRecord
  /-- RECORD_COMPLETION (R407). Input: unit is the node or byte count. -/
  | recordCompletion
  /-- PENDING_LAUNCH_ENTRY (R416). Input: unit is the die. -/
  | pendingLaunchEntry
  /-- AGING_TIMER (R413). Input: unit is the queue. -/
  | agingTimer
  /-- QUANTUM_EXPIRY (R414). Input: unit is the node or byte count. -/
  | quantumExpiry
  /-- SAFE_POINT_STOP (R420). Input: unit is the core. -/
  | safePointStop
  /-- PREEMPT_DEADLINE (R420). Input: unit is the core. -/
  | preemptDeadline
  /-- TEAM_RESUME (R453). Input: unit is the node or byte count, load is place. -/
  | teamResume
  /-- QCFG_WRITE (R399). Input: unit is the queue, load is v. -/
  | qcfgWrite
  /-- WPTR_WRITE (R400). Input: unit is the queue, load is v. -/
  | wptrWrite
  /-- REGISTER_WRITE (R3). Input: unit is the address, load is v. -/
  | registerWrite
  /-- FAULT_DELIVERY (R438). Input: unit is the core. -/
  | faultDelivery
  /-- REFUSED_ACCESS_RETRY (R433). Input: unit is the core, load is eng. -/
  | refusedAccessRetry
  /-- PACKET_ROUTE (R463). Input: unit is the die, load is p. -/
  | packetRoute
  /-- IDLE_FLIT (R469). Input: unit is the die, idx is the port. -/
  | idleFlit
  /-- LINK_SILENCE (R469). Input: unit is the die, idx is the port. -/
  | linkSilence
  /-- LINK_REPLAY_LIMIT (R469). Input: unit is the die, idx is the port. -/
  | linkReplayLimit
  /-- DIE_LOST (R470). Input: unit is the die. -/
  | dieLost
  /-- LINK_NOTICE_RECEIVE (R470). Input: unit is the die, load is nt. -/
  | linkNoticeReceive
  /-- PCTL_RETRAIN (R471). Input: unit is the die, idx is the port. -/
  | pctlRetrain
  /-- PCTL_DIS (R471). Input: unit is the die, idx is the port. -/
  | pctlDis
  /-- LINK_TRAINING_DONE (R471). Input: unit is the die, idx is the port, load is far/ok. -/
  | linkTrainingDone
  /-- FEPOCH_WRITE (R458). Input: unit is the die, load is v. -/
  | fepochWrite
  /-- WINDOW_TABLE_WRITE (R457). Input: unit is the die, idx is the offset, load is v. -/
  | windowTableWrite
  /-- POWER_ON (R481). -/
  | powerOn
  /-- RESET_REQUEST (R481). -/
  | resetRequest
  /-- FIRMWARE_FETCH_RETRY (R481). -/
  | firmwareFetchRetry
  /-- FIRMWARE_IMAGE (R481). Input: load is image/sig/v. -/
  | firmwareImage
  /-- ATTESTATION_REQUEST (R484). Input: load is nonce. -/
  | attestationRequest
  /-- SENSOR_REFRESH (R487). Input: load is temps/rails. -/
  | sensorRefresh
  /-- CHRONO_EXCHANGE (R488). Input: load is delta. -/
  | chronoExchange
  /-- REFERENCE_LOSS (R489). Input: unit is the die. -/
  | referenceLoss
  deriving DecidableEq, Repr

/-- Where a soft error strikes (R110 to R112): a correctable error on a die, by row of R110's table, a datapath whose check only
detects, a line of device memory, or a tile of a core's cache by set and way. -/
inductive Upset where
  | corrected (die row : Nat)
  | mismatch
  | lostLine (line : Nat)
  | badTile (core set way : Nat)
  deriving DecidableEq, Repr

/-- The next mover (the model's own): a strand of a core, one of the part's own steps with its input, an upset, the
loss of a cached translation, which R428 lets happen at any time, or a change of what the order rules leave free (R118 to
R126): behind how many of the latest writes each unit of a read goes back. (log 2 DEDUCED) -/
inductive Turn where
  | strand (core : Nat) (eng : Eng)
  | own (i : Instr) (inp : Input)
  | upset (u : Upset)
  | evict (n : Nat)
  | relax (old : List Nat)
  deriving DecidableEq, Repr

end Sys2Proof
end

