-- ==== Sys2Proof/WellFormed.lean ====
section
/-! DEFINITION. Well-formed instructions: the values that an entry's own rule allows its fields, beyond their widths.
A word that holds other values faults RESERVED_FIELD (07, R168 to R174, and the rule of each entry). A row of the opcode
table that is no word is well formed whatever it carries. -/

namespace Sys2Proof

/-- The width of an element type in bits (R227). -/
def ETy.width : ETy → Nat
  | .f32 | .i32 | .n32 => 32
  | .f16 | .bf16 | .i16 | .n16 => 16
  | .e4m3 | .e5m2 | .i8 | .n8 | .e8m0 => 8
  | .e2m1 => 4
/-- The lane count n(ty) of R227. -/
def ETy.lanes (t : ETy) : Nat := 2048 / t.width
/-- The six integer types of R241. -/
def ETy.isInt : ETy → Bool
  | .i8 | .i16 | .i32 | .n8 | .n16 | .n32 => true
  | _ => false
/-- Signed integer types (R241). -/
def ETy.isSigned : ETy → Bool
  | .i8 | .i16 | .i32 => true
  | _ => false
/-- The types of the floating words (R234). -/
def fpTy : ETy → Bool
  | .f32 | .f16 | .bf16 => true
  | _ => false
/-- Any 8-, 16- or 32-bit type (R248, R290). -/
def laneTy (t : ETy) : Bool := t != .e2m1
/-- The types of the reductions (R257). -/
def redTy (t : ETy) : Bool := fpTy t || t.isInt
/-- The register names 0 to 767 (R172). -/
def VSrc.ok : VSrc → Bool
  | .reg n => n.toNat < 768
  | _ => true
def VDst.ok : VDst → Bool
  | .reg n => n.toNat < 768
  | _ => true
/-- A register pair is named by its even member (R195). -/
def evenReg (r : SReg) : Bool := !r.getLsbD 0
def pairOk (z : MSize) (r : SReg) : Bool := z != .b16 || evenReg r
/-- The pairs VCVT admits (R244). -/
def cvtPair (d s : ETy) : Bool :=
  (d != s && d != .e8m0 && s != .e8m0) || (d == .f32 && s == .e8m0)
/-- RND is reserved between two integer types (R244). -/
def rndOk (d s : ETy) (r : Rnd) : Bool := !(d.isInt && s.isInt) || r == .rne
/-- The width ratio r of R244. -/
def cvtRatio (d s : ETy) : Nat := max d.width s.width / min d.width s.width
/-- A run of register names inside v0-v127 or v128-v767 (R254). -/
def runOk (a n : Nat) : Bool := a + n ≤ 128 || (128 ≤ a && a + n ≤ 768)
/-- The source and cell types of ACCLD (R272). -/
def accldPair (src cell : ETy) : Bool := (fpTy src && cell == .f32) || (src == .i32 && cell == .i32)
/-- The destination and cell types of ACCST (R273). -/
def accstPair (dst cell : ETy) : Bool :=
  (cell == .f32 && (fpTy dst || dst == .e4m3 || dst == .e5m2)) ||
  (cell == .i32 && (fpTy dst || dst == .i32 || dst == .i8))
/-- The type pairs of MMA (R274). -/
def mmaPair (a b : ETy) : Bool :=
  ((a == .bf16 || a == .f16) && (b == .bf16 || b == .f16)) ||
  ((a == .e4m3 || a == .e5m2) && (b == .e4m3 || b == .e5m2)) ||
  (a == .e2m1 && b == .e2m1) || (a == .i8 && b == .i8)
/-- The types of Q, K and V (R277, R278). -/
def attTy (t : ETy) : Bool := t == .bf16 || t == .f16 || t == .e4m3 || t == .e5m2
/-- The scopes of an ordered F memory word; a relaxed one ignores its scope (R323). -/
def remScope (o : Ord) (k : Scope) : Bool := o == .relaxed || k == .die || k == .module || k == .domain

/-- The conditions of an instruction's entry on its fields; the rule is the constructor's own (see Instr). (log 14 DEDUCED) -/
def Instr.wf : Instr → Bool
  | .syncX => true
  | .br _ => true
  | .brc _ => true
  | .brp _ => true
  | .call _ => true
  | .ret => true
  | .loop o => 1 ≤ o.len.toNat && o.len.toNat ≤ 65535
  | .loopm o =>
    o.len != 0 && o.ii != 0 && o.stg != 0 && o.vstep.toNat ≤ 639 && o.pstep.toNat ≤ 31 && o.gp.toNat ≤ 31
  | .fork _ => true
  | .rdv => true
  | .exit => true
  | .winset _ => true
  | .brx _ => true
  | .fret => true
  | .syncS => true
  | .add _ => true
  | .sub _ => true
  | .addi _ => true
  | .mul _ => true
  | .mulh _ => true
  | .mulhn _ => true
  | .div _ => true
  | .divn _ => true
  | .rem _ => true
  | .remn _ => true
  | .and _ => true
  | .or _ => true
  | .xor _ => true
  | .andn _ => true
  | .shl _ => true
  | .shr _ => true
  | .sra _ => true
  | .rotr _ => true
  | .cmp _ => true
  | .min _ => true
  | .max _ => true
  | .minn _ => true
  | .maxn _ => true
  | .sel _ => true
  | .clz _ => true
  | .ctz _ => true
  | .popc _ => true
  | .brev _ => true
  | .bswap _ => true
  | .extr _ => true
  | .insr _ => true
  | .movi _ => true
  | .mov _ => true
  | .sext o => o.size == .b1 || o.size == .b2 || o.size == .b4
  | .zext o => o.size == .b1 || o.size == .b2 || o.size == .b4
  | .getl _ => true
  | .ld o => (o.ord == .relaxed || o.ord == .acq) && pairOk o.size o.d
  | .st o => (o.ord == .relaxed || o.ord == .rel) && pairOk o.size o.d
  | .lda o => pairOk o.size o.d
  | .stl o => pairOk o.size o.d
  | .ldnt o => pairOk o.size o.d
  | .prefl _ => true
  | .amoadd o => o.size == .b4 || o.size == .b8
  | .amoand o => o.size == .b4 || o.size == .b8
  | .amoor o => o.size == .b4 || o.size == .b8
  | .amoxor o => o.size == .b4 || o.size == .b8
  | .amomin o => o.size == .b4 || o.size == .b8
  | .amomax o => o.size == .b4 || o.size == .b8
  | .amominn o => o.size == .b4 || o.size == .b8
  | .amomaxn o => o.size == .b4 || o.size == .b8
  | .amoswp o => o.size == .b4 || o.size == .b8
  | .cas o => o.size == .b4 || o.size == .b8
  | .cas2 o => evenReg o.d && evenReg o.b && evenReg o.c
  | .amofadd o => o.size == .b4
  | .fenceAcq _ => true
  | .fenceRel _ => true
  | .fenceFull _ => true
  | .fenceMca _ => true
  | .dcwb _ => true
  | .dcinv _ => true
  | .iinv _ => true
  | .fetchb => true
  | .semsig _ => true
  | .semwait _ => true
  | .semget _ => true
  | .semset _ => true
  | .evset _ => true
  | .evclr _ => true
  | .evwait _ => true
  | .barTeam => true
  | .barDie => true
  | .barModule => true
  | .barDomain => true
  | .yield => true
  | .launch _ => true
  | .lstat _ => true
  | .kset _ => true
  | .kadd _ => true
  | .kgetLo _ => true
  | .kgetHi _ => true
  | .csrr _ => true
  | .csrw _ => true
  | .chron _ => true
  | .trap _ => true
  | .brk _ => true
  | .csrrp _ => true
  | .csrwp _ => true
  | .resume _ => true
  | .harvest _ => true
  | .tlbinvRange _ => true
  | .tlbinvAsid _ => true
  | .tlbinvAll => true
  | .killtask _ => true
  | .syncV => true
  | .vfadd o => fpTy o.ty && o.d.ok && o.a.ok && o.b.ok
  | .vfsub o => fpTy o.ty && o.d.ok && o.a.ok && o.b.ok
  | .vfmul o => fpTy o.ty && o.d.ok && o.a.ok && o.b.ok
  | .vfmulz o => fpTy o.ty && o.d.ok && o.a.ok && o.b.ok
  | .vfma o => fpTy o.ty && o.d.ok && o.a.ok && o.b.ok && o.c.ok
  | .vfmaz o => fpTy o.ty && o.d.ok && o.a.ok && o.b.ok && o.c.ok
  | .vfms o => fpTy o.ty && o.d.ok && o.a.ok && o.b.ok && o.c.ok
  | .vfnma o => fpTy o.ty && o.d.ok && o.a.ok && o.b.ok && o.c.ok
  | .vfmin o => fpTy o.ty && o.d.ok && o.a.ok && o.b.ok
  | .vfmax o => fpTy o.ty && o.d.ok && o.a.ok && o.b.ok
  | .vfabs o => fpTy o.ty && o.d.ok && o.a.ok
  | .vfneg o => fpTy o.ty && o.d.ok && o.a.ok
  | .vfcpsgn o => fpTy o.ty && o.d.ok && o.a.ok && o.b.ok
  | .vfdiv o => fpTy o.ty && o.d.ok && o.a.ok && o.b.ok
  | .vfsqrt o => fpTy o.ty && o.d.ok && o.a.ok
  | .vfrcp o => fpTy o.ty && o.d.ok && o.a.ok
  | .vfrsq o => fpTy o.ty && o.d.ok && o.a.ok
  | .vfexp2 o => fpTy o.ty && o.d.ok && o.a.ok
  | .vflog2 o => fpTy o.ty && o.d.ok && o.a.ok
  | .vfsin o => fpTy o.ty && o.d.ok && o.a.ok
  | .vfcos o => fpTy o.ty && o.d.ok && o.a.ok
  | .vftanh o => fpTy o.ty && o.d.ok && o.a.ok
  | .vfcmp o => fpTy o.ty && o.a.ok && o.b.ok
  | .vfclass o => fpTy o.ty && o.d.ok && o.a.ok
  | .vfrnd o => fpTy o.ty && o.d.ok && o.a.ok
  | .vadd o => o.ty.isInt && o.d.ok && o.a.ok && o.b.ok
  | .vsub o => o.ty.isInt && o.d.ok && o.a.ok && o.b.ok
  | .vadds o => o.ty.isInt && o.d.ok && o.a.ok && o.b.ok
  | .vsubs o => o.ty.isInt && o.d.ok && o.a.ok && o.b.ok
  | .vmul o => o.ty.isInt && o.d.ok && o.a.ok && o.b.ok
  | .vmulh o => o.ty.isInt && o.d.ok && o.a.ok && o.b.ok
  | .vmin o => o.ty.isInt && o.d.ok && o.a.ok && o.b.ok
  | .vmax o => o.ty.isInt && o.d.ok && o.a.ok && o.b.ok
  | .vand o => o.ty.isInt && o.d.ok && o.a.ok && o.b.ok
  | .vor o => o.ty.isInt && o.d.ok && o.a.ok && o.b.ok
  | .vxor o => o.ty.isInt && o.d.ok && o.a.ok && o.b.ok
  | .vshl o => o.ty.isInt && o.d.ok && o.a.ok && o.b.ok
  | .vshlImm o => o.ty.isInt && o.d.ok && o.a.ok
  | .vshr o => o.ty.isInt && o.d.ok && o.a.ok && o.b.ok
  | .vshrImm o => o.ty.isInt && o.d.ok && o.a.ok
  | .vsra o => o.ty.isInt && o.d.ok && o.a.ok && o.b.ok
  | .vsraImm o => o.ty.isInt && o.d.ok && o.a.ok
  | .vcmp o => o.ty.isInt && o.a.ok && o.b.ok
  | .vabs o => o.ty.isInt && o.d.ok && o.a.ok
  | .vclz o => o.ty.isInt && o.d.ok && o.a.ok
  | .vpopc o => o.ty.isInt && o.d.ok && o.a.ok
  | .vcvt o =>
    cvtPair o.dst o.src && rndOk o.dst o.src o.rm && o.seg.toNat < cvtRatio o.dst o.src && o.d.ok && o.a.ok
  | .vpack o =>
    cvtPair o.dst o.src && o.src.width == 2 * o.dst.width && rndOk o.dst o.src o.rm && o.d.ok && o.a.ok && o.b.ok
  | .vunpk o =>
    cvtPair o.dst o.src && o.dst.width == 2 * o.src.width && rndOk o.dst o.src o.rm && o.d.ok && o.a.ok &&
    o.d != .reg 127 && o.d != .reg 767
  | .vqnt o =>
    (o.dst == .e2m1 || o.dst == .e4m3 || o.dst == .e5m2) && fpTy o.src && o.seg.toNat < cvtRatio o.dst o.src &&
    o.b.toNat < 768 && o.d != .reg o.b && o.d.ok && o.a.ok
  | .vscl o => fpTy o.ty && o.d.ok && o.a.ok && o.b.ok
  | .vsclImm o => fpTy o.ty && o.d.ok && o.a.ok
  | .vmov o => laneTy o.ty && o.d.ok && o.a.ok
  | .vmovi o => laneTy o.ty && o.imm.toNat < 2 ^ o.ty.width && o.d.ok
  | .vsel o => laneTy o.ty && o.d.ok && o.a.ok && o.b.ok
  | .vperm o =>
    laneTy o.ty && (o.ty.width != 8 || o.c == .reg 0) && o.d.ok && o.a.ok && o.b.ok && o.c.ok
  | .vshuf o =>
    laneTy o.ty && ((o.pat != .pswap && o.pat != .rev) || o.b == .reg 0) && o.d.ok && o.a.ok && o.b.ok
  | .vrot o => laneTy o.ty && o.d.ok && o.a.ok
  | .vslide o => laneTy o.ty && o.imm.toNat ≤ o.ty.lanes && o.d.ok && o.a.ok && o.b.ok
  | .vbcast o => laneTy o.ty && o.imm.toNat < o.ty.lanes && o.d.ok && o.a.ok
  | .vbcastScalar o => laneTy o.ty && o.d.ok
  | .vsetl o => laneTy o.ty && o.lane.toNat < o.ty.lanes && o.d.toNat < 768
  | .vtpose o =>
    laneTy o.ty && runOk o.d.toNat (2 * o.ty.width) && runOk o.a.toNat (2 * o.ty.width)
  | .viota o => o.ty.isInt && o.d.ok
  | .viotaCnt o => o.ty.isInt && o.d.ok
  | .vcompr o => laneTy o.ty && o.d.ok && o.a.ok
  | .vexpnd o => laneTy o.ty && o.d.ok && o.a.ok
  | .vrsum o => redTy o.ty && (fpTy o.ty || o.rm == .rne) && o.d.ok && o.a.ok
  | .vrmax o => redTy o.ty && (fpTy o.ty || o.rm == .rne) && o.d.ok && o.a.ok
  | .vrmin o => redTy o.ty && (fpTy o.ty || o.rm == .rne) && o.d.ok && o.a.ok
  | .vramax o => redTy o.ty && (fpTy o.ty || o.rm == .rne) && o.d.ok && o.a.ok
  | .vscan o => redTy o.ty && (fpTy o.ty || o.rm == .rne) && o.d.ok && o.a.ok
  | .vrsumw o => (o.ty == .f16 || o.ty == .bf16) && o.d.ok && o.a.ok
  | .pand _ => true
  | .por _ => true
  | .pxor _ => true
  | .pnot _ => true
  | .pmov _ => true
  | .pset o => laneTy o.ty
  | .pfirst o => laneTy o.ty
  | .syncM => true
  | .lease => true
  | .lrel => true
  | .accz _ => true
  | .accld o => accldPair o.src o.cell
  | .accst o => accstPair o.dst o.cell
  | .mma o => mmaPair o.aty o.bty
  | .attq o => attTy o.qty
  | .attkv o => attTy o.aty && attTy o.bty
  | .attfin _ => true
  | .attst o => fpTy o.oty
  | .attmrg o => fpTy o.oty
  | .mburstStart => true
  | .mburstEnd => true
  | .mstat _ => true
  | .syncA => true
  | .tbind _ => true
  | .tunb _ => true
  | .tvacq _ => true
  | .tvbump _ => true
  | .tfill _ => true
  | .tpref _ => true
  | .tpin o => o.sa != 0 || o.imm == 0
  | .tunpin _ => true
  | .tunpinSlot _ => true
  | .thint _ => true
  | .thintSlot _ => true
  | .twb _ => true
  | .twbSlot _ => true
  | .tinv _ => true
  | .tinvSlot _ => true
  | .tcopy _ => true
  | .gset _ => true
  | .grun _ => true
  | .gsto _ => true
  | .gstop _ => true
  | .qclr o => o.q.toNat < 12
  | .ldx _ => true
  | .ldxBt o => !o.pos || !o.i.getLsbD 0
  | .gatherLin o => laneTy o.ty && 1 ≤ o.bytes.toNat && o.bytes.toNat ≤ 256
  | .gatherPaged o => laneTy o.ty && 1 ≤ o.bytes.toNat && o.bytes.toNat ≤ 256
  | .gatherIdx _ => true
  | .scatterLin o => laneTy o.ty && 1 ≤ o.bytes.toNat && o.bytes.toNat ≤ 256
  | .scatterPaged o => laneTy o.ty && 1 ≤ o.bytes.toNat && o.bytes.toNat ≤ 256
  | .tzero _ => true
  | .syncF => true
  | .rld o => (o.ord == .relaxed || o.ord == .acq) && remScope o.ord o.scope
  | .rst o =>
    (o.ord == .relaxed || o.ord == .rel) && remScope o.ord o.scope && pairOk o.size o.sb
  | .ramo o => (o.size == .b4 || (o.size == .b8 && o.op != .fadd)) && remScope o.ord o.scope
  | .rcas o =>
    (o.size == .b4 || o.size == .b8 || o.size == .b16) && remScope o.ord o.scope && pairOk o.size o.sb && pairOk o.size o.sc
  | .rsig o => o.inc != 0
  | .rput _ => true
  | .rget _ => true
  | .grpset _ => true
  | .grpstat o => o.sd != 0
  | .mldred _ => true
  | .mcast _ => true
  | .rfence => true
  | .rwait => true
  | .syncJ => true
  | .jcopy _ => true
  | .jfill _ => true
  | .jsel _ => true
  | .jpage _ => true
  | .jspan _ => true
  | .jcommit _ => true
  | .jtag _ => true
  | .jnode _ => true
  | .jwait o => o.sd != 0
  | .jwaitAll o => o.sd != 0
  | .jstat o => o.sd != 0
  | .jcancel o => o.sd != 0
  | .signalClause => true
  | .rsigArrival => true
  | .taskEnd => true
  | .replayExecute => true
  | .tileFill => true
  | .tileWriteBack => true
  | .causalWriteApply => true
  | .controlNodeWrite => true
  | .controlNodeRead => true
  | .mailboxCas => true
  | .copyJob => true
  | .fillJob => true
  | .selectJob => true
  | .pageJob => true
  | .tagJob => true
  | .spanKeep => true
  | .spanClose => true
  | .spanCloseRot => true
  | .commitJob => true
  | .commitRepair => true
  | .pendingFramePush => true
  | .generatorLoadEntry => true
  | .generatorStoreEntry => true
  | .versionReread => true
  | .remoteRequest => true
  | .remoteAck => true
  | .remoteTimeout => true
  | .deferredFailure => true
  | .contributionArrival => true
  | .episodeResult => true
  | .reduceTimeout => true
  | .leaseGrant => true
  | .leaseQuantumExpiry => true
  | .arrayLevelStep => true
  | .burstLapse => true
  | .rampDownStart => true
  | .recordFetch => true
  | .eventWaitResolve => true
  | .nodeDispatch => true
  | .waitMemoryPoll => true
  | .signalMemory => true
  | .fenceRecord => true
  | .nopRecord => true
  | .recordCompletion => true
  | .pendingLaunchEntry => true
  | .agingTimer => true
  | .quantumExpiry => true
  | .safePointStop => true
  | .preemptDeadline => true
  | .teamResume => true
  | .qcfgWrite => true
  | .wptrWrite => true
  | .registerWrite => true
  | .faultDelivery => true
  | .refusedAccessRetry => true
  | .packetRoute => true
  | .idleFlit => true
  | .linkSilence => true
  | .linkReplayLimit => true
  | .dieLost => true
  | .linkNoticeReceive => true
  | .pctlRetrain => true
  | .pctlDis => true
  | .linkTrainingDone => true
  | .fepochWrite => true
  | .windowTableWrite => true
  | .powerOn => true
  | .resetRequest => true
  | .firmwareFetchRetry => true
  | .firmwareImage => true
  | .attestationRequest => true
  | .sensorRefresh => true
  | .chronoExchange => true
  | .referenceLoss => true

end Sys2Proof
end

