-- ==== Sys2Proof/Machine/SMap.lean ====
section
/-! DEFINITION. Sparse stores: reading, writing and building them in their one canonical form (keys strictly rising, no
entry equal to what an unlisted key reads as). -/

namespace Sys2Proof.SMap

/-- The value at a key; `d` is what an unlisted key reads as. -/
def look {α : Type} (d : α) : SMap α → Nat → α
  | [], _ => d
  | (k', v) :: t, k => if k' = k then v else look d t k

/-- Take a key out. -/
def drop {α : Type} : SMap α → Nat → SMap α
  | [], _ => []
  | (k', v) :: t, k => if k' = k then drop t k else (k', v) :: drop t k

/-- List a key with a value. -/
def ins {α : Type} : SMap α → Nat → α → SMap α
  | [], k, v => [(k, v)]
  | (k', v') :: t, k, v =>
    if k' = k then (k, v) :: t else if k < k' then (k, v) :: (k', v') :: t else (k', v') :: ins t k v

/-- Write a value; writing what an unlisted key reads as takes the entry out. -/
def put {α : Type} [DecidableEq α] (d : α) (m : SMap α) (k : Nat) (v : α) : SMap α :=
  if v = d then drop m k else ins m k v

/-- The canonical form. -/
def wf {α : Type} [DecidableEq α] (d : α) : SMap α → Bool
  | [] => true
  | [(_, v)] => decide (v ≠ d)
  | (k, v) :: (k', v') :: t => decide (k < k') && decide (v ≠ d) && wf d ((k', v') :: t)

/-- The store of `f` over keys below `n`, from a list of all its values in order. -/
def ofVals {α : Type} [DecidableEq α] (d : α) (l : List α) : SMap α :=
  go 0 l
where
  go (k : Nat) : List α → SMap α
    | [] => []
    | v :: t => if v = d then go (k + 1) t else (k, v) :: go (k + 1) t

/-- The values at keys below `n`, in order. -/
def vals {α : Type} (d : α) (n : Nat) (m : SMap α) : List α :=
  go n 0 m
where
  go : Nat → Nat → SMap α → List α
    | 0, _, _ => []
    | f + 1, i, [] => d :: go f (i + 1) []
    | f + 1, i, (k, v) :: t => if k = i then v :: go f (i + 1) t else d :: go f (i + 1) ((k, v) :: t)

end Sys2Proof.SMap
end

