-- ==== Sys2Proof/Config.lean ====
section
/-! DEFINITION. What the spec leaves open and what stands outside the model: free values. Each is an opaque constant
with no body, so nothing can be proved about its value; the step applies those that take a counter to State.ctr. -/

namespace Sys2Proof

/-- Which strand or step of the part moves when State.turns names none. The spec gives agents no common order
(02, R20; 05, R113), so any may be next, with any input from outside. (log 2 DEDUCED, 5 DESIGN CHOICE) -/
opaque Config.nextTurn : Nat → Option Turn

/-- How many 1 ns ticks of the Chronometer pass in one step of the model: the spec gives no execution times (01, R15).
(log 5 DESIGN CHOICE, 6 DEDUCED) -/
opaque Config.elapsed : Nat → Nat

/-- The byte that a read of another module's memory in the load-store domain returns (21, R431): counter, address.
(log 5 DESIGN CHOICE, 27 DEDUCED) -/
opaque Config.remoteByte : Nat → Nat → Byte

/-- The cause, if any, that another module or the way to it returns for an access to its memory, with what the record tells of
it (04, R109; 08, R196; 21, R431): counter, address. (log 5 DESIGN CHOICE, 27 DEDUCED) -/
opaque Config.remoteFails : Nat → Nat → Option (Cause × Nat)

/-- Whether another module refuses a write for a migration (21, R432, R433): counter, address. (log 5 DESIGN CHOICE) -/
opaque Config.remoteRefuses : Nat → Nat → Bool

/-- Which of the contents that a core may still fetch of a code word whose patch is incomplete it fetches (08, R216): counter,
address. (log 5 DESIGN CHOICE, 18 DEDUCED) -/
opaque Config.fetchPick : Nat → Nat → Nat

/-- Whether a port's adaptive channel has no room (23, R463), which depends on times and limits that the model does not hold:
counter, port. (log 5 DESIGN CHOICE) -/
opaque Config.adaptiveFull : Nat → Nat → Bool

/-- Whether a participant of another module that has not arrived at a domain-level barrier stands on a die (02, R39), which the module
does not hold: counter, the barrier's episode, the die's physical label. (log 5 DESIGN CHOICE, 70 DESIGN CHOICE) -/
opaque Config.farJoins : Nat → Nat → BitVec 14 → Bool

/-- Whether the stop of a fault has not yet reached another strand of the task (22, R438). (log 5 DESIGN CHOICE, 9 DEDUCED) -/
opaque Config.stopLate : Nat → Bool

/-- The reads of a window that only part of an access reaches, and of bytes that an opaque section of a save image
holds (22, R451): counter, address. (log 5 DESIGN CHOICE) -/
opaque Config.opaqueByte : Nat → Nat → Byte

/-- The order in which a copy or fill job performs its elements where the order shows (12, R344): counter, how many.
(log 5 DESIGN CHOICE, 33 DESIGN CHOICE) -/
opaque Config.elementOrder : Nat → Nat → List Nat

/-- The handle that LAUNCH gives (08, R220), for which the spec gives no numbering: context, how many launches before.
(log 5 DESIGN CHOICE) -/
opaque Config.launchHandle : Nat → Nat → BitVec 32

/-- SHA-256 of an image (25, R481, R484), not computed in the model. (log 5 DESIGN CHOICE) -/
opaque Config.sha256 : List Byte → BitVec 256

/-- Whether a firmware image's signature checks against the fused vendor key (25, R481). (log 5 DESIGN CHOICE) -/
opaque Config.signatureGood : List Byte → List Byte → Bool

/-- The ECDSA P-256 signature of an attestation report (25, R484) over the digest given. (log 5 DESIGN CHOICE) -/
opaque Config.sign : BitVec 256 → BitVec 512

/-- The fused public identity key of a die (25, R484). (log 5 DESIGN CHOICE) -/
opaque Config.identityKey : Nat → BitVec 512

end Sys2Proof
end

