-- ==== Sys2Proof/Machine/State.lean ====
section
/-! DEFINITION. The state of one FCY-192A module as plain data: every register, memory, queue, table and pending
operation the spec names, the state right after reset, and the ways a step can stop. The rule that names each field
stands in its docstring; INVENTORY.md lists the same fields with their widths and reset values. -/

namespace Sys2Proof.Machine

/-! ## Faults waiting for delivery -/

/-- What a fault record of R443 will say, beside what the part adds when it writes it. `addr` to `slot` are the
fields of the same names; `pc` is the word that raised the cause; `strand` is none for an engine; `after`: the restart point
follows the word once the cause is delivered (R440); `parked`: the word stands in a replay entry. -/
structure FaultInfo where
  cause : Cause
  origin : Nat := 0
  strand : Option Eng := none
  pc : Va := 0
  addr : Va := 0
  info : BitVec 64 := 0
  info2 : BitVec 64 := 0
  label : Option (BitVec 14) := none
  slot : BitVec 10 := 0
  row : BitVec 6 := 0
  more : BitVec 16 := 0
  handle : BitVec 32 := 0
  queue : BitVec 8 := 0
  /-- the model's own: the coordinates of the tile a recall left held (R107, R298) -/
  k : BitVec 128 := 0
  stamp : Word := 0
  after : Bool := false
  parked : Bool := false
  /-- the task's own signal that overflowed, with the writes it stands for: it is tried again after a fault that was not delivered
  (R34, R439) -/
  again : Option (SigClause × List Nat) := none
  /-- no strand goes on before it is delivered: a user fault that a saved task brings back (R453) -/
  all : Bool := false
  deriving DecidableEq, Repr

/-! ## Strands and the window buffer (02) -/

/-- One entry of the loop stack of R199. A LOOPM takes one too; its parameters stand in `lm`. -/
structure LoopM where
  len : Nat
  stages : Nat
  trips : Nat
  pass : Nat
  vstep : Nat
  pstep : Nat
  guard : Nat
  deriving DecidableEq, Repr
structure LoopEnt where
  start : Va
  last : Va
  remaining : Nat
  depth : Nat
  lm : Option LoopM
  deriving DecidableEq, Repr

/-- What a strand does at its present word between two of its steps. -/
inductive Phase where
  /-- it has not begun the word -/
  | fresh
  /-- a BAR has counted its arrival in the numbered episode (R37) -/
  | barred (episode : Nat)
  /-- TVACQ has read VERSION and waits for it to change (R294) -/
  | rereading
  /-- its wait clause has been satisfied and the word waits for what its entry names -/
  | begun
  /-- its `issue` signal has been applied and the word waits (R350) -/
  | issued
  /-- a SEMWAIT whose threshold has been reached while it waited (R32, R217) -/
  | woken
  deriving DecidableEq, Repr

/-- A refused access that is sent again (R433): when it was first refused, when it goes next, the present gap,
whether it is on its way again, and its address. -/
structure Retry where
  since : Word
  next : Word
  gap : Nat
  go : Bool
  addr : Va
  deriving DecidableEq, Repr

/-- One strand of a task (R20): its program counter and path count, how many FORKs it has obeyed, its own loop stack
and call depth (R199), and what it does at its present word. -/
structure Strand where
  pc : Va := 0
  path : Nat := 0
  epoch : Nat := 0
  loops : List LoopEnt := []
  depth : Nat := 0
  phase : Phase := .fresh
  ended : Bool := false
  retry : Option Retry := none
  /-- the semaphore and threshold of the wait clause of the word it has reached and not yet begun, or of its SEMWAIT
  (R32) -/
  waiting : Option (BitVec 8 × BitVec 8) := none
  deriving DecidableEq, Repr

/-- The value a semaphore holds and its floor (R31). -/
structure Sem where
  val : BitVec 16 := 0
  floor : BitVec 8 := 0
  deriving DecidableEq, Repr

/-- A control-register write of the S strand that the V or the M strand meets in text order (R61, R285). -/
structure CtlWrite where
  eng : Eng
  csr : Csr
  val : Word
  deriving DecidableEq, Repr

/-- What the S strand deposits as it passes one word (R22, R23): the s and k registers, the text-order control
registers, the condition latch and the register target of an X word, and a control write to hand on. -/
structure Deposit where
  epoch : Nat
  path : Nat
  s : SMap Word
  k : SMap (BitVec 128)
  fpctl : Word
  rrb : BitVec 10
  prb : BitVec 5
  taken : Bool
  target : Va
  ctl : List CtlWrite
  deriving DecidableEq, Repr

/-! ## Tensors and tiles (04) -/

/-- A bound slot (R78): the descriptor's address and copy, the acquired version (R104), and the slot's default hint. -/
structure Binding where
  addr : Va
  desc : BitVec 512
  av : BitVec 32
  strm : Bool
  deriving DecidableEq, Repr

/-- The name of a tile within a core (R82, R89): context, slot and coordinates. -/
structure TileName where
  asid : BitVec 16
  slot : BitVec 10
  k : BitVec 128
  deriving DecidableEq, Repr

/-- A tile cache line (R89, R91 to R93, R100 to R102): the version and presence mask of its fill, FIRST of R279 and the frame of its page (R87), its
way and age, its marks, its elements' bits by row × width + column, an MX tile's scales (R86), the binding it was filled
under, the bytes its dirty contents give to reads of memory (R106), the first row a failed write-back left
uncommitted, and the lines that a later registration has taken over and that have been written since (R100). -/
structure Tile where
  name : TileName
  ver : BitVec 32
  mask : BitVec 128
  first : BitVec 32
  pageFrame : Nat
  bind : Binding
  ctx : Nat
  owner : Nat
  node : Nat
  way : Nat
  age : Nat
  class0 : Bool
  strm : Bool
  pinned : Bool
  dirty : Bool
  fwd : List Host.Cell
  held : Option FaultInfo
  fromRow : Nat
  passed : List Nat
  data : SMap (BitVec 32)
  scales : SMap (BitVec 8)
  scaleBind : Option Binding
  deriving DecidableEq, Repr

/-- A tile that a word names (R95): the core whose cache is looked up (R98), whether the word writes it, whether it must be
filled when absent, and the last-use and multicast marks. -/
structure TileUse where
  core : Nat
  slot : BitVec 10
  k : BitVec 128
  write : Bool := false
  fill : Bool := true
  lu : Bool := false
  mc : Bool := false
  deriving DecidableEq, Repr

/-- A fill on its way (R95, R97): the cache, slot and coordinates, the version it started under (R104), the parked word
it serves, by strand and position, and how many generator runs the strand had issued before it (R304). -/
structure Fill where
  core : Nat
  slot : BitVec 10
  k : BitVec 128
  av : BitVec 32
  eng : Eng
  epoch : Nat
  path : Nat
  runs : Nat
  deriving DecidableEq, Repr

/-- A prefetch itinerary (R94): the slot and the tiles still to start. -/
structure Itinerary where
  slot : BitVec 10
  todo : List (BitVec 128)
  /-- how many generator runs the strand had issued before its TPREF (R304), and its position -/
  runs : Nat := 0
  epoch : Nat := 0
  path : Nat := 0
  deriving DecidableEq, Repr

/-! ## Index registers, generators and queues (11) -/

/-- An index register (R311). -/
structure IndexReg where
  ent : SMap (BitVec 32) := []
  len : Nat := 0
  bound : BitVec 32 := 0
  mark : Option (Va × BitVec 32) := none
  deriving DecidableEq, Repr

/-- What a run walks: a strided nest (R305), rows at addresses (R315, R316) or the index values themselves. -/
inductive RunKind where
  | nest (par : BitVec 256) (row : Bool)
  | rows (addrs : List Va) (bytes : Nat) (ty : ETy)
  | idx (vals : List (BitVec 32))
  deriving DecidableEq, Repr
inductive GenMode where
  | idle | running | stopped | halted
  deriving DecidableEq, Repr
/-- A generator and the parameters and counters of its run (R304 to R310). `entry` is the entry being assembled or
drained, `elem` the next element in it, `part` the lanes assembled so far. -/
structure Gen where
  mode : GenMode := .idle
  load : Bool := true
  queue : Nat := 0
  kind : RunKind := .nest 0 false
  entry : Nat := 0
  elem : Nat := 0
  part : Vec := 0
  pc : Va := 0
  run : Nat := 0
  /-- a refused write of the run (R433) -/
  retry : Option Retry := none
  deriving DecidableEq, Repr

/-! ## Accumulator sets (10) -/

inductive SetState where
  | empty | resident | spilled
  deriving DecidableEq, Repr
/-- The query buffer of R276 and R277: elements with their scales by 256 × row + column, none where outside. -/
structure QueryBuf where
  q : SMap (Option (BitVec 32 × BitVec 8))
  ty : ETy
  d : Nat
  nq : Nat
  scale : BitVec 32
  qpos0 : BitVec 32
  mode : Nat
  window : Nat
  group : Nat
  deriving DecidableEq, Repr
/-- A triple (R276): m and l of each row as f32 bits, with unlisted rows at −inf and +0; its active rows. -/
structure Triple where
  m : SMap (BitVec 32)
  l : SMap (BitVec 32)
  active : Nat
  qb : Option QueryBuf
  deriving DecidableEq, Repr
/-- A logical accumulator set (R264): 256 × 256 cells by 256 × row + column while it is not spilled; a spilled set's cells
stand in memory, in its task's save area (R451). -/
structure AccSet where
  st : SetState := .empty
  cells : SMap (BitVec 32) := []
  tri : Option Triple := none
  deriving DecidableEq, Repr

/-! ## Fabric operations of a task (12) -/

/-- A group descriptor's fields (R330). -/
structure GroupDesc where
  slots : Nat
  timeout : Nat
  count : Nat
  oty : ETy
  ity : ETy
  op : BitVec 2
  gid : BitVec 16
  mask : BitVec 14
  base : BitVec 14
  deriving DecidableEq, Repr
inductive GroupState where
  | unset | ready | busy | aborted
  deriving DecidableEq, Repr
/-- A group slot (R330 to R335): its state, descriptor, the die label it joined from, completed episodes, the cause of
the last abort and the label it names, and of the episode in progress the output address, the refusal of its output, the place of
its MLDRED among the F words, its address, the number its signal waits for, and whether its task has left the die meanwhile. -/
structure Group where
  st : GroupState := .unset
  desc : Option GroupDesc := none
  label : BitVec 14 := 0
  done : Nat := 0
  cause : Cause := .none
  absent : Option (BitVec 14) := none
  out : Va := 0
  retry : Option Retry := none
  req : Nat := 0
  pc : Va := 0
  reqId : Nat := 0
  moved : Bool := false
  deriving DecidableEq, Repr

/-- A deferred failure (R320). -/
structure Deferred where
  order : Nat
  cause : Cause
  pc : Va
  addr : Va
  label : Option (BitVec 14)
  group : BitVec 4
  deriving DecidableEq, Repr

/-! ## Signals still to come (R33) -/

/-- What a signal waits for: a generator's run, F requests, a job, or the first `n` cross-die writes of a die. -/
inductive Token where
  | run (g n : Nat)
  | reqs (ids : List Nat)
  | job (handle : Nat)
  | writes (die : Nat) (n : BitVec 32)
  /-- the task is in no handler: a signal of its own that overflowed is tried again when its program goes on (R439) -/
  | resumed
  deriving DecidableEq, Repr
structure PendSig where
  clause : SigClause
  eng : Eng
  pc : Va
  until_ : List Token
  /-- the writes that the signal stands for (R36) -/
  ids : List Nat := []
  deriving DecidableEq, Repr

/-- The operands a word reads at issue (R23, R95): the snapshot of its position. -/
structure Env where
  s : SMap Word := []
  k : SMap (BitVec 128) := []
  fpctl : Word := 0
  rrb : BitVec 10 := 0
  prb : BitVec 5 := 0
  pc : Va := 0
  eng : Eng := .s
  /-- how many generator runs had been issued before the word (R304), and its position (R20) -/
  runs : Nat := 0
  epoch : Nat := 0
  path : Nat := 0
  deriving DecidableEq, Repr

/-- A parked word of the M or A strand (R95): its operands as read, its clauses, its position, the tiles it names, and the
refusal of an access of it (R433). -/
structure Parked where
  instr : Instr
  clauses : Clauses
  env : Env
  epoch : Nat
  path : Nat
  uses : List TileUse
  retry : Option Retry := none
  deriving DecidableEq, Repr

/-- The control state that a user fault entry saves (R447): section B of the image. Beside it stand the parked word whose
fault was delivered, if it was one (R440), and where the handler's own F words, generator runs and jobs begin. -/
structure Ctrl where
  strands : SMap Strand
  window : List Deposit
  rrb : BitVec 10
  prb : BitVec 5
  frame : Va
  token : Word
  parked : Option (Eng × Va)
  fseq : Nat
  runs : Nat
  jseq : Nat
  deriving DecidableEq, Repr

/-! ## A task (02, R19) -/

/-- (log 1 DESIGN CHOICE) -/
structure Task where
  /-- context number (R389); the kernel core's task has none -/
  ctx : Option Nat := none
  asid : BitVec 16 := 0
  /-- the launch node, the team number and the save image of the task (R391, R403) -/
  node : Nat := 0
  team : Nat := 0
  image : Nat := 0
  /-- the model's own: which task of the module's life this is, and its rank's core-independent number in its team -/
  uid : Nat := 0
  rank : Nat := 0
  /-- kernel level (R382) -/
  kernel : Bool := false
  strands : SMap Strand := []
  window : List Deposit := []
  s : SMap Word := []
  /-- the model's own: the s registers written since the S strand's first read of memory after its last acquire, none
  before that read; an address in one of them may depend on what was read (R120) -/
  dep : Option (List Nat) := none
  k : SMap (BitVec 128) := []
  v : SMap Vec := []
  p : SMap (BitVec 128) := []
  g : SMap (BitVec 256) := []
  i : SMap IndexReg := []
  /-- q0-q7 and w0-w3 by the queue field of R167, oldest entry first (R230) -/
  q : SMap (List Vec) := []
  sem : SMap Sem := []
  /-- FPCTL, FPSTAT, LSEED (R58 to R60), RRB, PRB, WIN (R26), identity (R27), DOMAIN (R38), MSTAT (R285), UFENTRY (R445);
  FPSTAT, LSEED and MSTAT as V and M have left them, FPCTL, RRB and PRB as the S strand has -/
  fpctl : Word := 0
  fpstat : Word := 0
  lseed : Word := 0
  rrb : BitVec 10 := 0
  prb : BitVec 5 := 0
  win : BitVec 13 := 256
  taskid : Word := 0
  teaminfo : Word := 0
  gridinfo : Word := 0
  domain : Word := 0
  sticky : BitVec 6 := 0
  spills : BitVec 16 := 0
  ufentry : Word := 0
  slots : SMap Binding := []
  replay : List Parked := []
  fills : List Fill := []
  itins : List Itinerary := []
  gens : SMap Gen := []
  accs : SMap AccSet := []
  groups : SMap Group := []
  defer : List Deferred := []
  sigs : List PendSig := []
  /-- handles of the jobs this task's J strand submitted, oldest first (R348) -/
  jobs : List Nat := []
  /-- issue counters: F words, generator runs -/
  fseq : Nat := 0
  runs : Nat := 0
  /-- failures of directory recalls, taken by the next word any strand reaches (R107) -/
  recalls : List FaultInfo := []
  /-- faults raised and not yet delivered (R438, R439), first raised first -/
  faults : List FaultInfo := []
  /-- the control state a user fault interrupted (R447) -/
  saved : Option Ctrl := none
  /-- the lease (R285): held at a save, or a request posted -/
  leaseReq : Bool := false
  leaseHeld : Bool := false
  /-- an immediate or safe-point stop has been requested (R420), and the time it was -/
  stop : Option Word := none
  /-- the position (FORKs obeyed, path count) each strand stops at (R420, R219) -/
  stopAt : Option (Nat × Nat) := none
  /-- the live-mask record of the safe point it stops at; none when every register is live (R192, R219) -/
  stopLive : Option Nat := none
  deriving DecidableEq, Repr

/-- A core: its task if it runs one, its tile cache (R89). Cores 0 to 191; 192 and 193 are the kernel cores (R382).
(log 1 DESIGN CHOICE) -/
structure Core where
  task : Option Task := none
  tiles : List Tile := []
  /-- the kernel core has stopped after a fault of its own (R482) -/
  halted : Bool := false
  /-- the performance counter of skipped itinerary entries (R94) -/
  skips : Nat := 0
  deriving DecidableEq, Repr

/-! ## Clusters (10) -/

/-- The array of a cluster (R262, R265, R283): holder, posted requests, the last holder, array words and start time of
the quantum and its bounds (R388), the tenancies of the physical sets (core, set; most recently named last), the current level, burst
declarations with their last array word, whether ramp-down runs, and whether it is to begin as soon as array work ends. -/
structure Cluster where
  holder : Option Nat := none
  reqs : List Nat := []
  last : Nat := 0
  words : Nat := 0
  since : Word := 0
  qcmd : Nat := 0
  qcyc : Nat := 0
  sets : List (Nat × Nat) := []
  level : Nat := 0
  bursts : List (Nat × Word) := []
  lastWork : Word := 0
  falling : Bool := true
  soon : Bool := false
  deriving DecidableEq, Repr

/-! ## Memory beside the cells (05, 04, 08, 21) -/

/-- A write on its way to the other die (R126, R127): its bytes, its place in its die's order and the stamp it carries, by
the position of each die in the domain. -/
structure XWrite where
  addr : Nat
  bytes : List Byte
  seq : BitVec 32
  need : SMap (BitVec 32)
  /-- the model's own number of the write -/
  id : Nat
  deriving DecidableEq, Repr

/-- Who performs reads and writes in an order of its own (R113): a strand on a core, or the Pilot of a die. The job engines
read as the J strand that submitted the job, or as their Pilot. -/
inductive Agent where
  | strand (core : Nat) (eng : Eng)
  | pilot (die : Nat)
  deriving DecidableEq, Repr

/-- Writes, by number, each with the scope at which it is ordered before something (R120, R124). -/
abbrev Known : Type := List (Nat × Scope)

/-- A write that some agent may still not have seen (R116): its number, who made it and on which die, whether it is an STL and
at which scope (R207), whether it is a tile's (R129), and the writes ordered before it. (log 7 DEDUCED) -/
structure Event where
  id : Nat
  writer : Option Agent
  die : Nat
  stl : Option Scope
  tile : Bool
  known : Known
  deriving DecidableEq, Repr

/-- How a write stands on one die: the bytes that the die's agents read before it, the instant at which it became visible there
(R119, R126; none: not yet), and the agents that may still read what was before (R118 to R121). (log 7 DEDUCED) -/
structure Side where
  id : Nat
  die : Nat
  tile : Bool
  cells : List Host.Cell
  vis : Option Nat
  lag : List Agent
  deriving DecidableEq, Repr

/-- What an agent has met: the writes it has read, with what was ordered before them; the latest instant among its reads; the
same two of its last access; whether it has read at all; what the signals of its satisfied waits stand for (R36), in all and for
the word at a position; the writes a fence orders before its later writes (R122); and the writes of the word at a position.
(log 7 DEDUCED) -/
structure View where
  agent : Agent
  obs : Known := []
  tau : Nat := 0
  last : List Nat := []
  lastTau : Nat := 0
  reads : Bool := false
  pair : Known := []
  now : Option (Nat × Nat × Known) := none
  base : Known := []
  wrote : Option (Nat × Nat × List Nat) := none
  deriving DecidableEq, Repr

/-- A write that a signal to a semaphore of a core's task stands for, with the scope of the pair (R36). -/
structure SemPair where
  core : Nat
  sem : BitVec 8
  id : Nat
  scope : Scope
  deriving DecidableEq, Repr

/-- The model's own record of the order of accesses (R113 to R126), latest first: writes, how they stand on each die, what each
agent has met, what signals stand for, and the next number and instant. (log 7 DEDUCED) -/
structure Order where
  events : List Event := []
  sides : List Side := []
  views : List View := []
  pairs : List SemPair := []
  next : Nat := 1
  deriving DecidableEq, Repr

/-- The structures that cache translations (R428): a core's map unit, its L1D's TLB, a die's shared TLB, and a die's walker
cache by the level of the table that an entry leads to. -/
inductive TlbUnit where
  | mapUnit (core : Nat)
  | l1d (core : Nat)
  | die (d : Nat)
  | walker (d level : Nat)
  deriving DecidableEq, Repr

/-- A cached entry (R428): where it is held, the ASID, the virtual page's base and size, and the leaf as walked (slot 0's MST
in place), or the table entry. -/
structure TlbEnt where
  unit : TlbUnit
  asid : BitVec 16
  base : Nat
  size : Nat
  leaf : BitVec 64
  deriving DecidableEq, Repr

/-- A 16-byte word of memory as instruction fetch may see it (R215, R216): the contents that have reached the L2 or may have,
oldest first, which of them is the first that no fetch from the L2 goes back behind, the core whose L1D holds something newer,
and by core the first that its instruction cache may still hold and that the core itself may still run (IINV, FETCHB).
(log 18 DEDUCED) -/
structure CodeCell where
  addr : Nat
  vers : List (BitVec 128)
  clean : Nat := 0
  dirty : Option Nat := none
  inv : SMap Nat := []
  floor : SMap Nat := []
  deriving DecidableEq, Repr

/-! ## Queues and the Pilot (20) -/

/-- A control page (R399) with the Pilot's level and aging timer (R413). -/
structure Queue where
  qcfg : Word := 0
  qring : Word := 0
  qtime : Word := 0x00320007d00003e8
  wptr : BitVec 32 := 0
  rptr : BitVec 32 := 0
  errIdx : BitVec 32 := 0
  cause : BitVec 8 := 0
  level : BitVec 3 := 0
  halted : Bool := false
  timer : Option Word := none
  deriving DecidableEq, Repr

/-- A region of a footprint (R339): base, length, write. -/
structure Region where
  base : Nat
  len : Nat
  write : Bool
  deriving DecidableEq, Repr

inductive NodeState where
  | pool | running | done
  deriving DecidableEq, Repr
/-- A node of a ready pool (R408 to R411): the record and what is known of it. `status` and `cause` are those that its
completion record will carry. -/
structure Node where
  id : Nat
  queue : Nat
  die : Nat
  ctx : Nat
  record : BitVec 1024
  handle : BitVec 32
  device : Bool := false
  evOk : Bool := false
  edges : List Nat := []
  regions : List Region := []
  st : NodeState := .pool
  /-- the job card of a node as read at its fetch, with its footprint (R405) -/
  card : Option (BitVec 1024 × Option (List Region)) := none
  /-- a wait-memory record's test has held (R405) -/
  satisfied : Bool := false
  pollAt : Word := 0
  pollGap : Nat := 0
  polls : Nat := 0
  job : Option Nat := none
  nextTeam : Nat := 0
  ended : List Nat := []
  failed : List Nat := []
  binds : Option (List (Nat × Binding)) := none
  state3 : Bool := false
  status : Nat := 0
  cause : Cause := .none
  /-- a refused access for it (R433) -/
  retry : Option Retry := none
  deriving DecidableEq, Repr

inductive TeamState where
  | running | stopping | saved | faulted
  deriving DecidableEq, Repr
/-- A placed or saved team (R40 to R43): its node and number, first core, images, and how it stands. -/
structure Team where
  node : Nat
  num : Nat
  size : Nat
  ctx : Nat
  base : Nat
  images : List Nat
  st : TeamState
  placed : Word
  asked : Option Word := none
  deriving DecidableEq, Repr

/-- A saved task (R43, R450 to R452): the physical address of its image, the task as it stood, its held tiles, and what
the opaque sections held in memory when the save completed. -/
structure SavedTask where
  addr : Nat
  ext : Nat
  task : Task
  held : List Tile
  opaqueCells : List Host.Cell
  pending : List FaultInfo := []
  deriving DecidableEq, Repr

/-- A job (R338 to R342): its context and handle, the card as read, the footprint, the die whose engine runs it, who
submitted it, and the state JSTAT shows (R348). -/
structure Job where
  ctx : Nat
  handle : BitVec 32
  card : BitVec 1024
  foot : Option (List Region)
  die : Nat
  core : Option Nat
  node : Option Nat := none
  seq : Nat := 0
  code : Nat := 0
  /-- a refused access of it (R433) -/
  retry : Option Retry := none
  deriving DecidableEq, Repr

/-- A posted device-side launch (R416) with the launching queue and strand, by its task. -/
structure PendLaunch where
  ctx : Nat
  handle : BitVec 32
  record : BitVec 1024
  queue : Nat
  uid : Nat
  /-- its place among the context's launches (R221) -/
  seq : Nat := 0
  /-- its context was invalid when it was submitted (R390) -/
  refused : Bool := false
  deriving DecidableEq, Repr
/-- The state LSTAT shows (R220). -/
structure LaunchRec where
  ctx : Nat
  handle : BitVec 32
  st : Nat
  deriving DecidableEq, Repr

/-- A reader that R153 waits for: a GATHER by its task and run, or a parked ATTKV by its task and position. -/
inductive Reader where
  | gather (uid run : Nat)
  | attkv (uid epoch path : Nat)
  deriving DecidableEq, Repr
/-- A retired frame that waits until no earlier reader can name it (R145, R153). -/
structure PendFrame where
  pool : Nat
  ctx : Nat
  frame : BitVec 32
  readers : List Reader
  deriving DecidableEq, Repr

/-- A fault record still to be written (R443, R444): the context whose ring it goes to (the Binnacle's when none), the
die where the cause was raised, the record's class, and what the header fields hold. -/
structure RecordOut where
  ctx : Option Nat
  die : Nat
  info : FaultInfo
  cls : BitVec 2
  esc : Bool := false
  delivered : Bool := true
  image : BitVec 32 := 0xffffffff
  mcore : BitVec 8 := 0xff
  asid : BitVec 16 := 0
  deriving DecidableEq, Repr

/-- An open episode of a barrier (R37): the level, the grid or team it joins, the die at die level, its number, the
tasks that have arrived and the labels of other modules' participants that have. -/
structure Barrier where
  level : Nat
  key : Nat
  die : Nat
  episode : Nat
  arrived : List Nat
  remote : List (BitVec 14) := []
  deriving DecidableEq, Repr

/-! ## The fabric (12, 23) -/

/-- A request the part keeps until it is acknowledged (R464): who issued it, what it asks, where it lands. -/
structure FReq where
  id : Nat
  core : Nat
  image : Nat
  ctx : Nat
  order : Nat
  pc : Va
  die : Nat
  dst : BitVec 14
  key : BitVec 16
  fid : BitVec 32
  adp : Bool
  bank : Bool
  va : Va
  op : RemoteOp
  land : Option Va
  landSize : Nat
  sent : Word
  waits : List Nat
  /-- the scope of its acquire (R323); of its release, a signal being one (R323, R325) -/
  acq : Option Scope
  rel : Option Scope
  performed : Bool
  /-- refused at its destination or at its landing (R433) -/
  retry : Option Retry := none
  /-- the physical label its injection gave it (R460), and its number in its pair of dies (R464) -/
  phys : Option (BitVec 14) := none
  seq : Nat := 0
  /-- what has come back and is still to land -/
  back : Option (List Byte) := none
  /-- a failure that has come back and is still to be recorded (R320) -/
  failed : Option Deferred := none
  deriving DecidableEq, Repr

/-- A port of a router (R469) with its channel limits (R461). -/
structure Port where
  dis : Bool := false
  retrain : Bool := false
  chk : Bool := false
  expect : BitVec 14 := 0
  downs : BitVec 32 := 0
  far : BitVec 14 := 0
  cause : BitVec 3 := 0
  st : BitVec 2 := 0
  limits : SMap (BitVec 8) := []
  deriving DecidableEq, Repr

/-- A contribution that stands at the router of a die, and since when (R334). -/
structure HeldPart where
  die : Nat
  at_ : Word
  msg : ContribMsg
  deriving DecidableEq, Repr

/-- The router of a die (R457 to R466, R470, R474). -/
structure Router where
  lself : BitVec 14 := 0
  phys : BitVec 14 := 0
  accept : BitVec 2 := 0
  inj : Bool := false
  keydrops : BitVec 16 := 0
  routedrops : BitVec 16 := 0
  wrej : Bool := false
  nlost : BitVec 32 := 0
  nwidx : BitVec 32 := 0
  labels : SMap (BitVec 32) := []
  routes : SMap (BitVec 16) := []
  keys : SMap (BitVec 64) := []
  ports : SMap Port := []
  notices : SMap (BitVec 128) := []
  seen : List Notice := []
  /-- requests of other modules that were performed here, by label and sequence number (R464) -/
  done : List (BitVec 14 × Nat) := []
  /-- reservations of group slots: task, group slot, key, count (R474) -/
  reserved : List (Nat × Nat × BitVec 16 × Nat) := []
  /-- the next number of each pair, by destination label (R464) -/
  next : SMap Nat := []
  /-- the die-to-die partner answers on no lane (R470) -/
  partnerLost : Bool := false
  buffered : List PacketIn := []
  deriving DecidableEq, Repr

/-! ## The Binnacle and the control node (25) -/

inductive BootState where
  | rom | fetch | verify | init | sync | ready
  deriving DecidableEq, Repr
/-- (log 47 DEDUCED) -/
structure Sensor where
  trip : BitVec 16 := 0x06e0
  throt : BitVec 16 := 0x05f0
  passed : Bool := false
  value : BitVec 16 := 0
  deriving DecidableEq, Repr

/-- What leaves the module. (log 52 DEDUCED) -/
inductive OutMsg where
  | answer (addr : Nat) (bytes : List Byte)
  | casAnswer (addr : Nat) (old : BitVec 64)
  | notReady (addr : Nat)
  | imageRequest
  | failureReport
  | logRecord (record : BitVec 512)
  | notice (die : Nat) (port : Nat) (n : Notice)
  | packet (die : Nat) (port : Nat) (p : PacketIn)
  /-- a request leaves by a port of a die on a channel (R461): its number in its pair, the lowest number of the pair not yet
  retired (R464), its bank and physical destination, what it asks, and the scopes of its acquire and its release (R323) -/
  | request (id die port : Nat) (chan : BitVec 6) (seq oldest : Nat) (bank : Bool) (phys dst : BitVec 14) (op : RemoteOp)
      (acq rel : Option Scope)
  /-- a response, which carries the bank of its request (R467) -/
  | reply (label : BitVec 14) (seq : Nat) (bank : Bool) (a : AckResult)
  | contribution (m : ContribMsg)
  | groupAbort (fid : BitVec 32) (gid : BitVec 16) (c : Cause)
  | attestation (keys : List (BitVec 512)) (digest : BitVec 256) (gen : Nat) (state : BootState) (nonce : BitVec 256)
      (stamp : Word) (sig : BitVec 512)
  /-- an access of this module to another of the load-store domain, with the stamp it carries (R109, R127, R431) -/
  | remote (label : BitVec 14) (asid : BitVec 16) (va : Va) (op : RemoteOp) (stamp : SMap (BitVec 32))
  /-- the registration of a tile's bytes at another module's directory (R100) -/
  | remoteOwn (label : BitVec 14) (asid : BitVec 16) (va : Va) (n : Nat)
  /-- the answer to an access of another module, with what its fault record is to tell (R109, R443) -/
  | lsReply (label : BitVec 14) (va : Va) (a : AckResult) (info : Nat)
  /-- an access of another module goes on to a page's new home (R432) -/
  | forward (src label : BitVec 14) (asid : BitVec 16) (va : Va) (op : RemoteOp) (stamp : SMap (BitVec 32))
  | idle (die port : Nat)
  | barArrive (grid fid : BitVec 32)
  deriving DecidableEq, Repr

/-! ## Whose turn it is -/

/-- Who executes the present word, and its clauses. -/
structure Cur where
  core : Nat := 0
  eng : Eng := .s
  clauses : Clauses := ⟨none, none⟩
  /-- where the last access was refused -/
  addr : Va := 0
  deriving DecidableEq, Repr

/-! ## The state -/

structure State where
  /-- HBM of both dies and the Binnacle's log ring, by physical address (R13, R384, R486) -/
  mem : List Host.Cell
  cores : SMap Core
  clusters : SMap Cluster
  /-- writes in flight across the die-to-die link, by issuing die, oldest first (R126, R127) -/
  wb : SMap (List XWrite)
  /-- the causal stamps: by position in the domain how many of a die's writes have been applied at their homes, and by die of
  this module how many it has issued (R127) -/
  applied : SMap (BitVec 32)
  issued : SMap (BitVec 32)
  /-- the model's own: the record of the order of accesses, and how many writes each unit of the next reads goes back behind
  (R117 to R126) -/
  order : Order
  old : List Nat
  /-- lines recorded as lost (R112) and dirty registrations, oldest first: line, core, tile name (R100, R106) -/
  lost : List Nat
  /-- the next transfer meets a failed detect-only check (R111) -/
  mismatch : Bool
  /-- corrected errors counted, by die (R111) -/
  corrected : SMap Nat
  dirty : List (Nat × Nat × TileName)
  /-- 4 KiB pages granted for writing since their last harvest (R395, R430) -/
  grants : List Nat
  tlb : List TlbEnt
  code : List CodeCell
  /-- CTXTAB and the four registers of each of the eight partitions (R385, R386) -/
  ctxtab : Word
  parts : SMap PartRegs
  queues : SMap Queue
  /-- the queue each die's Pilot served last, for fetching and for dispatch (R398, R414) -/
  lastFetch : SMap Nat
  nodes : List Node
  nextNode : Nat
  teams : List Team
  images : List SavedTask
  /-- images reserved by placed tasks: context, image (R391) -/
  reservedImages : List (Nat × Nat)
  uids : Nat
  jobs : List Job
  jobSeq : Nat
  /-- the last job handle given in each context (R340) -/
  jobHandle : SMap Nat
  launches : SMap (List PendLaunch)
  launchLog : List LaunchRec
  launchHandle : SMap Nat
  pendFrames : SMap (List PendFrame)
  records : List RecordOut
  barriers : List Barrier
  episodes : Nat
  reqs : List FReq
  nextReq : Nat
  /-- contributions that have reached a router of the module (R334) -/
  contribs : List HeldPart
  routers : SMap Router
  boot : BootState
  firmware : List Byte
  digest : BitVec 256
  kernels : SMap KernelImage
  sensors : SMap Sensor
  rails : SMap (BitVec 48)
  refLost : List Nat
  /-- when each die last exchanged references (R488, R489) -/
  lastRef : SMap Word
  /-- CHRONO of die 0 (R488), by how much die 1's is ahead of it, and by die the correction still to be slewed in, in ticks, with
  the count at which its last tick was -/
  chrono : Word
  skew : Word
  slew : SMap Int
  slewAt : SMap Word
  /-- what has left the module, oldest first -/
  outbox : List OutMsg
  /-- the model's own: the turns already chosen, the counter that free values are drawn with, the running strand, and
  the input of the step being taken -/
  turns : List Turn
  ctr : Nat
  cur : Cur
  input : Input
  deriving DecidableEq, Repr

/-- Why a step can stop for good. (log 49 DEDUCED) -/
inductive Fault where
  /-- Raised by an access of a kernel-level strand to a physical address below 2^52 that no region of R13 or R384 holds.
  Safe: the spec gives such an address no contents and no cause. -/
  | physicalHole (addr : Nat)
  deriving DecidableEq, Repr

inductive Refusal where
  /-- Raised by an arm of exec whose instruction has no meaning yet. Safe: it stops the run. -/
  | notModelled (mnemonic : String)
  deriving DecidableEq, Repr

/-- The module right after power-on (R481): ROM on die 0, memory listing nothing, queues and routers at their reset
values, no task, no kernel core running. (log 1 DESIGN CHOICE, 4 DESIGN CHOICE) -/
def State.reset : State where
  mem := []
  cores := []
  clusters := []
  wb := []
  applied := []
  issued := []
  order := {}
  old := []
  lost := []
  mismatch := false
  corrected := []
  dirty := []
  grants := []
  tlb := []
  code := []
  ctxtab := 0
  parts := []
  queues := []
  lastFetch := []
  nodes := []
  nextNode := 0
  teams := []
  images := []
  reservedImages := []
  uids := 0
  jobs := []
  jobSeq := 0
  jobHandle := []
  launches := []
  launchLog := []
  launchHandle := []
  pendFrames := []
  records := []
  barriers := []
  episodes := 0
  reqs := []
  nextReq := 0
  contribs := []
  routers := []
  boot := .rom
  firmware := []
  digest := 0
  kernels := []
  sensors := []
  rails := []
  refLost := []
  lastRef := []
  chrono := 0
  skew := 0
  slew := []
  slewAt := []
  outbox := []
  turns := []
  ctr := 0
  cur := {}
  input := ⟨0, 0, .none⟩

end Sys2Proof.Machine
end

