-- ==== Sys2Proof/Machine/Mem.lean ====
section
/-! DEFINITION. Cores, tasks and strands by number; memory by physical address: its homes (01, R13), the regions above
HBM (19, R384), the registers of control pages, sensors and fabric windows, the directory's forwarding and recall
(04, R106), and writes on their way between the dies (05, R126, R127). -/

namespace Sys2Proof.Machine

/-! ## Cores, tasks, strands -/

/-- The die of a core; 192 and 193 are the kernel cores of dies 0 and 1 (R12, R382). -/
def dieOf (c : Nat) : Nat := if c < 192 then c / 96 else c - 192
/-- The kernel core of a die. -/
def kernelCore (die : Nat) : Nat := 192 + die
/-- The module cluster of a core (R27). -/
def clusterOf (c : Nat) : Nat := c / 4

def State.core (s : State) (c : Nat) : Core := SMap.look {} s.cores c
def State.setCore (s : State) (c : Nat) (x : Core) : State := { s with cores := SMap.put {} s.cores c x }
def State.task (s : State) (c : Nat) : Option Task := (s.core c).task
def State.setTask (s : State) (c : Nat) (t : Task) : State := s.setCore c { s.core c with task := some t }
def State.modTask (s : State) (c : Nat) (f : Task → Task) : State :=
  match s.task c with
  | some t => s.setTask c (f t)
  | none => s

/-- The number of a strand: its engine tag (R163). -/
def Eng.num (e : Eng) : Nat :=
  match e with
  | .s => 0 | .v => 1 | .m => 2 | .a => 3 | .f => 4 | .j => 5 | .x => 7
/-- The strands of a task; a kernel core's task has S alone, which walks the X words too (R382). -/
def strandsOf (kernel : Bool) : List Eng := if kernel then [.s] else [.s, .v, .m, .a, .f, .j]

def Task.strand (t : Task) (e : Eng) : Strand := SMap.look {} t.strands (Eng.num e)
def Task.setStrand (t : Task) (e : Eng) (x : Strand) : Task := { t with strands := SMap.put {} t.strands (Eng.num e) x }

/-- s0 reads zero and discards writes (R195). -/
def sget (m : SMap Word) (r : SReg) : Word := if r = 0 then 0 else SMap.look 0 m r.toNat
/-- The s registers written since a strand's first read of memory, with one more (R120). (log 7 DEDUCED) -/
def depend (l : Option (List Nat)) (r : SReg) : Option (List Nat) :=
  l.map fun l => if l.contains r.toNat then l else r.toNat :: l
def Task.sset (t : Task) (r : SReg) (v : Word) : Task :=
  if r = 0 then t else { t with s := SMap.put 0 t.s r.toNat v, dep := depend t.dep r }
def kget (m : SMap (BitVec 128)) (r : KReg) : BitVec 128 := SMap.look 0 m r.toNat
def Task.kset (t : Task) (r : KReg) (v : BitVec 128) : Task := { t with k := SMap.put 0 t.k r.toNat v }
def Task.semOf (t : Task) (n : BitVec 8) : Sem := SMap.look {} t.sem n.toNat
def Task.setSem (t : Task) (n : BitVec 8) (x : Sem) : Task := { t with sem := SMap.put {} t.sem n.toNat x }

/-! ## Homes and regions -/

def hbmEnd : Nat := 0x9000000000
/-- R13. -/
def homeDie (pa : Nat) : Nat := if pa < 0x4800000000 then 0 else 1
def chInDie (pa : Nat) : Nat := (pa - homeDie pa * 0x4800000000) / 4096 % 192
def stackOf (pa : Nat) : Nat := homeDie pa * 6 + chInDie pa / 32
def channelOf (pa : Nat) : Nat := homeDie pa * 192 + chInDie pa

/-- What stands at a physical address (R13, R384, R457, R485, R486). -/
inductive Where where
  | hbm
  | page (q off : Nat)
  | temp (n off : Nat)
  | rail (n off : Nat)
  | log
  | binnacle
  | window (die off : Nat)
  | hole
  deriving DecidableEq, Repr

/-- (log 49 DEDUCED) -/
def whereIs (pa : Nat) : Where :=
  if pa < hbmEnd then .hbm
  else if pa < 0x9000100000 then .page ((pa - hbmEnd) / 4096) ((pa - hbmEnd) % 4096)
  else if 0x9010000000 ≤ pa && pa < 0x9010000200 then .temp ((pa - 0x9010000000) / 8) (pa % 8)
  else if 0x9010000200 ≤ pa && pa < 0x9010000300 then .rail ((pa - 0x9010000200) / 8) (pa % 8)
  else if 0x9010100000 ≤ pa && pa < 0x9010200000 then .log
  else if 0x9010000000 ≤ pa && pa < 0x9011000000 then .binnacle
  else if 0x9020000000 ≤ pa && pa < 0x9020200000 then .window ((pa - 0x9020000000) / 0x100000) (pa % 0x100000)
  else .hole

/-! ## Plain bytes -/

/-- What a byte of device memory reads as when nothing has written it since power-on: the spec gives no value.
(log 3 DESIGN CHOICE) -/
def emptyByte : Byte := 0

def rawByte (m : List Host.Cell) (pa : Nat) : Byte := SMap.look emptyByte m pa
def rawPut (m : List Host.Cell) (pa : Nat) : List Byte → List Host.Cell
  | [] => m
  | b :: t => rawPut (SMap.put emptyByte m pa b) (pa + 1) t

/-- Memory in canonical form: addresses strictly rising, no cell equal to what an unlisted address reads as.
(log 3 DESIGN CHOICE) -/
abbrev Memory.wf (m : List Host.Cell) : Prop := SMap.wf emptyByte m = true

/-! ## Time -/

/-- The count of a die's Chronometer (R488). -/
def State.now (s : State) (die : Nat) : Word := if die = 0 then s.chrono else s.chrono + s.skew

/-- A refused access is sent again after 64 ns, and each later gap doubles up to 8,192 ns (R433). -/
def Retry.again (r : Option Retry) (now : Word) (addr : Va) : Retry :=
  match r with
  | none => ⟨now, now + 64, 64, false, addr⟩
  | some r =>
    let gap := min 8192 (2 * r.gap)
    ⟨r.since, now + BitVec.ofNat 64 gap, gap, false, addr⟩
/-- The time to send it again has not come. -/
def Retry.early (r : Option Retry) (now : Word) : Bool := r.any fun r => now < r.next
/-- It has been refused for so long (R433). -/
def Retry.over (r : Option Retry) (now : Word) (ticks : Nat) : Bool := r.any fun r => ticks ≤ (now - r.since).toNat

/-! ## Dirty tiles as memory sees them (R106) -/

def lineOf (pa : Nat) : Nat := pa / 64

/-- The holder of a line: the latest registration (R100). -/
def State.holder (s : State) (line : Nat) : Option (Nat × TileName) :=
  (s.dirty.reverse.find? fun d => d.1 == line).map fun d => d.2

def Core.tile (c : Core) (n : TileName) : Option Tile := c.tiles.find? fun t => t.name == n

/-- The byte that the latest registered tile covering an address forwards (R100, R106). -/
def State.forwarded (s : State) (pa : Nat) : Option Byte :=
  s.dirty.reverse.findSome? fun d =>
    if d.1 == lineOf pa then
      match (s.core d.2.1).tile d.2.2 with
      | none => none
      | some t => (t.fwd.find? fun x => x.1 == pa).map fun x => x.2
    else none

/-- A byte of memory at its home: forwarded from a tile that holds its line dirty, else from the home L2 (R106). -/
def State.homeByte (s : State) (pa : Nat) : Byte :=
  match s.forwarded pa with
  | some b => b
  | none => rawByte s.mem pa

/-- The newest byte that a die's own writes in flight give an address. -/
def flightByte : List XWrite → Nat → Option Byte
  | [], _ => none
  | w :: t, pa =>
    match flightByte t pa with
    | some b => some b
    | none => if w.addr ≤ pa && pa < w.addr + w.bytes.length then w.bytes[pa - w.addr]? else none

/-- (log 7 DEDUCED) -/
def State.flight (s : State) (die : Nat) : List XWrite := SMap.look [] s.wb die

/-- A byte as the agents of a die see it: their own die's writes in flight are visible to all of them at once
(R119, R126). -/
def State.byteOn (s : State) (die pa : Nat) : Byte :=
  match flightByte (s.flight die) pa with
  | some b => b
  | none => s.homeByte pa

/-! ## The registers above HBM -/

def State.queue (s : State) (q : Nat) : Queue := SMap.look {} s.queues q
def State.setQueue (s : State) (q : Nat) (x : Queue) : State := { s with queues := SMap.put {} s.queues q x }
def State.router (s : State) (d : Nat) : Router := SMap.look {} s.routers d
def State.setRouter (s : State) (d : Nat) (x : Router) : State := { s with routers := SMap.put {} s.routers d x }
def Router.port (r : Router) (p : Nat) : Port := SMap.look {} r.ports p
def Router.setPort (r : Router) (p : Nat) (x : Port) : Router := { r with ports := SMap.put {} r.ports p x }

/-- The 64-bit register at an offset of a control page (R399); others read zero. -/
def Queue.reg (x : Queue) (off : Nat) : Word :=
  match off with
  | 0x000 => x.qcfg
  | 0x008 => x.qring
  | 0x010 => x.qtime
  | 0x100 => x.wptr.setWidth 64
  | 0x108 => x.rptr.setWidth 64
  | 0x110 =>
    x.errIdx ++ 0#8 ++ x.cause ++ 0#5 ++ x.level ++ 0#6 ++
      (if x.halted then 2#2 else if x.qcfg.getLsbD 63 then 1#2 else 0#2)
  | _ => 0

/-- The registers of R485. -/
def Sensor.reg (x : Sensor) : Word := x.trip ++ x.throt ++ BitVec.ofBool x.passed ++ 0#15 ++ x.value

/-- What an unwritten label, route or channel-limit entry holds (R459, R461, R462): firmware's fill. -/
def labelDefault (k : Nat) : BitVec 32 := BitVec.ofNat 32 (0x40000000 + k % 16384)
def firstDim (x : Nat) : Nat := ((List.range 14).find? fun d => x.testBit d).getD 14
def routeDefault (phys : BitVec 14) (k : Nat) : BitVec 16 :=
  BitVec.ofNat 16 (firstDim (phys.toNat ^^^ (k % 16384)))
def Router.label (r : Router) (bank : Bool) (l : BitVec 14) : BitVec 32 :=
  let k := bank.toNat * 16384 + l.toNat
  SMap.look (labelDefault k) r.labels k
def Router.route (r : Router) (bank : Bool) (p : BitVec 14) : BitVec 16 :=
  let k := bank.toNat * 16384 + p.toNat
  SMap.look (routeDefault r.phys k) r.routes k

/-- Requests injected under the other bank and not yet acknowledged, and packets of it held here (FEPOCH.OLD, R458). -/
def State.oldCount (s : State) (d : Nat) : Nat :=
  let r := s.router d
  (s.reqs.filter fun q => q.die == d && q.phys.isSome && q.bank != r.inj).length + (r.buffered.filter fun p => p.bank != r.inj).length

def Router.used (r : Router) : Nat := (r.reserved.map fun x => x.2.2.2).sum

/-- The 32-bit word at an offset of a fabric window (R457). -/
def State.window32 (s : State) (d off : Nat) : Nat :=
  let r := s.router d
  let half (v : Nat) : Nat := if off % 8 = 4 then v / 2 ^ 32 else v % 2 ^ 32
  if off < 0x28 then
    match off / 8 with
    | 0 => half (r.lself.toNat * 2 ^ 16 + r.phys.toNat)
    | 1 => half (s.oldCount d % 2 ^ 32 * 2 ^ 16 + r.accept.toNat * 2 ^ 8 + r.inj.toNat)
    | 2 => half (r.keydrops.toNat * 2 ^ 32 + r.routedrops.toNat * 2 ^ 16 + r.wrej.toNat)
    | 3 => half (r.nlost.toNat * 2 ^ 32 + r.nwidx.toNat)
    | _ => half (r.used * 2 ^ 16 + (4096 - r.used))
  else if 0x10000 ≤ off && off < 0x30000 then
    let k := (off - 0x10000) / 4
    (SMap.look (labelDefault k) r.labels k).toNat
  else if 0x30000 ≤ off && off < 0x40000 then
    let k := (off - 0x30000) / 2
    (SMap.look (routeDefault r.phys k) r.routes k).toNat +
      (SMap.look (routeDefault r.phys (k + 1)) r.routes (k + 1)).toNat * 2 ^ 16
  else if 0x40000 ≤ off && off < 0x40400 then
    half (SMap.look 0 r.keys ((off - 0x40000) / 8)).toNat
  else if 0x50000 ≤ off && off < 0x50e00 then
    let p := r.port ((off - 0x50000) / 0x100)
    let o := off % 0x100
    if o < 8 then half (p.dis.toNat * 2 ^ 63 + p.chk.toNat * 2 ^ 30 + p.expect.toNat * 2 ^ 16)
    else if o < 16 then half (p.downs.toNat * 2 ^ 32 + p.far.toNat * 2 ^ 16 + p.cause.toNat * 2 ^ 4 + p.st.toNat)
    else if 0x40 ≤ o && o < 0x80 then
      leNat ((List.range 4).map fun i => SMap.look 64 p.limits (o - 0x40 + i))
    else 0
  else if 0x60000 ≤ off && off < 0x61000 then
    field (SMap.look 0 r.notices ((off - 0x60000) / 16)).toNat (off % 16 * 8 + 31) (off % 16 * 8)
  else 0

/-- The bytes a read of a register region returns: whole registers byte by byte, and a fabric window only to aligned 4-
and 8-byte accesses (R457). -/
def State.regBytes (s : State) (pa n : Nat) : List Byte :=
  match whereIs pa with
  | .window d off =>
    if (n = 4 || n = 8) && off % n = 0 then
      leBytes n (s.window32 d off + (if n = 8 then s.window32 d (off + 4) * 2 ^ 32 else 0))
    else leBytes n 0
  | _ => (List.range n).map fun i =>
    match whereIs (pa + i) with
    | .page q off => ((s.queue q).reg (off / 8 * 8)).extractLsb' (off % 8 * 8) 8
    | .temp k off => (Sensor.reg (SMap.look {} s.sensors k)).extractLsb' (off * 8) 8
    | .rail k off => ((SMap.look 0 s.rails k).setWidth 64).extractLsb' (off * 8) 8
    | _ => 0

end Sys2Proof.Machine
end

