-- ==== Sys2Proof/Machine/Order.lean ====
section
/-! DEFINITION. The order of accesses (05, R113 to R126): scopes, the record of writes that some agent may still not have seen,
reads that go back behind them, and what acquires, releases, fences, signals and waits do to that record. Memory holds the
latest write of each byte; the record says what may be seen otherwise (log 7). -/

namespace Sys2Proof

/-! ## Scopes (R114) -/

/-- A scope that reaches the other die (R114). -/
def Scope.wide : Scope → Bool
  | .module | .domain => true
  | _ => false
def Scope.rank : Scope → Nat
  | .core => 0 | .team => 1 | .die => 2 | .module => 3 | .domain => 4
/-- The narrower of two scopes (R115). -/
def Scope.min (a b : Scope) : Scope := if a.rank ≤ b.rank then a else b

namespace Machine

/-- The die an agent stands on (R113). -/
def Agent.die : Agent → Nat
  | .strand c _ => dieOf c
  | .pilot d => d

/-- Whether the tasks of two cores are of one team (R114). -/
def State.sameTeam (s : State) (c d : Nat) : Bool :=
  c == d || match s.task c, s.task d with
    | some t, some u => !t.kernel && !u.kernel && t.node == u.node && t.team == u.team
    | _, _ => false

/-- Whether two agents lie in one instance of a scope (R114); the Pilot belongs to no core or team. -/
def State.inScope (s : State) (k : Scope) (a b : Agent) : Bool :=
  match k with
  | .module | .domain => true
  | .die => a.die == b.die
  | .team => match a, b with
    | .strand c _, .strand d _ => s.sameTeam c d
    | a, b => a == b
  | .core => match a, b with
    | .strand c _, .strand d _ => c == d
    | a, b => a == b

/-! ## Sets of writes with scopes -/

/-- Add a write; of two entries for one write the wider scope stays. -/
def Known.add (l : Known) (x : Nat × Scope) : Known :=
  if l.any fun y => y.1 == x.1 && x.2.rank ≤ y.2.rank then l else x :: l.filter fun y => y.1 != x.1
def Known.join (l m : Known) : Known := m.foldl Known.add l
def Known.ids (l : Known) : List Nat := l.map (·.1)

/-! ## Looking things up -/

def State.event (s : State) (id : Nat) : Option Event := s.order.events.find? fun e => e.id == id
def State.agentView (s : State) (a : Agent) : View := (s.order.views.find? fun v => v.agent == a).getD { agent := a }
def State.setView (s : State) (v : View) : State :=
  { s with order := { s.order with views := v :: s.order.views.filter fun x => x.agent != v.agent } }
def State.modView (s : State) (a : Agent) (f : View → View) : State := s.setView (f (s.agentView a))
def State.mapSides (s : State) (f : Side → Side) : State :=
  { s with order := { s.order with sides := s.order.sides.map f } }

/-- The maker of a write lies in an agent's instance of a scope; an engine counts by its die. -/
def State.madeIn (s : State) (k : Scope) (e : Event) (a : Agent) : Bool :=
  match e.writer with
  | some b => s.inScope k b a
  | none => k.wide || (k == .die && e.die == a.die)

/-- The writes that an agent has made and that the record still holds. -/
def State.ownIds (s : State) (a : Agent) : List Nat := (s.order.events.filter fun e => e.writer == some a).map (·.id)

/-- The position of a strand (R20). -/
def State.position (s : State) (a : Agent) : Nat × Nat :=
  match a with
  | .strand c e => match s.task c with
    | some t => ((t.strand e).epoch, (t.strand e).path)
    | none => (0, 0)
  | .pilot _ => (0, 0)

/-- What the signals of its wait clause stand for, at the word that a strand stands at. -/
def State.pairNow (s : State) (a : Agent) : Known :=
  match (s.agentView a).now with
  | some (e, p, l) => if (e, p) == s.position a then l else []
  | none => []

/-! ## Becoming visible (R119, R126) -/

/-- Of what was ordered before a write, the writes that must be visible on a die when it is: the order's scope reaches that
die (R120). -/
def Event.before (e : Event) (die : Nat) : List Nat :=
  (e.known.filter fun y => y.2.wide || (y.2 == .die && e.die == die)).map (·.1)

/-- Writes with those ordered before them, as they become visible on a die. -/
def State.closure (s : State) (die : Nat) (ids : List Nat) : List Nat :=
  ids ++ ids.flatMap fun i => ((s.event i).map (·.before die)).getD []

/-- Writes become visible on a die, what is ordered before them with them (R119, R120). -/
def State.show (s : State) (die : Nat) (ids : List Nat) : State :=
  if ids.isEmpty then s
  else
    let l := s.closure die ids
    let n := s.order.next
    let s := s.mapSides fun x => if x.die == die && x.vis.isNone && l.contains x.id then { x with vis := some n } else x
    { s with order := { s.order with next := n + 1 } }

/-- Writes become visible on every die of an instance of a scope around an agent. -/
def State.showIn (s : State) (a : Agent) (k : Scope) (ids : List Nat) : State :=
  let s := s.show a.die ids
  if k.wide then s.show (1 - a.die) ids else s

/-- The numbers of the writes of a die that are on their way to the other (R126). -/
def State.flightIds (s : State) (die : Nat) : List Nat := (s.flight die).map (·.id)

/-- A write of a core's strands is on its way to the other die (R134). -/
def State.coreFlight (s : State) (c : Nat) : Bool :=
  (s.flightIds 0 ++ s.flightIds 1).any fun i => ((s.event i).bind (·.writer)).any fun a => match a with
    | .strand d _ => d == c
    | .pilot _ => false

/-- A write cannot be visible on a die yet: one ordered before it has not reached its home there (R125, R127). -/
def State.notYet (s : State) (x : Side) : Bool :=
  x.vis.isNone && (s.closure x.die [x.id]).any fun i => (s.flightIds (1 - x.die)).contains i

/-! ## Reads (R117, R118, R120) -/

/-- How writes stand on a die that touch bytes `lo` to `lo + n`, latest first. -/
def State.unitSides (s : State) (die lo n : Nat) : List Side :=
  s.order.sides.filter fun x => x.die == die && x.cells.any fun c => lo ≤ c.1 && c.1 < lo + n

/-- Whether an agent may read what was before a write: it has not read it or a later one, no acquire has brought it, and
nothing that its word waited for stands for it. A tile's write is read at once by an agent that has read nothing before
(R129). -/
def State.mayMiss (s : State) (a : Agent) (x : Side) : Bool :=
  x.lag.contains a && !(x.tile && !(s.agentView a).reads) && !((s.pairNow a).any fun y => y.1 == x.id)

/-- The writes that an agent's read of a unit goes back behind: as many as the turn says, while it may, and every one that
cannot be visible yet. -/
def State.undone (s : State) (a : Agent) (die lo n k : Nat) : List Side :=
  let l := (s.unitSides die lo n).takeWhile (s.mayMiss a)
  let must := ((l.zip (List.range l.length)).filter fun x => s.notYet x.1).foldl (fun m x => max m (x.2 + 1)) 0
  l.take (max k must)

/-- A byte as it was before writes, the earliest of them last. -/
def undoByte (l : List Side) (pa : Nat) (b : Byte) : Byte :=
  l.foldl (fun b x => ((x.cells.find? fun c => c.1 == pa).map (·.2)).getD b) b

/-- `n` bytes from `pa` as an agent reads them, unit by unit (R117, R119). -/
def State.viewBytes (s : State) (a : Agent) (die pa n unit : Nat) : List Byte :=
  (List.range n).map fun i =>
    let j := i / unit
    undoByte (s.undone a die (pa + j * unit) unit (s.old.getD j 0)) (pa + i) (s.byteOn die (pa + i))

/-- An agent reads nothing older than certain writes of its die any more. -/
def State.floor (s : State) (a : Agent) (ok : Side → Bool) : State :=
  s.mapSides fun x => if x.die == a.die && ok x then { x with lag := x.lag.filter (· != a) } else x

/-- The latest instant at which writes became visible on a die. -/
def State.latest (s : State) (die : Nat) (ids : List Nat) : Nat :=
  s.order.sides.foldl (fun m x => if x.die == die && ids.contains x.id then max m (x.vis.getD 0) else m) 0

/-- What an agent learns from writes: they, and of what was ordered before them all in whose scope it lies (R124). -/
def State.learnt (s : State) (a : Agent) (ids : List Nat) : Known :=
  ids.foldl (fun l i => match s.event i with
    | none => l
    | some e => Known.join (Known.add l (i, .domain)) (e.known.filter fun y => match e.writer with
      | some b => s.inScope y.2 b a
      | none => y.2.wide)) []

/-- After an agent has read a unit, `k` writes back: the writes it has read are visible on its die (R119), and it reads nothing
older at these bytes (R118). -/
def State.noteUnit (a : Agent) (die unit : Nat) (s : State) (x : Nat × Nat) : State :=
  let l := s.unitSides die x.1 unit
  let rest := l.drop (s.undone a die x.1 unit x.2).length
  let seen := ((List.range unit).filterMap fun i =>
    (rest.find? fun y => y.cells.any fun c => c.1 == x.1 + i).map (·.id)).eraseDups
  let others := seen.filter fun i => ((s.event i).bind (·.writer)) != some a
  let s := s.show die (others.filter fun i => s.order.sides.any fun y => y.die == die && y.id == i && y.vis.isNone)
  let gone := rest.map (·.id)
  let got := s.learnt a others
  let at_ := s.latest die others
  let s := s.mapSides fun y => if y.die == die && gone.contains y.id && y.cells.any (fun c => x.1 ≤ c.1 && c.1 < x.1 + unit)
    then { y with lag := y.lag.filter (· != a) } else y
  s.modView a fun v => { v with
    obs := Known.join v.obs got, tau := max v.tau at_, last := v.last ++ others, lastTau := max v.lastTau at_, reads := true }

/-- After a read of `n` bytes in units (R117, R118). -/
def State.noteRead (s : State) (a : Option Agent) (die pa n unit : Nat) (old : List Nat) : State :=
  match a with
  | none => s
  | some a =>
    if s.order.sides.isEmpty then s.modView a fun v => { v with reads := true }
    else
      ((List.range ((n + unit - 1) / unit)).map fun j => (pa + j * unit, old.getD j 0)).foldl (State.noteUnit a die unit)
        (s.modView a fun v => { v with last := [], lastTau := 0 })

/-- After a read of a register, which is as it stands now: what has become visible before lies before it. -/
def State.noteNow (s : State) (a : Agent) : State :=
  let n := s.order.next
  s.modView a fun v => { v with tau := n, last := [], lastTau := n, reads := true }

/-- An atomic may not be performed yet (R118, R127): the die's own write to its bytes is on its way, or what stands there may not
be visible on the die. -/
def State.atomHeld (s : State) (die pa n : Nat) : Bool :=
  (s.flight die).any (fun w => w.addr < pa + n && pa < w.addr + w.bytes.length) || (s.unitSides die pa n).any s.notYet

/-! ## Writes (R116, R118, R120) -/

/-- The agents of a die that may lag behind a write. -/
def State.laggards (s : State) (die : Nat) : List Agent :=
  .pilot die :: s.cores.flatMap fun x =>
    if x.2.task.isSome && dieOf x.1 == die then
      [Agent.strand x.1 .s, .strand x.1 .v, .strand x.1 .m, .strand x.1 .a, .strand x.1 .f, .strand x.1 .j] else []

/-- What is ordered before an agent's next write (R120): what it has read, what fences and its word's wait order, and for a
release at a scope its own earlier writes with the others given. -/
def State.knownOf (s : State) (w : Option Agent) (rel : Option Scope) (more : List Nat) : Known :=
  match w with
  | none => []
  | some a =>
    let v := s.agentView a
    let l := Known.join (Known.join v.obs v.base) (s.pairNow a)
    match rel with
    | none => l
    | some k => Known.join l ((s.ownIds a ++ more).map fun i => (i, k))

/-- Enter a write in the record (R116), and its number. -/
def State.emit (s : State) (w : Option Agent) (die : Nat) (stl : Option Scope) (tile : Bool) (known : Known) : State × Nat :=
  let n := s.order.next
  let s := { s with order := { s.order with events := ⟨n, w, die, stl, tile, known⟩ :: s.order.events, next := n + 1 } }
  match w with
  | none => (s, n)
  | some a =>
    let (e, p) := s.position a
    (s.modView a fun v => { v with wrote := some (e, p, match v.wrote with
      | some (e', p', l) => if e' == e && p' == p then n :: l else [n]
      | none => [n]) }, n)

/-- A write comes to a die: its agents but the writer may go on reading the bytes that were there. -/
def State.addSide (s : State) (id die : Nat) (tile vis : Bool) (w : Option Agent) (pas : List Nat) : State :=
  let x : Side := {
    id := id, die := die, tile := tile, cells := pas.map fun pa => (pa, s.byteOn die pa)
    vis := if vis then some s.order.next else none, lag := (s.laggards die).filter fun a => some a != w }
  { s with order := { s.order with sides := x :: s.order.sides, next := if vis then s.order.next + 1 else s.order.next } }

/-- The addresses of `n` bytes. -/
def range_ (pa n : Nat) : List Nat := (List.range n).map (pa + ·)

/-! ## Acquires, releases and fences (R115, R120, R122, R123) -/

/-- The writes that an acquire at a scope brings through writes read: those made in its instance, with what they make known to
the agent (R115, R124). -/
def State.paired (s : State) (a : Agent) (k : Scope) (ids : List Nat) : List Nat :=
  Known.ids (s.learnt a (ids.filter fun i => ((s.event i).map fun e => s.madeIn k e a).getD false))

/-- A write visible by an instant is one that ordered reads of an agent see: at die scope or above whoever made it (R126). -/
def State.seenBy (s : State) (a : Agent) (k : Scope) (t : Nat) (x : Side) : Bool :=
  match x.vis with
  | none => false
  | some i => i ≤ t && (2 ≤ k.rank || ((s.event x.id).map fun e => s.madeIn k e a).getD false)

/-- An acquire at a scope through the agent's last access (R115, R120, R124): it reads nothing older than what the writes it has
read bring, nor than what its die had seen before them. (log 7 DEDUCED) -/
def State.acquire (s : State) (a : Agent) (k : Scope) : State :=
  if s.order.sides.isEmpty then s
  else
    let v := s.agentView a
    let ids := s.paired a k v.last
    s.floor a fun x => ids.contains x.id || s.seenBy a k v.lastTau x

/-- An acquire at a scope through something that is read as it stands now: a register, an end of a job, a barrier.
(log 7 DEDUCED) -/
def State.acquireNow (s : State) (a : Agent) (k : Scope) : State :=
  if s.order.sides.isEmpty then s else s.floor a (s.seenBy a k s.order.next)

/-- What an agent's release orders: what it has read and what it has written. -/
def State.released (s : State) (a : Agent) : List Nat :=
  let v := s.agentView a
  Known.ids v.obs ++ Known.ids v.base ++ s.ownIds a

/-- A release at a scope through something that others see at once: what it orders is visible first, in all of its instance.
(log 7 DEDUCED) -/
def State.publish (s : State) (a : Agent) (k : Scope) : State :=
  if s.order.sides.isEmpty then s else s.showIn a k (s.released a)

/-- A write that is no release, to something that others see at once: what was ordered before it is visible first (R120). -/
def State.publishSeen (s : State) (a : Agent) : State :=
  if s.order.sides.isEmpty then s
  else
    let v := s.agentView a
    s.showIn a .module (Known.ids v.obs ++ Known.ids v.base ++ Known.ids (s.pairNow a))

/-- What happens before an agent's next effect, with its own writes (R131, R325). -/
def State.happened (s : State) (a : Agent) (k : Scope) : List Nat := Known.ids (s.knownOf (some a) (some k) [])

/-- Some of these writes are still on their way to the other die. -/
def State.awaits (s : State) (ids : List Nat) : Bool :=
  ids.any fun i => (s.flightIds 0).contains i || (s.flightIds 1).contains i

inductive FenceKind where
  | acq | rel | full | mca
  deriving DecidableEq, Repr

/-- What a fence waits for: at a scope that reaches the other die a full or mca fence has the writes it orders reach their homes
(R122, R123). -/
def State.fenceWaits (s : State) (a : Agent) (f : FenceKind) (k : Scope) : Bool :=
  (f == .full || f == .mca) && k.wide && s.awaits (s.released a ++ Known.ids (s.agentView a).pair)

/-- The pairs of the waits before a fence, at the narrower of their scope and the fence's (R379). -/
def narrowed (k : Scope) (l : Known) : Known := l.map fun y => (y.1, Scope.min y.2 k)

/-- A fence (R122, R123, R379). It orders earlier reads, with the waits before it, against later reads but for `rel`; earlier
writes against later reads for `full` and `mca`; and both against later writes, as its kind says. `mca` at module scope or
above makes all that happens before it visible on both dies first. (log 7 DEDUCED) -/
def State.fenceOrder (s : State) (a : Agent) (f : FenceKind) (k : Scope) : State :=
  let v := s.agentView a
  let pair := narrowed k v.pair
  let own := s.ownIds a
  let full := f == .full || f == .mca
  let s := if full then s.showIn a k own else s
  let s := if f == .mca && k.wide then s.showIn a k (s.released a ++ Known.ids pair) else s
  let t := if f == .mca && k.wide then s.order.next else if full then max v.tau (s.latest a.die own) else v.tau
  let read := (Known.ids v.obs).filter fun i => k.wide || ((s.event i).map fun e => s.madeIn k e a).getD false
  let waited := Known.ids (pair.filter fun y => ((s.event y.1).map fun e => s.madeIn y.2 e a).getD false)
  let s := if f == .rel then s
    else s.floor a fun x => read.contains x.id || waited.contains x.id || s.seenBy a k t x
  s.modView a fun v => { v with
    base := Known.join (Known.join v.base pair) (if f == .acq then [] else own.map fun i => (i, k))
    pair := if f == .rel then v.pair else [] }

/-- The earlier STLs of a strand that an LDA at a scope follows (R120, R207), each with the narrower scope. -/
def State.stls (s : State) (a : Agent) (k : Scope) : Known :=
  s.order.events.filterMap fun e =>
    if e.writer == some a then e.stl.map fun j => (e.id, Scope.min j k) else none
/-- An LDA waits until those whose order reaches the other die have arrived. -/
def State.stlWaits (s : State) (a : Agent) (k : Scope) : Bool :=
  let l := Known.ids ((s.stls a k).filter fun y => y.2.wide)
  !l.isEmpty && s.awaits (l ++ s.released a)
/-- Before an LDA at a scope the strand's earlier STLs are performed for every agent of the narrower scope (R207). -/
def State.stlFence (s : State) (a : Agent) (k : Scope) : State :=
  match s.stls a k with
  | [] => s
  | l =>
    let s := l.foldl (fun s y => s.showIn a y.2 [y.1]) s
    l.foldl (fun s y => s.floor a (s.seenBy a y.2 (s.latest a.die [y.1]))) s

/-! ## Signals and waits (R33, R36, R124, R379) -/

/-- A signal to a semaphore of a core's task stands for writes, and for what they make known, at a scope (R36). -/
def State.pairUp (s : State) (c : Nat) (sem : BitVec 8) (k : Scope) (ids : List Nat) : State :=
  if ids.isEmpty then s
  else
    let s := if k.wide then (s.show 0 ids).show 1 ids else s
    let all := ids ++ ids.flatMap fun i => ((s.event i).map fun e => Known.ids e.known).getD []
    { s with order := { s.order with pairs := all.map (fun i => ⟨c, sem, i, k⟩) ++ s.order.pairs } }
/-- A signal that comes from outside the task stands for all that the die has seen. (log 7 DEDUCED) -/
def State.pairAll (s : State) (c : Nat) (sem : BitVec 8) : State :=
  s.pairUp c sem .module ((s.order.sides.filter fun x => x.die == dieOf c && x.vis.isSome).map (·.id)).eraseDups

/-- What the signals to a semaphore stand for. -/
def State.pairsOf (s : State) (c : Nat) (sem : BitVec 8) : Known :=
  Known.join [] ((s.order.pairs.filter fun y => y.core == c && y.sem == sem).map fun y => (y.id, y.scope))

/-- A wait on a semaphore has been satisfied (R36, R124, R379). What its signals stand for is ordered before the word that
waited. Before the S strand's later accesses it is so only through a fence; the other strands, which have none, read nothing
older from then on. (log 7 DEDUCED) -/
def State.meetWait (s : State) (c : Nat) (e : Eng) (sem : BitVec 8) : State :=
  match s.pairsOf c sem with
  | [] => s
  | l =>
    let a : Agent := .strand c e
    let (ep, p) := s.position a
    let s := s.modView a fun v => { v with now := some (ep, p, l), pair := Known.join v.pair l }
    if e = .s then s else s.floor a fun x => l.any fun y => y.1 == x.id

/-- The wait of a word that a signal has satisfied while its strand waited. -/
def State.metOnce (s : State) (c : Nat) (e : Eng) (sem : BitVec 8) : State :=
  match (s.agentView (.strand c e)).now with
  | some (ep, p, _) => if (ep, p) == s.position (.strand c e) then s else s.meetWait c e sem
  | none => s.meetWait c e sem

/-- The writes that the word a strand has just passed made. -/
def State.wroteLast (s : State) (c : Nat) (e : Eng) : List Nat :=
  match (s.agentView (.strand c e)).wrote, s.position (.strand c e) with
  | some (ep, p, l), (ep', p') => if ep == ep' && p + 1 == p' then l else []
  | none, _ => []

/-- What an agent's record of its own word's writes was before something that its word does not make. -/
def State.wroteAs (s old : State) (a : Option Agent) : State :=
  match a with
  | none => s
  | some a => s.modView a fun v => { v with wrote := (old.agentView a).wrote }
/-- An effect that a strand's word at its present position does not make: what it writes is none of that word's. -/
def State.aside (s : State) (a : Agent) (f : State → State) : State := (f s).wroteAs s (some a)

/-- The writes entered in the record from a number on by an agent. -/
def State.wroteSince (s : State) (n : Nat) (w : Option Agent) : List Nat :=
  (s.order.events.filter fun e => n ≤ e.id && e.writer == w).map (·.id)

/-! ## Tasks that leave a core (R132, R134) -/

/-- Forget the record once no agent may miss a write of it. -/
def State.tidy (s : State) : State :=
  if (s.flight 0).isEmpty && (s.flight 1).isEmpty && s.order.sides.all (·.lag.isEmpty) then
    { s with order := { s.order with events := [], sides := [] } }
  else s

/-- A task leaves a core: everything it has done is visible at module scope (R134), and what comes next to the core has missed
nothing. -/
def State.freshCore (s : State) (c : Nat) : State :=
  let mine (a : Agent) : Bool := match a with
    | .strand d _ => d == c
    | .pilot _ => false
  let ids := (s.order.events.filter fun e => e.writer.any mine).map (·.id)
  let s := (s.show 0 ids).show 1 ids
  let s := s.mapSides fun x => { x with lag := x.lag.filter fun a => !mine a }
  State.tidy { s with order := { s.order with
    views := s.order.views.filter fun v => !mine v.agent
    pairs := s.order.pairs.filter fun y => y.core != c } }

end Machine

end Sys2Proof
end

