-- ==== Sys2Proof/Machine/Translate.lean ====
section
/-! DEFINITION. Contexts and partitions as the part reads them (19), the page walk, the cached leaves and the outcome of
an access by its permissions and the page's migration state (21). -/

namespace Sys2Proof.Machine

/-! ## Partitions and context descriptors -/

/-- A partition that nothing has written: not valid, with the quanta that firmware sets by default, QCYC 16,384 and QCMD 64
(R4, R386). -/
def partReset : PartRegs := ⟨0, 0, 0, 0x0000400040000000⟩
def State.part (s : State) (p : Nat) : PartRegs := SMap.look partReset s.parts p
def partValid (p : PartRegs) : Bool := p.pfab.getLsbD 63
/-- The partition's queues: QBASE to QBASE + QCNT − 1, stopping at 255 (R386). -/
def partHasQueue (p : PartRegs) (q : Nat) : Bool :=
  bits p.pque 7 0 ≤ q && q < bits p.pque 7 0 + bits p.pque 16 8 && q ≤ 255

/-- The raw bytes of physical memory as a natural number, read at its home. -/
def State.physNat (s : State) (pa n : Nat) : Nat := leNat ((List.range n).map fun i => s.homeByte (pa + i))

/-- Context descriptor n at CTXTAB.BASE + 128n (R389). -/
def State.ctxDesc (s : State) (n : Nat) : BitVec 1024 :=
  BitVec.ofNat 1024 (s.physNat (bits s.ctxtab 51 19 * 2 ^ 19 + 128 * n) 128)

/-- The fields of R389. -/
structure Ctx where
  qown : Nat
  evaddr : Nat
  fring : Nat
  frlog : Nat
  poolcnt : Nat
  pooltab : Nat
  save : Nat
  saveslots : Nat
  jquota : Nat
  lquota : Nat
  rtmo : Nat
  fid : BitVec 32
  root : Nat
  valid : Bool
  prio : Nat
  part : Nat
  asid : BitVec 16
  deriving DecidableEq, Repr

def ctxFields (d : BitVec 1024) : Ctx where
  qown := bits d 1023 768
  evaddr := bits d 759 704
  fring := bits d 695 640
  frlog := bits d 639 632
  poolcnt := bits d 623 608
  pooltab := bits d 599 544
  save := bits d 535 480
  saveslots := bits d 479 464
  jquota := bits d 447 432
  lquota := bits d 431 416
  rtmo := bits d 415 384
  fid := d.extractLsb' 352 32
  root := bits d 307 256
  valid := d.getLsbD 31
  prio := bits d 26 24
  part := bits d 18 16
  asid := d.extractLsb' 0 16

def State.ctx (s : State) (n : Nat) : Ctx := ctxFields (s.ctxDesc n)

/-- The remote timeout in Chronometer ticks; 0 means 1,000 µs (R389). -/
def Ctx.rtmoTicks (c : Ctx) : Nat := (if c.rtmo = 0 then 1000 else c.rtmo) * 1000

/-- A reserved bit of a descriptor is nonzero (R2, R389). -/
def ctxReserved (d : BitVec 1024) : Bool :=
  bits d 767 760 != 0 || bits d 703 696 != 0 || bits d 631 624 != 0 || bits d 607 600 != 0 || bits d 543 536 != 0 ||
    bits d 463 448 != 0 || bits d 351 308 != 0 || bits d 255 32 != 0 || bits d 30 27 != 0 || bits d 23 19 != 0
/-- The descriptor of a context breaks R2: a placement or a submission that consumes it meets RESERVED_FIELD. -/
def State.ctxBroken (s : State) (n : Nat) : Bool := ctxReserved (s.ctxDesc n)

/-- A context is usable unless a case of R390 holds. -/
def State.ctxValid (s : State) (n : Nat) : Bool :=
  let c := s.ctx n
  n < 4096 && c.valid && c.asid != 0 && partValid (s.part c.part) &&
    !(s.teams.any fun t => t.ctx != n && (s.ctx t.ctx).valid && (s.ctx t.ctx).asid == c.asid)

/-- QOWN within the partition's queues (R389). -/
def State.ownsQueue (s : State) (n q : Nat) : Bool :=
  let c := s.ctx n
  c.qown.testBit q && partHasQueue (s.part c.part) q

/-! ## The walk (R423 to R426) -/

/-- Bytes of a page by its SIZE code (R424). -/
def pageBytes : Nat → Nat
  | 0 => 2 ^ 12 | 1 => 2 ^ 14 | 2 => 2 ^ 16 | 3 => 2 ^ 18 | 4 => 2 ^ 21 | 5 => 2 ^ 25 | 6 => 2 ^ 29 | _ => 2 ^ 34
/-- Bytes that one entry of a level covers (R423). -/
def levelBytes (l : Nat) : Nat := 2 ^ (12 + 11 * l)
/-- The sizes of R425 at their level. -/
def sizeAt (l z : Nat) : Bool := (l = 0 && z ≤ 4) || (l = 1 && (z = 5 || z = 6)) || (l = 2 && z = 7)

/-- A leaf as walked: the indexed slot's fields with slot 0's MST and MSEQ (R425), and the virtual page. -/
structure Leaf where
  entry : Nat
  base : Nat
  size : Nat
  deriving DecidableEq, Repr

def Leaf.v (l : Leaf) : Nat := field l.entry 0 0
def Leaf.mst (l : Leaf) : Nat := field l.entry 63 62
def Leaf.remote (l : Leaf) : Bool := field l.entry 8 8 = 1
def Leaf.frame (l : Leaf) : Nat := field l.entry 51 12 * 4096

/-- Whether a context may map a page: HBM whose stacks lie in its partition's STK, or control pages it owns
(R14, R384, R387). -/
def State.mappable (s : State) (n pa size : Nat) : Bool :=
  let c := s.ctx n
  if pa + size ≤ hbmEnd then
    (List.range (min (size / 4096) 192)).all fun i => (s.part c.part).pstk.getLsbD (stackOf (pa + 4096 * i))
  else
    size ≤ 2 ^ 20 && hbmEnd ≤ pa && (List.range (size / 4096)).all fun i =>
      match whereIs (pa + 4096 * i) with
      | .page q _ => s.ownsQueue n q
      | _ => false

/-- The load-store domain of a die. R12 makes it a sub-cube of up to 64 dies and does not say which labels it spans: the
model takes the 64 labels equal above bit 5. (log 56 DESIGN CHOICE) -/
def State.inDomain (s : State) (label : Nat) : Bool := label / 64 == (s.router 0).lself.toNat / 64
def State.isOwnLabel (s : State) (label : Nat) : Bool :=
  label == (s.router 0).lself.toNat || label == (s.router 1).lself.toNat

/-- The checks of R426 on a leaf; the reason, if it is refused. Where several conditions hold, which reason is given is the
model's choice: 5 for MST 11, then 0, 4, 1, 3, 5, 2. (log 55 DESIGN CHOICE) -/
def State.leafBad (s : State) (n l : Nat) (e : Leaf) : Option Nat :=
  let z := field e.entry 11 9
  if e.mst = 3 then some 5
  else if e.v = 0 && e.mst = 0 then some 0
  else if field e.entry 55 52 != 0 || field e.entry 3 2 != 0 then some 4
  else if !sizeAt l z then some 1
  else if e.remote then
    if field e.entry 51 26 != 0 then some 4
    else if !s.inDomain (field e.entry 25 12) || s.isOwnLabel (field e.entry 25 12) then some 3 else none
  else if e.v = 1 && e.mst = 2 then some 5
  else if e.frame % pageBytes z != 0 then some 2
  else if !s.mappable n e.frame (pageBytes z) then some 3
  else none

/-! ## Who makes an access -/

/-- Who makes an access: the die it stands on and, at user level, the context (R383, R423); the structure of its own that caches
its translations (R428); the strand or Pilot whose accesses are ordered (R113); for a write, the scope of its release (R115) or of
an STL (R207); for a read, the unit that it reads at once (R117); and the place of its word in its strand, by generator runs
issued before, FORKs and path, none for the word the strand stands at (R433). -/
structure Who where
  die : Nat
  ctx : Option Nat
  asid : BitVec 16
  near : Option TlbUnit := none
  agent : Option Agent := none
  rel : Option Scope := none
  stl : Option Scope := none
  unit : Nat := 16
  place : Option (Nat × Nat × Nat) := none
  deriving DecidableEq, Repr

/-- An access through a core's map unit (R428), which belongs to no strand. -/
def Task.who (t : Task) (core : Nat) : Who :=
  { die := dieOf core, ctx := if t.kernel then none else t.ctx, asid := t.asid, near := some (.mapUnit core) }
/-- An access through the map unit on behalf of a strand's word. -/
def Task.whoMap (t : Task) (core : Nat) (e : Eng) : Who := { t.who core with agent := some (.strand core e) }
/-- An access of one strand's own word, through the L1D. -/
def Task.whoAs (t : Task) (core : Nat) (e : Eng) : Who := { t.whoMap core e with near := some (.l1d core) }

/-- What a walk finds: its end, a leaf or a cause with its information, the addresses of the entries it read, and the table
entries it went through with the level of the table each leads to. -/
structure Walk where
  out : Except (Cause × Nat) Leaf
  read : List Nat := []
  tables : List (Nat × Nat) := []

/-- A table entry as the walker of an access reads it: at its home with what its own die has written, and not before what is
ordered before it (R423, R429). -/
def State.entryAt (s : State) (w : Who) (pa : Nat) : Nat :=
  leNat (match w.agent with
    | some a => { s with old := [] }.viewBytes a w.die pa 8 8
    | none => (List.range 8).map fun i => s.byteOn w.die (pa + i))

def absent (l r : Nat) : Walk := ⟨.error (.translationAbsent, r + 256 * l), [], []⟩

/-- One level of the walk of R423, with `l` levels below it. An entry in a lost line is no data (R112). A table entry's REMOTE
bit, on which R424 and R426 put no condition, is ignored. -/
def State.walkFrom (s : State) (w : Who) (n va : Nat) : Nat → Nat → Walk
  | l, table =>
    let span := levelBytes l
    let idx := va / span % 2048
    let e := s.entryAt w (table + 8 * idx)
    let seen (x : Walk) : Walk := { x with read := (table + 8 * idx) :: x.read }
    if s.lost.contains (lineOf (table + 8 * idx)) then ⟨.error (.uncorrectableData, 0), [], []⟩
    else if field e 1 1 = 1 then
      if l = 3 then seen (absent l 1)
      else
        let z := field e 11 9
        let slots := if sizeAt l z then pageBytes z / span else 1
        let first := table + 8 * (idx - idx % slots)
        let e0 := s.entryAt w first
        let leaf : Leaf := ⟨setField e 63 56 (field e0 63 56), va - va % (span * slots), span * slots⟩
        if s.lost.contains (lineOf first) then ⟨.error (.uncorrectableData, 0), [], []⟩
        else
          seen (match s.leafBad n l leaf with
            | some r => absent l r
            | none => ⟨.ok leaf, [first], []⟩)
    else if field e 0 0 = 0 then seen (absent l 0)
    else if field e 63 52 != 0 || field e 11 9 != 0 || field e 7 2 != 0 then seen (absent l 4)
    else
      match l with
      | 0 => seen (absent 0 4)
      | l' + 1 =>
        let x := seen (s.walkFrom w n va l' (field e 51 12 * 4096))
        { x with tables := (l', e) :: x.tables }

/-- Where a walk starts: at the lowest table that the die's walker cache knows, or at ROOT (R423, R428). -/
def State.walkStart (s : State) (w : Who) (n va : Nat) : Nat × Nat :=
  ([0, 1, 2].findSome? fun l =>
    (s.tlb.find? fun t => t.unit == .walker w.die l && t.asid == w.asid && t.base ≤ va && va < t.base + t.size).map
      fun t => (l, field t.leaf.toNat 51 12 * 4096)).getD (3, (s.ctx n).root)

/-- The walk of an address in a context, from the walker cache or past every cache (R428). -/
def State.walk (s : State) (w : Who) (n va : Nat) (fresh : Bool) : Walk :=
  let (l, table) := if fresh then (3, (s.ctx n).root) else s.walkStart w n va
  s.walkFrom w n va l table

/-- A walk has read its entries, each as an acquire at module scope (R423). -/
def State.noteWalk (s : State) (w : Who) (l : List Nat) : State :=
  match w.agent with
  | none => s
  | some a => l.foldl (fun s pa => (s.noteRead (some a) w.die pa 8 8 []).acquire a .module) s

/-! ## Accesses -/

/-- The kinds of R427; `wb` is a tile's write-back, which needs the permission of a write and is never refused for a
migration (R432). -/
inductive Acc where
  | rd | wr | at | ex | wb
  deriving DecidableEq, Repr

/-- What translating one address gives. -/
inductive Xl where
  | ok (pa : Nat)
  | remote (label : Nat)
  | refused
  | fault (c : Cause) (info : Nat)
  | hole (pa : Nat)
  deriving DecidableEq, Repr

/-- The cause of a missing permission (R427), if one is missing. -/
def Leaf.denied (e : Leaf) : Acc → Option Cause
  | .rd => if field e.entry 4 4 = 1 then none else some .permissionRead
  | .wr | .wb => if field e.entry 5 5 = 1 then none else some .permissionWrite
  | .at => if field e.entry 6 4 = 7 then none else some .permissionAtomic
  | .ex => if field e.entry 7 7 = 1 then none else some .permissionExecute

/-- What an access meets at a leaf, by V and MST (R432) and the permissions (R427). -/
def Leaf.outcome (e : Leaf) (va : Nat) (a : Acc) : Xl :=
  if e.v = 0 then
    if e.mst = 1 then .fault .migrationBusy 0 else .fault .migrationStale 0
  else
    match e.denied a with
    | some c => .fault c 0
    | none =>
      if e.remote then .remote (field e.entry 25 12)
      else if e.mst = 1 && (a = .wr || a = .at) then .refused
      else .ok (e.frame + va % e.size)

/-- Put an entry into a structure in the place of what it overlaps. -/
def State.keepEntry (s : State) (e : TlbEnt) : State :=
  { s with tlb := e :: s.tlb.filter fun t =>
      !(t.unit == e.unit && t.asid == e.asid && t.base < e.base + e.size && e.base < t.base + t.size) }

/-- Keep a leaf that gave no fault in the access's own structure and in its die's shared TLB (R428). (log 53 DEDUCED) -/
def State.cacheLeaf (s : State) (w : Who) (e : Leaf) : State :=
  if e.v = 1 then
    (w.near.toList ++ [TlbUnit.die w.die]).foldl (fun (s : State) (u : TlbUnit) => s.keepEntry ⟨u, w.asid, e.base, e.size, BitVec.ofNat 64 e.entry⟩) s
  else s

/-- Keep the table entries of a walk in the die's walker cache (R428). -/
def State.cacheTables (s : State) (w : Who) (va : Nat) (l : List (Nat × Nat)) : State :=
  l.foldl (fun (s : State) (x : Nat × Nat) =>
    let z := levelBytes (x.1 + 1)
    s.keepEntry ⟨.walker w.die x.1, w.asid, va - va % z, z, BitVec.ofNat 64 x.2⟩) s

/-- The leaf that a structure of an access holds: its own first, then its die's (R428). -/
def State.tlbHit (s : State) (w : Who) (va : Nat) : Option Leaf :=
  ((w.near.toList ++ [TlbUnit.die w.die]).findSome? fun u =>
    s.tlb.find? fun (t : TlbEnt) => t.unit == u && t.asid == w.asid && t.base ≤ va && va < t.base + t.size).map
      fun t => ⟨t.leaf.toNat, t.base, t.size⟩

/-- A translation by a walk. What gave a fault is not kept (R428). -/
def State.xlWalk (s : State) (w : Who) (n va : Nat) (a : Acc) (fresh : Bool) : State × Xl :=
  let x := s.walk w n va fresh
  let s := (s.noteWalk w x.read)
  match x.out with
  | .error (c, i) => (s, .fault c i)
  | .ok e =>
    match e.outcome va a with
    | .fault c i => (s, .fault c i)
    | y => ((s.cacheTables w va x.tables).cacheLeaf w e, y)

/-- A translation from what the structures hold. -/
def State.xlHeld (s : State) (w : Who) (n va : Nat) (a : Acc) : State × Xl :=
  match s.tlbHit w va with
  | some e => (s.cacheLeaf w e, e.outcome va a)
  | none => s.xlWalk w n va a false

/-- Port 0 of either die has gone down and not come up again (R469, R472). (log 43 DEDUCED) -/
def State.linkFailed (s : State) : Bool :=
  [0, 1].any fun d =>
    let p := (s.router d).port 0
    p.st != 2 && p.cause != 0
/-- The die that serves a physical address (R13, R398, R457, R485). -/
def servedBy (pa : Nat) : Nat :=
  match whereIs pa with
  | .hbm => homeDie pa
  | .page q _ => q / 128
  | .window d _ => d
  | _ => 0
/-- The port by which a request for a label leaves a die (R462, R463). -/
def Router.leavesBy (r : Router) (l : BitVec 14) : Nat :=
  let x := r.route r.inj ((r.label r.inj l).extractLsb' 0 14)
  let up (p : Nat) : Bool := (r.port p).st == 2
  let port := bits x 3 0
  if !up port && x.getLsbD 8 && up (bits x 7 4) then bits x 7 4 else port

/-- An access across a die-to-die link that has failed faults DIE_LINK_LOST: the home or the holder of its line, or the route of
a remote access, lies on the other die (R419). -/
def State.cross (s : State) (w : Who) (x : Xl) : Xl :=
  match x with
  | .ok pa =>
    if s.linkFailed && (servedBy pa != w.die || (s.holder (lineOf pa)).any fun h => dieOf h.1 != w.die) then
      .fault .dieLinkLost 0
    else .ok pa
  | .remote l =>
    if s.linkFailed && (s.router w.die).leavesBy (BitVec.ofNat 14 l) == 0 then .fault .dieLinkLost 0 else .remote l
  | x => x

/-- The physical address here that the tables give an address of a context, whatever its permissions, as a die reads them. -/
def State.homeOf (s : State) (die n va : Nat) : Option Nat :=
  match (s.walk { die := die, ctx := some n, asid := (s.ctx n).asid } n va true).out with
  | .ok e => if e.v = 1 && !e.remote then some (e.frame + va % e.size) else none
  | .error _ => none

/-- An earlier access of the same agent to a page has been refused and is still to be performed (R433). -/
def State.pageHeld (s : State) (w : Who) (e : Leaf) : Bool :=
  match w.agent with
  | some (.strand c g) =>
    (s.task c).any fun t =>
      let hit (r : Retry) : Bool := e.base ≤ r.addr.toNat && r.addr.toNat < e.base + e.size
      let earlier (n ep p : Nat) : Bool := match w.place with
        | none => true
        | some (n', ep', p') => n < n' || (n == n' && (ep < ep' || (ep == ep' && p < p')))
      (t.replay.any fun p => p.env.eng == g && p.retry.any hit && earlier p.env.runs p.epoch p.path) ||
        (g == .a && t.gens.any fun x => x.2.retry.any hit && earlier x.2.run 0 0)
  | _ => false
/-- No later access to a page leaves before a refused one (R433). -/
def State.inOrder (s : State) (w : Who) (va : Nat) (x : Xl) : Xl :=
  match x with
  | .ok _ | .remote _ => if (s.tlbHit w va).any (s.pageHeld w) then .refused else x
  | x => x

/-- The translation of one address. What is cached serves as long as it gives no fault; before any fault the tables are
walked again past every cache (R428). At kernel level the address is physical, and one at or above 2^52 is absent (R383). -/
def State.xl (s : State) (w : Who) (va : Nat) (a : Acc) : State × Xl :=
  match w.ctx with
  | none =>
    if 2 ^ 52 ≤ va then (s, .fault .translationAbsent 0)
    else if whereIs va = .hole then (s, .hole va) else (s, s.cross w (.ok va))
  | some n =>
    match s.xlHeld w n va a with
    | (s, .fault _ _) =>
      let (s, x) := s.xlWalk w n va a true
      (s, s.inOrder w va (s.cross w x))
    | (s, x) => (s, s.inOrder w va (s.cross w x))

/-- Why a run of bytes could not be reached, and at which address. (log 49 DEDUCED) -/
inductive XlStop where
  | fault (c : Cause) (info : Nat) (va : Nat)
  /-- another module's answer, with that module's label and what the record is to tell (R109, R443) -/
  | home (c : Cause) (va label info : Nat)
  | refused (va : Nat)
  | hole (pa : Nat)
  /-- an earlier write is still to reach the place (R118, R127) -/
  | held
  deriving DecidableEq, Repr

/-- A piece of a run of bytes within one 4 KiB page: at a physical address here, or on the module of a label. -/
inductive Piece where
  | here (pa len : Nat)
  | away (label va len : Nat)
  deriving DecidableEq, Repr
def Piece.len : Piece → Nat
  | .here _ n => n
  | .away _ _ n => n

/-- The pieces of `n` bytes from `va`, at user level modulo 2^56, translated page by page in ascending order. -/
def State.xlRun (s : State) (w : Who) (a : Acc) : Nat → Nat → Nat → State × Except XlStop (List Piece)
  | 0, _, _ => (s, .ok [])
  | fuel + 1, va, n =>
    if n = 0 then (s, .ok []) else
    let va := if w.ctx.isSome then va % 2 ^ 56 else va
    let k := min n (4096 - va % 4096)
    match s.xl w va a with
    | (s, .fault c i) => (s, .error (.fault c i va))
    | (s, .refused) => (s, .error (.refused va))
    | (s, .hole p) => (s, .error (.hole p))
    | (s, .ok pa) =>
      match s.xlRun w a fuel (va + k) (n - k) with
      | (s, .ok t) => (s, .ok (.here pa k :: t))
      | (s, .error e) => (s, .error e)
    | (s, .remote l) =>
      match s.xlRun w a fuel (va + k) (n - k) with
      | (s, .ok t) => (s, .ok (.away l va k :: t))
      | (s, .error e) => (s, .error e)

/-- An access to a fabric window is one access where it crosses a 4 KiB boundary (R457). -/
def joinWindow : List Piece → List Piece
  | .here pa k :: t =>
    match joinWindow t with
    | .here pb m :: u =>
      match whereIs pa with
      | .window _ _ => if pb = pa + k then .here pa (k + m) :: u else .here pa k :: .here pb m :: u
      | _ => .here pa k :: .here pb m :: u
    | u => .here pa k :: u
  | x :: t => x :: joinWindow t
  | [] => []

/-- The pieces of an access of `n` bytes at `va`. -/
def State.pieces (s : State) (w : Who) (a : Acc) (va n : Nat) : State × Except XlStop (List Piece) :=
  match s.xlRun w a (n / 4096 + 2) va n with
  | (s, .ok l) => (s, .ok (joinWindow l))
  | r => r

end Sys2Proof.Machine
end

