-- ==== Sys2Proof/Machine/Regs.lean ====
section
/-! DEFINITION. Writes to the registers above HBM: control pages (20, R399), sensors (25, R485), fabric windows
(23, R457 to R469), under the Access codes of R3. -/

namespace Sys2Proof.Machine

/-- Replace the `n` bytes of a 64-bit register from byte `off` up. -/
def mergeBytes (old : Word) (off n v : Nat) : Word :=
  BitVec.ofNat 64 (setField old.toNat (8 * (off + n) - 1) (8 * off) v)

/-- A write of QCFG (R399, R402, R413): EN 1 clears a halt and, when it becomes 1, sets LEVEL to PRIO.
(log 54 DESIGN CHOICE) -/
def State.writeQcfg (s : State) (q : Nat) (v : Word) : State :=
  let x := s.queue q
  let cfg := v &&& 0x80000fff0f000000
  let was := x.qcfg.getLsbD 63
  let prio := BitVec.ofNat 3 (s.ctx (bits cfg 43 32)).prio
  s.setQueue q { x with
    qcfg := cfg
    halted := x.halted && !cfg.getLsbD 63
    errIdx := if cfg.getLsbD 63 && x.halted then 0 else x.errIdx
    cause := if cfg.getLsbD 63 && x.halted then 0 else x.cause
    level := if cfg.getLsbD 63 && !was then prio else x.level
    timer := if cfg.getLsbD 63 && !was then none else x.timer }

/-- A write of a field that stores 1 for 0 (R399). -/
def orOne (v : Nat) : Nat := if v = 0 then 1 else v

/-- A write of a control page register; QCFG, QRING and QTIME ignore a user-level write (R399). -/
def State.writeQreg (s : State) (kernel : Bool) (q off : Nat) (v : Word) : State :=
  let x := s.queue q
  match off with
  | 0x000 => if kernel then s.writeQcfg q v else s
  | 0x008 => if kernel then s.setQueue q { x with qring := v &&& 0x00fffffffffff000 } else s
  | 0x010 =>
    if kernel then
      s.setQueue q { x with
        qtime := BitVec.ofNat 64 (orOne (bits v 63 48) * 2 ^ 48 + orOne (bits v 47 24) * 2 ^ 24 + orOne (bits v 23 0)) }
    else s
  | 0x100 => s.setQueue q { x with wptr := v.setWidth 32 }
  | _ => s

/-- A write of TEMPn (R485); `w1c` holds the written bits of the W1C field. -/
def writeTemp (x : Sensor) (v : Word) (w1c : Bool) : Sensor :=
  let trip : BitVec 16 := v.extractLsb' 48 16
  { x with
    trip := if (0x06e0#16).slt trip then 0x06e0 else trip
    throt := v.extractLsb' 32 16
    passed := x.passed && !w1c }

/-- FEPOCH (R458): a write that would leave INJ naming a bank whose ACCEPT bit is 0 is ignored and sets WREJ. -/
def State.writeFepoch (s : State) (d : Nat) (v : Word) : State :=
  let r := s.router d
  let acc := v.extractLsb' 8 2
  let inj := v.getLsbD 0
  if acc.getLsbD inj.toNat then s.setRouter d { r with accept := acc, inj := inj }
  else s.setRouter d { r with wrej := true }

/-- A key entry as stored: [35:19] is reserved and reads as zero (R2, R465); a nonzero bit of [62:49] makes it not valid. -/
def keyEntry (v : BitVec 64) : BitVec 64 := v &&& ~~~ 0xffff80000#64
/-- One 4-byte word of a key entry as stored; `off` is its place in the entry. -/
def keyHalf (off v : Nat) : Nat := if off = 0 then v % 2 ^ 19 else v / 16 * 16
/-- A write of one 4-byte word of a label, route or key bank; an accepted bank ignores it and sets WREJ (R457). -/
def State.writeTable (s : State) (d off v : Nat) : State :=
  let r := s.router d
  let bank : Nat := if off < 0x30000 then (off - 0x10000) / 0x10000
    else if off < 0x40000 then (off - 0x30000) / 0x8000 else (off - 0x40000) / 0x200
  if r.accept.getLsbD bank then s.setRouter d { r with wrej := true }
  else if off < 0x30000 then
    let k := (off - 0x10000) / 4
    s.setRouter d { r with labels := SMap.put (labelDefault k) r.labels k (BitVec.ofNat 32 v) }
  else if off < 0x40000 then
    let k := (off - 0x30000) / 2
    let m := SMap.put (routeDefault r.phys k) r.routes k (BitVec.ofNat 16 v)
    s.setRouter d { r with routes := SMap.put (routeDefault r.phys (k + 1)) m (k + 1) (BitVec.ofNat 16 (v / 2 ^ 16)) }
  else
    let k := (off - 0x40000) / 8
    let old : BitVec 64 := SMap.look 0 r.keys k
    s.setRouter d { r with keys := SMap.put 0 r.keys k (mergeBytes old (off % 8) 4 (keyHalf (off % 8) v)) }

/-- A write of PCTL (R469): DIS and RETRAIN act as the port's own steps (R471). -/
def writePctl (p : Port) (v : Word) : Port :=
  { p with dis := v.getLsbD 63, retrain := p.retrain || v.getLsbD 62, chk := v.getLsbD 30,
           expect := v.extractLsb' 16 14 }

/-- A 4-byte write into a fabric window (R457). -/
def State.window32Put (s : State) (d off v : Nat) : State :=
  let r := s.router d
  if off < 4 then s.setRouter d { r with lself := BitVec.ofNat 14 (v / 2 ^ 16) }
  else if 8 ≤ off && off < 12 then s.writeFepoch d (BitVec.ofNat 64 v)
  else if 16 ≤ off && off < 20 then s.setRouter d { r with wrej := r.wrej && !v.testBit 0 }
  else if 0x10000 ≤ off && off < 0x40400 then s.writeTable d off v
  else if 0x50000 ≤ off && off < 0x50e00 then
    let n := (off - 0x50000) / 0x100
    let p := r.port n
    let o := off % 0x100
    let pctl : Word := BitVec.ofNat 64 (p.dis.toNat * 2 ^ 63 + p.chk.toNat * 2 ^ 30 + p.expect.toNat * 2 ^ 16)
    if o < 8 then s.setRouter d (r.setPort n (writePctl p (mergeBytes pctl o 4 v)))
    else if 0x40 ≤ o && o < 0x80 then
      let lim := (List.range 4).foldl
        (fun m i => SMap.put 64 m (o - 0x40 + i) (BitVec.ofNat 8 (orOne (field v (8 * i + 7) (8 * i))))) p.limits
      s.setRouter d (r.setPort n { p with limits := lim })
    else s
  else if 0x60000 ≤ off && off < 0x61000 then
    let k := (off - 0x60000) / 16
    let old : BitVec 128 := SMap.look 0 r.notices k
    s.setRouter d { r with
      notices := SMap.put 0 r.notices k (BitVec.ofNat 128 (setField old.toNat (off % 16 * 8 + 31) (off % 16 * 8) v)) }
  else s

/-- A write of `n` bytes within one 8-byte register of a region above HBM. -/
def State.regPut (s : State) (kernel : Bool) (pa n v : Nat) : State :=
  match whereIs pa with
  | .page q off =>
    s.writeQreg kernel q (off / 8 * 8) (mergeBytes ((s.queue q).reg (off / 8 * 8)) (off % 8) n v)
  | .temp k off =>
    let x : Sensor := SMap.look {} s.sensors k
    let y := writeTemp x (mergeBytes (Sensor.reg x) off n v) ((mergeBytes 0 off n v).getLsbD 31)
    { s with sensors := SMap.put {} s.sensors k y }
  | .window d off =>
    if (n = 4 || n = 8) && off % n = 0 then
      let s := s.window32Put d off (v % 2 ^ 32)
      if n = 8 then s.window32Put d (off + 4) (v / 2 ^ 32) else s
    else s
  | _ => s

/-- A write to a register region, cut at register boundaries. -/
def State.regWrite (s : State) (kernel : Bool) (pa : Nat) (b : List Byte) : State :=
  match whereIs pa with
  | .window .. => s.regPut kernel pa b.length (leNat b)
  | _ =>
    let k := 8 - pa % 8
    let s := s.regPut kernel pa (min k b.length) (leNat (b.take k))
    if b.length ≤ k then s
    else
      let s := s.regPut kernel (pa + k) (min 8 (b.length - k)) (leNat ((b.drop k).take 8))
      if b.length ≤ k + 8 then s
      else s.regPut kernel (pa + k + 8) (b.length - k - 8) (leNat (b.drop (k + 8)))

end Sys2Proof.Machine
end

