-- ==== Sys2Proof/Decode.lean ====
section
/-! DEFINITION. Decoding a 128-bit word (07, R163 to R176), total and refusing by cause, and the encoder.
The decoder reads the named fields of the word, builds the instruction, and accepts it only if that instruction's
own encoding is the word: so a nonzero bit of any field that the entry does not name, in a clause without its enable
or in the zero part of a format is RESERVED_FIELD (R164, R168). -/

namespace Sys2Proof

/-! ## Codes of the fields (R163, R169 to R173, R223) -/

/-- The engine tags of R163. -/
def Eng.code : Eng → BitVec 3
  | .s => 0 | .v => 1 | .m => 2 | .a => 3 | .f => 4 | .j => 5 | .x => 7
def Eng.ofCode (n : BitVec 3) : Option Eng :=
  [Eng.s, .v, .m, .a, .f, .j, .x].find? (·.code == n)
/-- SPT, R163. -/
def SigPoint.code : SigPoint → BitVec 2
  | .done => 0 | .issue => 1 | .vis => 2
def SigPoint.ofCode (n : BitVec 2) : Option SigPoint :=
  [SigPoint.done, .issue, .vis].find? (·.code == n)
/-- COND of BRC, R173; CMP holds the same code in fn (R203). -/
def Cond.code : Cond → BitVec 4
  | .eq => 0 | .ne => 1 | .lt => 2 | .ge => 3 | .le => 4 | .gt => 5
  | .ltn => 6 | .gen => 7 | .len => 8 | .gtn => 9 | .bs => 10 | .bc => 11
def Cond.ofCode (n : BitVec 4) : Option Cond :=
  [Cond.eq, .ne, .lt, .ge, .le, .gt, .ltn, .gen, .len, .gtn, .bs, .bc].find? (·.code == n)
def PCond.code : PCond → BitVec 4
  | .any => 0 | .all => 1 | .none => 2
def PCond.ofCode (n : BitVec 4) : Option PCond :=
  [PCond.any, .all, .none].find? (·.code == n)
/-- SIZE, R169. -/
def MSize.code : MSize → BitVec 3
  | .b1 => 0 | .b2 => 1 | .b4 => 2 | .b8 => 3 | .b16 => 4
def MSize.ofCode (n : BitVec 3) : Option MSize :=
  [MSize.b1, .b2, .b4, .b8, .b16].find? (·.code == n)
/-- ORD, R169. -/
def Ord.code : Ord → BitVec 2
  | .relaxed => 0 | .acq => 1 | .rel => 2 | .ar => 3
def Ord.ofCode (n : BitVec 2) : Option Ord :=
  [Ord.relaxed, .acq, .rel, .ar].find? (·.code == n)
/-- SCOPE, R169. -/
def Scope.code : Scope → BitVec 3
  | .core => 0 | .team => 1 | .die => 2 | .module => 3 | .domain => 4
def Scope.ofCode (n : BitVec 3) : Option Scope :=
  [Scope.core, .team, .die, .module, .domain].find? (·.code == n)
/-- RND, R51 and R170. -/
def Rnd.code : Rnd → BitVec 3
  | .rne => 0 | .rtz => 1 | .rup => 2 | .rdn => 3 | .rsr => 4 | .dyn => 7
def Rnd.ofCode (n : BitVec 3) : Option Rnd :=
  [Rnd.rne, .rtz, .rup, .rdn, .rsr, .dyn].find? (·.code == n)
/-- The element type codes of R171. -/
def ETy.code : ETy → BitVec 5
  | .f32 => 0 | .f16 => 1 | .bf16 => 2 | .e4m3 => 3 | .e5m2 => 4 | .e2m1 => 5
  | .i8 => 8 | .i16 => 9 | .i32 => 10 | .n8 => 12 | .n16 => 13 | .n32 => 14 | .e8m0 => 16
def ETy.ofCode (n : BitVec 5) : Option ETy :=
  [ETy.f32, .f16, .bf16, .e4m3, .e5m2, .e2m1, .i8, .i16, .i32, .n8, .n16, .n32, .e8m0].find? (·.code == n)
/-- The V source specifiers of R172. -/
def VSrc.code : VSrc → BitVec 10
  | .reg n => n | .pop q => 96#7 ++ q | .peek q => 97#7 ++ q
def VSrc.of (n : BitVec 10) : Option VSrc :=
  if n < 768 then some (.reg n)
  else if n.extractLsb' 3 7 = 96 then some (.pop (n.setWidth 3))
  else if n.extractLsb' 3 7 = 97 then some (.peek (n.setWidth 3))
  else none
/-- The V destination specifiers of R172. -/
def VDst.code : VDst → BitVec 10
  | .reg n => n | .push w => 196#8 ++ w
def VDst.of (n : BitVec 10) : Option VDst :=
  if n < 768 then some (.reg n)
  else if n.extractLsb' 2 8 = 196 then some (.push (n.setWidth 2))
  else none
/-- SUB of VFCMP, R238. -/
def FCmp.code : FCmp → BitVec 4
  | .eq => 0 | .ne => 1 | .lt => 2 | .le => 3 | .gt => 4 | .ge => 5 | .un => 6 | .or => 7
def FCmp.ofCode (n : BitVec 4) : Option FCmp :=
  [FCmp.eq, .ne, .lt, .le, .gt, .ge, .un, .or].find? (·.code == n)
/-- SUB of VCMP, R243. -/
def ICmp.code : ICmp → BitVec 4
  | .eq => 0 | .ne => 1 | .lt => 2 | .le => 3 | .gt => 4 | .ge => 5
def ICmp.ofCode (n : BitVec 4) : Option ICmp :=
  [ICmp.eq, .ne, .lt, .le, .gt, .ge].find? (·.code == n)
/-- SUB of VSHUF, R251. -/
def ShufPat.code : ShufPat → BitVec 4
  | .zlo => 0 | .zhi => 1 | .even => 2 | .odd => 3 | .pswap => 4 | .rev => 5
def ShufPat.ofCode (n : BitVec 4) : Option ShufPat :=
  [ShufPat.zlo, .zhi, .even, .odd, .pswap, .rev].find? (·.code == n)
/-- SUB of PSET, R259. -/
def PsetPat.code : PsetPat → BitVec 4
  | .none => 0 | .all => 1 | .first => 2 | .from => 3
def PsetPat.ofCode (n : BitVec 4) : Option PsetPat :=
  [PsetPat.none, .all, .first, .from].find? (·.code == n)
/-- The control register numbers of R223. -/
def Csr.code : Csr → BitVec 12
  | .fpctl => 0x000 | .fpstat => 0x001 | .lseed => 0x002 | .rrb => 0x003 | .prb => 0x004 | .win => 0x005
  | .taskid => 0x010 | .teaminfo => 0x011 | .gridinfo => 0x012 | .domain => 0x013
  | .mstat => 0x020 | .ufentry => 0x021 | .chrono => 0x030
def Csr.ofCode (n : BitVec 12) : Option Csr :=
  [Csr.fpctl, .fpstat, .lseed, .rrb, .prb, .win, .taskid, .teaminfo, .gridinfo, .domain, .mstat, .ufentry,
    .chrono].find? (·.code == n)
/-- The functions of RAMO, R322. -/
def AmoOp.code : AmoOp → BitVec 4
  | .add => 0 | .and => 1 | .or => 2 | .xor => 3 | .min => 4 | .max => 5 | .minn => 6 | .maxn => 7
  | .swp => 8 | .fadd => 9
def AmoOp.ofCode (n : BitVec 4) : Option AmoOp :=
  [AmoOp.add, .and, .or, .xor, .min, .max, .minn, .maxn, .swp, .fadd].find? (·.code == n)
/-- The hints of THINT, R289. -/
def Hint.code : Hint → BitVec 2
  | .norm => 0 | .strm => 1 | .lu => 2
def Hint.ofCode (n : BitVec 2) : Option Hint :=
  [Hint.norm, .strm, .lu].find? (·.code == n)

/-- The fn byte of R169. -/
def memFn (z : MSize) (o : Ord) (k : Scope) : BitVec 8 := z.code ++ o.code ++ k.code
def memFnOf (fn : BitVec 8) : Option (MSize × Ord × Scope) := do
  pure (← MSize.ofCode (fn.extractLsb' 5 3), ← Ord.ofCode (fn.extractLsb' 3 2), ← Scope.ofCode (fn.extractLsb' 0 3))
/-- A peer field; zero when the operand names no peer (R267, R289). -/
def peerCode (p : Option (BitVec 2)) : BitVec 2 := p.getD 0
def peerOf (pv : BitVec 1) (p : BitVec 2) : Option (BitVec 2) := if pv = 1 then some p else none
/-- CLS, R167: 01 for the adaptive class. -/
def clsCode (adp : Bool) : BitVec 2 := if adp then 1 else 0

/-! ## The body formats of R166, from the most significant field down -/

/-- Format SR of R166. -/
structure SRF where
  d : BitVec 6 := 0
  a : BitVec 6 := 0
  b : BitVec 6 := 0
  c : BitVec 6 := 0
  fn : BitVec 8 := 0
  deriving DecidableEq, Repr
def SRF.bits (f : SRF) : BitVec 84 :=
  (f.d ++ f.a ++ f.b ++ f.c ++ f.fn ++ 0#52 : BitVec 84)
def SRF.of (b : BitVec 84) : SRF :=
  ⟨b.extractLsb' 78 6, b.extractLsb' 72 6, b.extractLsb' 66 6, b.extractLsb' 60 6, b.extractLsb' 52 8⟩

/-- Format SI of R166. -/
structure SIF where
  d : BitVec 6 := 0
  a : BitVec 6 := 0
  imm : BitVec 64 := 0
  fn : BitVec 8 := 0
  deriving DecidableEq, Repr
def SIF.bits (f : SIF) : BitVec 84 :=
  (f.d ++ f.a ++ f.imm ++ f.fn : BitVec 84)
def SIF.of (b : BitVec 84) : SIF :=
  ⟨b.extractLsb' 78 6, b.extractLsb' 72 6, b.extractLsb' 8 64, b.extractLsb' 0 8⟩

/-- Format VR, with its fn byte split by R170 of R166. -/
structure VRF where
  d : BitVec 10 := 0
  a : BitVec 10 := 0
  b : BitVec 10 := 0
  c : BitVec 10 := 0
  p : BitVec 6 := 0
  pm : BitVec 1 := 0
  ty : BitVec 5 := 0
  rnd : BitVec 3 := 0
  sat : BitVec 1 := 0
  sub : BitVec 4 := 0
  imm : BitVec 24 := 0
  deriving DecidableEq, Repr
def VRF.bits (f : VRF) : BitVec 84 :=
  (f.d ++ f.a ++ f.b ++ f.c ++ f.p ++ f.pm ++ f.ty ++ f.rnd ++ f.sat ++ f.sub ++ f.imm : BitVec 84)
def VRF.of (b : BitVec 84) : VRF :=
  ⟨b.extractLsb' 74 10, b.extractLsb' 64 10, b.extractLsb' 54 10, b.extractLsb' 44 10,
    b.extractLsb' 38 6, b.extractLsb' 37 1, b.extractLsb' 32 5, b.extractLsb' 29 3, b.extractLsb' 28 1,
    b.extractLsb' 24 4, b.extractLsb' 0 24⟩

/-- Format VI of R166. -/
structure VIF where
  d : BitVec 10 := 0
  ty : BitVec 5 := 0
  p : BitVec 6 := 0
  imm : BitVec 32 := 0
  deriving DecidableEq, Repr
def VIF.bits (f : VIF) : BitVec 84 :=
  (f.d ++ f.ty ++ f.p ++ f.imm ++ 0#31 : BitVec 84)
def VIF.of (b : BitVec 84) : VIF :=
  ⟨b.extractLsb' 74 10, b.extractLsb' 69 5, b.extractLsb' 63 6, b.extractLsb' 31 32⟩

/-- Format MT, with FLAGS split by R267 of R166. -/
structure MTF where
  acc : BitVec 1 := 0
  aslot : BitVec 10 := 0
  ak : BitVec 5 := 0
  apeer : BitVec 2 := 0
  amc : BitVec 1 := 0
  bslot : BitVec 10 := 0
  bk : BitVec 5 := 0
  bpeer : BitVec 2 := 0
  bmc : BitVec 1 := 0
  aty : BitVec 5 := 0
  bty : BitVec 5 := 0
  kb : BitVec 5 := 0
  rnd : BitVec 3 := 0
  sat : BitVec 1 := 0
  apv : BitVec 1 := 0
  bpv : BitVec 1 := 0
  alu : BitVec 1 := 0
  blu : BitVec 1 := 0
  deriving DecidableEq, Repr
def MTF.bits (f : MTF) : BitVec 84 :=
  (f.acc ++ f.aslot ++ f.ak ++ f.apeer ++ f.amc ++ f.bslot ++ f.bk ++ f.bpeer ++ f.bmc ++ f.aty ++ f.bty ++ f.kb ++ f.rnd ++ f.sat ++ f.apv ++ f.bpv ++ f.alu ++ f.blu ++ 0#24 : BitVec 84)
def MTF.of (b : BitVec 84) : MTF :=
  ⟨b.extractLsb' 83 1, b.extractLsb' 73 10, b.extractLsb' 68 5, b.extractLsb' 66 2, b.extractLsb' 65 1,
    b.extractLsb' 55 10, b.extractLsb' 50 5, b.extractLsb' 48 2, b.extractLsb' 47 1, b.extractLsb' 42 5,
    b.extractLsb' 37 5, b.extractLsb' 32 5, b.extractLsb' 29 3, b.extractLsb' 28 1, b.extractLsb' 27 1,
    b.extractLsb' 26 1, b.extractLsb' 25 1, b.extractLsb' 24 1⟩

/-- Format AT of R166. -/
structure ATF where
  slot : BitVec 10 := 0
  k : BitVec 5 := 0
  g : BitVec 4 := 0
  q : BitVec 4 := 0
  sa : BitVec 6 := 0
  sb : BitVec 6 := 0
  i : BitVec 4 := 0
  ty : BitVec 5 := 0
  fn : BitVec 8 := 0
  imm : BitVec 32 := 0
  deriving DecidableEq, Repr
def ATF.bits (f : ATF) : BitVec 84 :=
  (f.slot ++ f.k ++ f.g ++ f.q ++ f.sa ++ f.sb ++ f.i ++ f.ty ++ f.fn ++ f.imm : BitVec 84)
def ATF.of (b : BitVec 84) : ATF :=
  ⟨b.extractLsb' 74 10, b.extractLsb' 69 5, b.extractLsb' 65 4, b.extractLsb' 61 4, b.extractLsb' 55 6,
    b.extractLsb' 49 6, b.extractLsb' 45 4, b.extractLsb' 40 5, b.extractLsb' 32 8, b.extractLsb' 0 32⟩

/-- Format FR of R166. -/
structure FRF where
  die : BitVec 14 := 0
  sa : BitVec 6 := 0
  sb : BitVec 6 := 0
  sc : BitVec 6 := 0
  sd : BitVec 6 := 0
  q : BitVec 4 := 0
  tsem : BitVec 8 := 0
  cls : BitVec 2 := 0
  fn : BitVec 8 := 0
  imm : BitVec 24 := 0
  deriving DecidableEq, Repr
def FRF.bits (f : FRF) : BitVec 84 :=
  (f.die ++ f.sa ++ f.sb ++ f.sc ++ f.sd ++ f.q ++ f.tsem ++ f.cls ++ f.fn ++ f.imm : BitVec 84)
def FRF.of (b : BitVec 84) : FRF :=
  ⟨b.extractLsb' 70 14, b.extractLsb' 64 6, b.extractLsb' 58 6, b.extractLsb' 52 6, b.extractLsb' 46 6,
    b.extractLsb' 42 4, b.extractLsb' 34 8, b.extractLsb' 32 2, b.extractLsb' 24 8, b.extractLsb' 0 24⟩

/-- Format JC of R166. -/
structure JCF where
  scard : BitVec 6 := 0
  sd : BitVec 6 := 0
  sa : BitVec 6 := 0
  fn : BitVec 8 := 0
  imm : BitVec 32 := 0
  deriving DecidableEq, Repr
def JCF.bits (f : JCF) : BitVec 84 :=
  (f.scard ++ f.sd ++ f.sa ++ f.fn ++ 0#26 ++ f.imm : BitVec 84)
def JCF.of (b : BitVec 84) : JCF :=
  ⟨b.extractLsb' 78 6, b.extractLsb' 72 6, b.extractLsb' 66 6, b.extractLsb' 58 8, b.extractLsb' 0 32⟩

/-- Format XB of R166. -/
structure XBF where
  sa : BitVec 6 := 0
  cond : BitVec 4 := 0
  sb : BitVec 6 := 0
  p : BitVec 6 := 0
  off : BitVec 32 := 0
  deriving DecidableEq, Repr
def XBF.bits (f : XBF) : BitVec 84 :=
  (f.sa ++ f.cond ++ f.sb ++ f.p ++ 0#30 ++ f.off : BitVec 84)
def XBF.of (b : BitVec 84) : XBF :=
  ⟨b.extractLsb' 78 6, b.extractLsb' 74 4, b.extractLsb' 68 6, b.extractLsb' 62 6, b.extractLsb' 0 32⟩

/-- Format XL of R166. -/
structure XLF where
  cnt : BitVec 6 := 0
  len : BitVec 10 := 0
  ii : BitVec 8 := 0
  stg : BitVec 4 := 0
  vstep : BitVec 10 := 0
  pstep : BitVec 6 := 0
  gp : BitVec 6 := 0
  deriving DecidableEq, Repr
def XLF.bits (f : XLF) : BitVec 84 :=
  (f.cnt ++ f.len ++ f.ii ++ f.stg ++ f.vstep ++ f.pstep ++ f.gp ++ 0#34 : BitVec 84)
def XLF.of (b : BitVec 84) : XLF :=
  ⟨b.extractLsb' 78 6, b.extractLsb' 68 10, b.extractLsb' 60 8, b.extractLsb' 56 4, b.extractLsb' 46 10,
    b.extractLsb' 40 6, b.extractLsb' 34 6⟩

/-- The predicate of a V word (R228). -/
def VRF.pred (f : VRF) : VPred := ⟨f.p, f.pm == 1⟩
/-- The A operand of an M word (R267). -/
def MTF.tileA (f : MTF) : MTile := ⟨f.aslot, f.ak, peerOf f.apv f.apeer, f.amc == 1, f.alu == 1⟩
/-- The B operand of an M word (R267). -/
def MTF.tileB (f : MTF) : MTile := ⟨f.bslot, f.bk, peerOf f.bpv f.bpeer, f.bmc == 1, f.blu == 1⟩

/-! ## Encoding -/

open BitVec (ofBool) in
/-- The engine tag, the opcode and the body of a word, from R175 and the tables of 08 to 12 and 19; none for a row of
the opcode table that is no word. -/
def Instr.fields : Instr → Option (Eng × BitVec 9 × BitVec 84)
  | .syncX  => some (.x, 0x000, 0)
  | .br o => some (.x, 0x001, ({ off := o } : XBF).bits)
  | .brc o => some (.x, 0x002, ({ sa := o.a, cond := o.cond.code, sb := o.b, off := o.off } : XBF).bits)
  | .brp o => some (.x, 0x003, ({ p := o.p, cond := o.cond.code, sb := if o.w32 then 1 else 0, off := o.off } : XBF).bits)
  | .call o => some (.x, 0x004, ({ off := o } : XBF).bits)
  | .ret  => some (.x, 0x005, 0)
  | .loop o => some (.x, 0x006, ({ sa := o.a, off := o.len } : XBF).bits)
  | .loopm o => some (.x, 0x007, ({ cnt := o.cnt, len := o.len, ii := o.ii, stg := o.stg, vstep := o.vstep, pstep := o.pstep, gp := o.gp } : XLF).bits)
  | .fork o => some (.x, 0x008, ({ off := o } : XBF).bits)
  | .rdv  => some (.x, 0x009, 0)
  | .exit  => some (.x, 0x00a, 0)
  | .winset o => some (.x, 0x00b, ({ sa := o.a, off := o.off } : XBF).bits)
  | .brx o => some (.x, 0x00c, ({ sa := o.a, off := o.off, sb := o.link } : XBF).bits)
  | .fret  => some (.x, 0x00d, 0)
  | .syncS  => some (.s, 0x000, 0)
  | .add o => some (.s, 0x001, ({ d := o.d, a := o.a, b := o.b } : SRF).bits)
  | .sub o => some (.s, 0x002, ({ d := o.d, a := o.a, b := o.b } : SRF).bits)
  | .addi o => some (.s, 0x003, ({ d := o.d, a := o.a, imm := o.imm } : SIF).bits)
  | .mul o => some (.s, 0x004, ({ d := o.d, a := o.a, b := o.b } : SRF).bits)
  | .mulh o => some (.s, 0x005, ({ d := o.d, a := o.a, b := o.b } : SRF).bits)
  | .mulhn o => some (.s, 0x006, ({ d := o.d, a := o.a, b := o.b } : SRF).bits)
  | .div o => some (.s, 0x007, ({ d := o.d, a := o.a, b := o.b } : SRF).bits)
  | .divn o => some (.s, 0x008, ({ d := o.d, a := o.a, b := o.b } : SRF).bits)
  | .rem o => some (.s, 0x009, ({ d := o.d, a := o.a, b := o.b } : SRF).bits)
  | .remn o => some (.s, 0x00a, ({ d := o.d, a := o.a, b := o.b } : SRF).bits)
  | .and o => some (.s, 0x00b, ({ d := o.d, a := o.a, b := o.b } : SRF).bits)
  | .or o => some (.s, 0x00c, ({ d := o.d, a := o.a, b := o.b } : SRF).bits)
  | .xor o => some (.s, 0x00d, ({ d := o.d, a := o.a, b := o.b } : SRF).bits)
  | .andn o => some (.s, 0x00e, ({ d := o.d, a := o.a, b := o.b } : SRF).bits)
  | .shl o => some (.s, 0x00f, ({ d := o.d, a := o.a, b := o.b } : SRF).bits)
  | .shr o => some (.s, 0x010, ({ d := o.d, a := o.a, b := o.b } : SRF).bits)
  | .sra o => some (.s, 0x011, ({ d := o.d, a := o.a, b := o.b } : SRF).bits)
  | .rotr o => some (.s, 0x012, ({ d := o.d, a := o.a, b := o.b } : SRF).bits)
  | .cmp o => some (.s, 0x013, ({ d := o.d, a := o.a, b := o.b, fn := 0#4 ++ o.cond.code } : SRF).bits)
  | .min o => some (.s, 0x014, ({ d := o.d, a := o.a, b := o.b } : SRF).bits)
  | .max o => some (.s, 0x015, ({ d := o.d, a := o.a, b := o.b } : SRF).bits)
  | .minn o => some (.s, 0x016, ({ d := o.d, a := o.a, b := o.b } : SRF).bits)
  | .maxn o => some (.s, 0x017, ({ d := o.d, a := o.a, b := o.b } : SRF).bits)
  | .sel o => some (.s, 0x018, ({ d := o.d, a := o.a, b := o.b, c := o.c } : SRF).bits)
  | .clz o => some (.s, 0x019, ({ d := o.d, a := o.a } : SRF).bits)
  | .ctz o => some (.s, 0x01a, ({ d := o.d, a := o.a } : SRF).bits)
  | .popc o => some (.s, 0x01b, ({ d := o.d, a := o.a } : SRF).bits)
  | .brev o => some (.s, 0x01c, ({ d := o.d, a := o.a } : SRF).bits)
  | .bswap o => some (.s, 0x01d, ({ d := o.d, a := o.a } : SRF).bits)
  | .extr o => some (.s, 0x01e, ({ d := o.d, a := o.a, b := o.b, c := o.c } : SRF).bits)
  | .insr o => some (.s, 0x01f, ({ d := o.d, a := o.a, b := o.b, c := o.c } : SRF).bits)
  | .movi o => some (.s, 0x020, ({ d := o.d, imm := o.imm } : SIF).bits)
  | .mov o => some (.s, 0x021, ({ d := o.d, a := o.a } : SRF).bits)
  | .sext o => some (.s, 0x022, ({ d := o.d, a := o.a, fn := o.size.code ++ 0#5 } : SRF).bits)
  | .zext o => some (.s, 0x023, ({ d := o.d, a := o.a, fn := o.size.code ++ 0#5 } : SRF).bits)
  | .getl o => some (.s, 0x024, ({ d := o } : SRF).bits)
  | .ld o => some (.s, 0x030, ({ d := o.d, a := o.a, imm := o.imm, fn := memFn o.size o.ord o.scope } : SIF).bits)
  | .st o => some (.s, 0x031, ({ d := o.d, a := o.a, imm := o.imm, fn := memFn o.size o.ord o.scope } : SIF).bits)
  | .lda o => some (.s, 0x032, ({ d := o.d, a := o.a, imm := o.imm, fn := memFn o.size .acq o.scope } : SIF).bits)
  | .stl o => some (.s, 0x033, ({ d := o.d, a := o.a, imm := o.imm, fn := memFn o.size .rel o.scope } : SIF).bits)
  | .ldnt o => some (.s, 0x034, ({ d := o.d, a := o.a, imm := o.imm, fn := memFn o.size .relaxed o.scope } : SIF).bits)
  | .prefl o => some (.s, 0x035, ({ a := o.a, imm := o.imm } : SIF).bits)
  | .amoadd o => some (.s, 0x040, ({ d := o.d, a := o.a, b := o.b, fn := memFn o.size o.ord o.scope } : SRF).bits)
  | .amoand o => some (.s, 0x041, ({ d := o.d, a := o.a, b := o.b, fn := memFn o.size o.ord o.scope } : SRF).bits)
  | .amoor o => some (.s, 0x042, ({ d := o.d, a := o.a, b := o.b, fn := memFn o.size o.ord o.scope } : SRF).bits)
  | .amoxor o => some (.s, 0x043, ({ d := o.d, a := o.a, b := o.b, fn := memFn o.size o.ord o.scope } : SRF).bits)
  | .amomin o => some (.s, 0x044, ({ d := o.d, a := o.a, b := o.b, fn := memFn o.size o.ord o.scope } : SRF).bits)
  | .amomax o => some (.s, 0x045, ({ d := o.d, a := o.a, b := o.b, fn := memFn o.size o.ord o.scope } : SRF).bits)
  | .amominn o => some (.s, 0x046, ({ d := o.d, a := o.a, b := o.b, fn := memFn o.size o.ord o.scope } : SRF).bits)
  | .amomaxn o => some (.s, 0x047, ({ d := o.d, a := o.a, b := o.b, fn := memFn o.size o.ord o.scope } : SRF).bits)
  | .amoswp o => some (.s, 0x048, ({ d := o.d, a := o.a, b := o.b, fn := memFn o.size o.ord o.scope } : SRF).bits)
  | .cas o => some (.s, 0x049, ({ d := o.d, a := o.a, b := o.b, c := o.c, fn := memFn o.size o.ord o.scope } : SRF).bits)
  | .cas2 o => some (.s, 0x04a, ({ d := o.d, a := o.a, b := o.b, c := o.c, fn := memFn .b16 o.ord o.scope } : SRF).bits)
  | .amofadd o => some (.s, 0x04b, ({ d := o.d, a := o.a, b := o.b, fn := memFn o.size o.ord o.scope } : SRF).bits)
  | .fenceAcq o => some (.s, 0x050, ({ fn := memFn .b1 .acq o } : SRF).bits)
  | .fenceRel o => some (.s, 0x050, ({ fn := memFn .b1 .rel o } : SRF).bits)
  | .fenceFull o => some (.s, 0x050, ({ fn := memFn .b1 .ar o } : SRF).bits)
  | .fenceMca o => some (.s, 0x050, ({ fn := memFn .b1 .relaxed o } : SRF).bits)
  | .dcwb o => some (.s, 0x051, ({ a := o.a, b := o.b } : SRF).bits)
  | .dcinv o => some (.s, 0x052, ({ a := o.a, b := o.b } : SRF).bits)
  | .iinv o => some (.s, 0x053, ({ a := o.a, b := o.b, fn := if o.wide then 3 else 2 } : SRF).bits)
  | .fetchb  => some (.s, 0x054, 0)
  | .semsig o => some (.s, 0x060, ({ a := o.a, imm := 0#40 ++ o.amt ++ o.sem } : SIF).bits)
  | .semwait o => some (.s, 0x061, ({ a := o.a, imm := 0#48 ++ o.thr ++ o.sem } : SIF).bits)
  | .semget o => some (.s, 0x062, ({ d := o.d, imm := o.sem.setWidth 64 } : SIF).bits)
  | .semset o => some (.s, 0x063, ({ a := o.a, imm := 0#40 ++ o.amt ++ o.sem } : SIF).bits)
  | .evset o => some (.s, 0x064, ({ a := o.a, imm := o.ev.setWidth 64 } : SIF).bits)
  | .evclr o => some (.s, 0x065, ({ a := o.a, imm := o.ev.setWidth 64 } : SIF).bits)
  | .evwait o => some (.s, 0x066, ({ a := o.a, imm := o.ev.setWidth 64 } : SIF).bits)
  | .barTeam  => some (.s, 0x067, ({ imm := 0 } : SIF).bits)
  | .barDie  => some (.s, 0x067, ({ imm := 1 } : SIF).bits)
  | .barModule  => some (.s, 0x067, ({ imm := 2 } : SIF).bits)
  | .barDomain  => some (.s, 0x067, ({ imm := 3 } : SIF).bits)
  | .yield  => some (.s, 0x068, 0)
  | .launch o => some (.s, 0x069, ({ d := o.d, a := o.a, imm := o.imm } : SIF).bits)
  | .lstat o => some (.s, 0x06a, ({ d := o.d, a := o.a } : SIF).bits)
  | .kset o => some (.s, 0x070, ({ d := o.d.setWidth 6, a := o.a, b := o.b } : SRF).bits)
  | .kadd o => some (.s, 0x071, ({ d := o.d.setWidth 6, a := o.a.setWidth 6, b := o.b, c := o.c } : SRF).bits)
  | .kgetLo o => some (.s, 0x072, ({ d := o.d, a := o.a.setWidth 6, fn := 0 } : SRF).bits)
  | .kgetHi o => some (.s, 0x072, ({ d := o.d, a := o.a.setWidth 6, fn := 1 } : SRF).bits)
  | .csrr o => some (.s, 0x080, ({ d := o.d, imm := o.csr.code.setWidth 64 } : SIF).bits)
  | .csrw o => some (.s, 0x081, ({ a := o.a, imm := o.csr.code.setWidth 64 } : SIF).bits)
  | .chron o => some (.s, 0x082, ({ d := o } : SIF).bits)
  | .trap o => some (.s, 0x083, ({ imm := o.setWidth 64 } : SIF).bits)
  | .brk o => some (.s, 0x084, ({ imm := o.setWidth 64 } : SIF).bits)
  | .csrrp o => some (.s, 0x0c0, ({ d := o.d, a := o.a } : SRF).bits)
  | .csrwp o => some (.s, 0x0c1, ({ d := o.d, a := o.a, b := o.b } : SRF).bits)
  | .resume o => some (.s, 0x0c2, ({ d := o.d, a := o.a } : SRF).bits)
  | .harvest o => some (.s, 0x0c3, ({ d := o.d, a := o.a, b := o.b, c := o.c } : SRF).bits)
  | .tlbinvRange o => some (.s, 0x0c4, ({ a := o.a, b := o.b, c := o.c } : SRF).bits)
  | .tlbinvAsid o => some (.s, 0x0c4, ({ a := o, fn := 1 } : SRF).bits)
  | .tlbinvAll  => some (.s, 0x0c4, ({ fn := 2 } : SRF).bits)
  | .killtask o => some (.s, 0x0c5, ({ d := o.d, a := o.a } : SRF).bits)
  | .syncV  => some (.v, 0x000, 0)
  | .vfadd o => some (.v, 0x010, ({ d := o.d.code, a := o.a.code, b := o.b.code, p := o.pr.p, pm := ofBool o.pr.z, ty := o.ty.code, rnd := o.rm.code, sat := ofBool o.sat } : VRF).bits)
  | .vfsub o => some (.v, 0x011, ({ d := o.d.code, a := o.a.code, b := o.b.code, p := o.pr.p, pm := ofBool o.pr.z, ty := o.ty.code, rnd := o.rm.code, sat := ofBool o.sat } : VRF).bits)
  | .vfmul o => some (.v, 0x012, ({ d := o.d.code, a := o.a.code, b := o.b.code, p := o.pr.p, pm := ofBool o.pr.z, ty := o.ty.code, rnd := o.rm.code, sat := ofBool o.sat } : VRF).bits)
  | .vfmulz o => some (.v, 0x013, ({ d := o.d.code, a := o.a.code, b := o.b.code, p := o.pr.p, pm := ofBool o.pr.z, ty := o.ty.code, rnd := o.rm.code, sat := ofBool o.sat } : VRF).bits)
  | .vfma o => some (.v, 0x014, ({ d := o.d.code, a := o.a.code, b := o.b.code, c := o.c.code, p := o.pr.p, pm := ofBool o.pr.z, ty := o.ty.code, rnd := o.rm.code, sat := ofBool o.sat } : VRF).bits)
  | .vfmaz o => some (.v, 0x015, ({ d := o.d.code, a := o.a.code, b := o.b.code, c := o.c.code, p := o.pr.p, pm := ofBool o.pr.z, ty := o.ty.code, rnd := o.rm.code, sat := ofBool o.sat } : VRF).bits)
  | .vfms o => some (.v, 0x016, ({ d := o.d.code, a := o.a.code, b := o.b.code, c := o.c.code, p := o.pr.p, pm := ofBool o.pr.z, ty := o.ty.code, rnd := o.rm.code, sat := ofBool o.sat } : VRF).bits)
  | .vfnma o => some (.v, 0x017, ({ d := o.d.code, a := o.a.code, b := o.b.code, c := o.c.code, p := o.pr.p, pm := ofBool o.pr.z, ty := o.ty.code, rnd := o.rm.code, sat := ofBool o.sat } : VRF).bits)
  | .vfmin o => some (.v, 0x018, ({ d := o.d.code, a := o.a.code, b := o.b.code, p := o.pr.p, pm := ofBool o.pr.z, ty := o.ty.code } : VRF).bits)
  | .vfmax o => some (.v, 0x019, ({ d := o.d.code, a := o.a.code, b := o.b.code, p := o.pr.p, pm := ofBool o.pr.z, ty := o.ty.code } : VRF).bits)
  | .vfabs o => some (.v, 0x01a, ({ d := o.d.code, a := o.a.code, p := o.pr.p, pm := ofBool o.pr.z, ty := o.ty.code } : VRF).bits)
  | .vfneg o => some (.v, 0x01b, ({ d := o.d.code, a := o.a.code, p := o.pr.p, pm := ofBool o.pr.z, ty := o.ty.code } : VRF).bits)
  | .vfcpsgn o => some (.v, 0x01c, ({ d := o.d.code, a := o.a.code, b := o.b.code, p := o.pr.p, pm := ofBool o.pr.z, ty := o.ty.code } : VRF).bits)
  | .vfdiv o => some (.v, 0x01d, ({ d := o.d.code, a := o.a.code, b := o.b.code, p := o.pr.p, pm := ofBool o.pr.z, ty := o.ty.code, rnd := o.rm.code, sat := ofBool o.sat } : VRF).bits)
  | .vfsqrt o => some (.v, 0x01e, ({ d := o.d.code, a := o.a.code, p := o.pr.p, pm := ofBool o.pr.z, ty := o.ty.code, rnd := o.rm.code, sat := ofBool o.sat } : VRF).bits)
  | .vfrcp o => some (.v, 0x01f, ({ d := o.d.code, a := o.a.code, p := o.pr.p, pm := ofBool o.pr.z, ty := o.ty.code, rnd := o.rnd } : VRF).bits)
  | .vfrsq o => some (.v, 0x020, ({ d := o.d.code, a := o.a.code, p := o.pr.p, pm := ofBool o.pr.z, ty := o.ty.code, rnd := o.rnd } : VRF).bits)
  | .vfexp2 o => some (.v, 0x021, ({ d := o.d.code, a := o.a.code, p := o.pr.p, pm := ofBool o.pr.z, ty := o.ty.code, rnd := o.rnd } : VRF).bits)
  | .vflog2 o => some (.v, 0x022, ({ d := o.d.code, a := o.a.code, p := o.pr.p, pm := ofBool o.pr.z, ty := o.ty.code, rnd := o.rnd } : VRF).bits)
  | .vfsin o => some (.v, 0x023, ({ d := o.d.code, a := o.a.code, p := o.pr.p, pm := ofBool o.pr.z, ty := o.ty.code, rnd := o.rnd } : VRF).bits)
  | .vfcos o => some (.v, 0x024, ({ d := o.d.code, a := o.a.code, p := o.pr.p, pm := ofBool o.pr.z, ty := o.ty.code, rnd := o.rnd } : VRF).bits)
  | .vftanh o => some (.v, 0x025, ({ d := o.d.code, a := o.a.code, p := o.pr.p, pm := ofBool o.pr.z, ty := o.ty.code, rnd := o.rnd } : VRF).bits)
  | .vfcmp o => some (.v, 0x026, ({ d := o.d.setWidth 10, a := o.a.code, b := o.b.code, p := o.pr.p, pm := ofBool o.pr.z, ty := o.ty.code, sub := o.cond.code } : VRF).bits)
  | .vfclass o => some (.v, 0x027, ({ d := o.d.code, a := o.a.code, p := o.pr.p, pm := ofBool o.pr.z, ty := o.ty.code } : VRF).bits)
  | .vfrnd o => some (.v, 0x028, ({ d := o.d.code, a := o.a.code, p := o.pr.p, pm := ofBool o.pr.z, ty := o.ty.code, rnd := o.rm.code } : VRF).bits)
  | .vadd o => some (.v, 0x030, ({ d := o.d.code, a := o.a.code, b := o.b.code, p := o.pr.p, pm := ofBool o.pr.z, ty := o.ty.code } : VRF).bits)
  | .vsub o => some (.v, 0x031, ({ d := o.d.code, a := o.a.code, b := o.b.code, p := o.pr.p, pm := ofBool o.pr.z, ty := o.ty.code } : VRF).bits)
  | .vadds o => some (.v, 0x032, ({ d := o.d.code, a := o.a.code, b := o.b.code, p := o.pr.p, pm := ofBool o.pr.z, ty := o.ty.code } : VRF).bits)
  | .vsubs o => some (.v, 0x033, ({ d := o.d.code, a := o.a.code, b := o.b.code, p := o.pr.p, pm := ofBool o.pr.z, ty := o.ty.code } : VRF).bits)
  | .vmul o => some (.v, 0x034, ({ d := o.d.code, a := o.a.code, b := o.b.code, p := o.pr.p, pm := ofBool o.pr.z, ty := o.ty.code } : VRF).bits)
  | .vmulh o => some (.v, 0x035, ({ d := o.d.code, a := o.a.code, b := o.b.code, p := o.pr.p, pm := ofBool o.pr.z, ty := o.ty.code } : VRF).bits)
  | .vmin o => some (.v, 0x036, ({ d := o.d.code, a := o.a.code, b := o.b.code, p := o.pr.p, pm := ofBool o.pr.z, ty := o.ty.code } : VRF).bits)
  | .vmax o => some (.v, 0x037, ({ d := o.d.code, a := o.a.code, b := o.b.code, p := o.pr.p, pm := ofBool o.pr.z, ty := o.ty.code } : VRF).bits)
  | .vand o => some (.v, 0x038, ({ d := o.d.code, a := o.a.code, b := o.b.code, p := o.pr.p, pm := ofBool o.pr.z, ty := o.ty.code } : VRF).bits)
  | .vor o => some (.v, 0x039, ({ d := o.d.code, a := o.a.code, b := o.b.code, p := o.pr.p, pm := ofBool o.pr.z, ty := o.ty.code } : VRF).bits)
  | .vxor o => some (.v, 0x03a, ({ d := o.d.code, a := o.a.code, b := o.b.code, p := o.pr.p, pm := ofBool o.pr.z, ty := o.ty.code } : VRF).bits)
  | .vshl o => some (.v, 0x03b, ({ d := o.d.code, a := o.a.code, b := o.b.code, p := o.pr.p, pm := ofBool o.pr.z, ty := o.ty.code } : VRF).bits)
  | .vshlImm o => some (.v, 0x03b, ({ d := o.d.code, a := o.a.code, p := o.pr.p, pm := ofBool o.pr.z, ty := o.ty.code, sub := 1, imm := o.imm } : VRF).bits)
  | .vshr o => some (.v, 0x03c, ({ d := o.d.code, a := o.a.code, b := o.b.code, p := o.pr.p, pm := ofBool o.pr.z, ty := o.ty.code } : VRF).bits)
  | .vshrImm o => some (.v, 0x03c, ({ d := o.d.code, a := o.a.code, p := o.pr.p, pm := ofBool o.pr.z, ty := o.ty.code, sub := 1, imm := o.imm } : VRF).bits)
  | .vsra o => some (.v, 0x03d, ({ d := o.d.code, a := o.a.code, b := o.b.code, p := o.pr.p, pm := ofBool o.pr.z, ty := o.ty.code } : VRF).bits)
  | .vsraImm o => some (.v, 0x03d, ({ d := o.d.code, a := o.a.code, p := o.pr.p, pm := ofBool o.pr.z, ty := o.ty.code, sub := 1, imm := o.imm } : VRF).bits)
  | .vcmp o => some (.v, 0x03e, ({ d := o.d.setWidth 10, a := o.a.code, b := o.b.code, p := o.pr.p, pm := ofBool o.pr.z, ty := o.ty.code, sub := o.cond.code } : VRF).bits)
  | .vabs o => some (.v, 0x03f, ({ d := o.d.code, a := o.a.code, p := o.pr.p, pm := ofBool o.pr.z, ty := o.ty.code } : VRF).bits)
  | .vclz o => some (.v, 0x040, ({ d := o.d.code, a := o.a.code, p := o.pr.p, pm := ofBool o.pr.z, ty := o.ty.code } : VRF).bits)
  | .vpopc o => some (.v, 0x041, ({ d := o.d.code, a := o.a.code, p := o.pr.p, pm := ofBool o.pr.z, ty := o.ty.code } : VRF).bits)
  | .vcvt o => some (.v, 0x050, ({ d := o.d.code, a := o.a.code, p := o.pr.p, pm := ofBool o.pr.z, ty := o.dst.code, rnd := o.rm.code, sat := ofBool o.sat, sub := 0#1 ++ o.seg, imm := o.src.code.setWidth 24 } : VRF).bits)
  | .vpack o => some (.v, 0x051, ({ d := o.d.code, a := o.a.code, b := o.b.code, p := o.pr.p, pm := ofBool o.pr.z, ty := o.dst.code, rnd := o.rm.code, sat := ofBool o.sat, imm := o.src.code.setWidth 24 } : VRF).bits)
  | .vunpk o => some (.v, 0x052, ({ d := o.d.code, a := o.a.code, p := o.pr.p, pm := ofBool o.pr.z, ty := o.dst.code, rnd := o.rm.code, sat := ofBool o.sat, imm := o.src.code.setWidth 24 } : VRF).bits)
  | .vqnt o => some (.v, 0x053, ({ d := o.d.code, a := o.a.code, b := o.b, ty := o.dst.code, rnd := o.rm.code, sub := 0#1 ++ o.seg, imm := o.src.code.setWidth 24 } : VRF).bits)
  | .vscl o => some (.v, 0x054, ({ d := o.d.code, a := o.a.code, b := o.b.code, p := o.pr.p, pm := ofBool o.pr.z, ty := o.ty.code, rnd := o.rm.code, sat := ofBool o.sat } : VRF).bits)
  | .vsclImm o => some (.v, 0x054, ({ d := o.d.code, a := o.a.code, p := o.pr.p, pm := ofBool o.pr.z, ty := o.ty.code, rnd := o.rm.code, sat := ofBool o.sat, sub := 1, imm := o.imm } : VRF).bits)
  | .vmov o => some (.v, 0x060, ({ d := o.d.code, a := o.a.code, p := o.pr.p, pm := ofBool o.pr.z, ty := o.ty.code } : VRF).bits)
  | .vmovi o => some (.v, 0x061, ({ d := o.d.code, ty := o.ty.code, p := o.p, imm := o.imm } : VIF).bits)
  | .vsel o => some (.v, 0x062, ({ d := o.d.code, a := o.a.code, b := o.b.code, p := o.p, ty := o.ty.code } : VRF).bits)
  | .vperm o => some (.v, 0x063, ({ d := o.d.code, a := o.a.code, b := o.b.code, c := o.c.code, p := o.pr.p, pm := ofBool o.pr.z, ty := o.ty.code } : VRF).bits)
  | .vshuf o => some (.v, 0x064, ({ d := o.d.code, a := o.a.code, b := o.b.code, p := o.pr.p, pm := ofBool o.pr.z, ty := o.ty.code, sub := o.pat.code } : VRF).bits)
  | .vrot o => some (.v, 0x065, ({ d := o.d.code, a := o.a.code, p := o.pr.p, pm := ofBool o.pr.z, ty := o.ty.code, imm := o.imm } : VRF).bits)
  | .vslide o => some (.v, 0x066, ({ d := o.d.code, a := o.a.code, b := o.b.code, p := o.pr.p, pm := ofBool o.pr.z, ty := o.ty.code, imm := o.imm } : VRF).bits)
  | .vbcast o => some (.v, 0x067, ({ d := o.d.code, a := o.a.code, p := o.pr.p, pm := ofBool o.pr.z, ty := o.ty.code, imm := o.imm } : VRF).bits)
  | .vbcastScalar o => some (.v, 0x067, ({ d := o.d.code, a := o.sa.setWidth 10, p := o.pr.p, pm := ofBool o.pr.z, ty := o.ty.code, sub := 1 } : VRF).bits)
  | .vsetl o => some (.v, 0x068, ({ d := o.d, a := o.sa.setWidth 10, ty := o.ty.code, imm := o.lane } : VRF).bits)
  | .vtpose o => some (.v, 0x069, ({ d := o.d, a := o.a, ty := o.ty.code } : VRF).bits)
  | .viota o => some (.v, 0x06a, ({ d := o.d.code, p := o.pr.p, pm := ofBool o.pr.z, ty := o.ty.code, imm := o.imm } : VRF).bits)
  | .viotaCnt o => some (.v, 0x06a, ({ d := o.d.code, p := o.pr.p, pm := ofBool o.pr.z, ty := o.ty.code, sub := 1, imm := o.imm } : VRF).bits)
  | .vcompr o => some (.v, 0x06b, ({ d := o.d.code, a := o.a.code, p := o.p, ty := o.ty.code } : VRF).bits)
  | .vexpnd o => some (.v, 0x06c, ({ d := o.d.code, a := o.a.code, p := o.pr.p, pm := ofBool o.pr.z, ty := o.ty.code } : VRF).bits)
  | .vrsum o => some (.v, 0x080, ({ d := o.d.code, a := o.a.code, p := o.p, ty := o.ty.code, rnd := o.rm.code } : VRF).bits)
  | .vrmax o => some (.v, 0x081, ({ d := o.d.code, a := o.a.code, p := o.p, ty := o.ty.code, rnd := o.rm.code } : VRF).bits)
  | .vrmin o => some (.v, 0x082, ({ d := o.d.code, a := o.a.code, p := o.p, ty := o.ty.code, rnd := o.rm.code } : VRF).bits)
  | .vramax o => some (.v, 0x083, ({ d := o.d.code, a := o.a.code, p := o.p, ty := o.ty.code, rnd := o.rm.code } : VRF).bits)
  | .vscan o => some (.v, 0x084, ({ d := o.d.code, a := o.a.code, p := o.pr.p, pm := ofBool o.pr.z, ty := o.ty.code, rnd := o.rm.code } : VRF).bits)
  | .vrsumw o => some (.v, 0x085, ({ d := o.d.code, a := o.a.code, p := o.p, ty := o.ty.code, rnd := o.rm.code } : VRF).bits)
  | .pand o => some (.v, 0x090, ({ d := o.d.setWidth 10, a := o.a.setWidth 10, b := o.b.setWidth 10 } : VRF).bits)
  | .por o => some (.v, 0x091, ({ d := o.d.setWidth 10, a := o.a.setWidth 10, b := o.b.setWidth 10 } : VRF).bits)
  | .pxor o => some (.v, 0x092, ({ d := o.d.setWidth 10, a := o.a.setWidth 10, b := o.b.setWidth 10 } : VRF).bits)
  | .pnot o => some (.v, 0x093, ({ d := o.d.setWidth 10, a := o.a.setWidth 10 } : VRF).bits)
  | .pmov o => some (.v, 0x094, ({ d := o.d.setWidth 10, a := o.a.setWidth 10 } : VRF).bits)
  | .pset o => some (.v, 0x095, ({ d := o.d.setWidth 10, ty := o.ty.code, sub := o.pat.code, imm := o.n.setWidth 24 } : VRF).bits)
  | .pfirst o => some (.v, 0x096, ({ d := o.d.setWidth 10, a := o.a.setWidth 10, ty := o.ty.code } : VRF).bits)
  | .syncM  => some (.m, 0x000, 0)
  | .lease  => some (.m, 0x001, 0)
  | .lrel  => some (.m, 0x002, 0)
  | .accz o => some (.m, 0x003, ({ acc := o.acc } : MTF).bits)
  | .accld o => some (.m, 0x004, ({ acc := o.acc, aslot := o.t.slot, ak := o.t.k, apeer := peerCode o.t.peer, amc := ofBool o.t.mc, aty := o.src.code, bty := o.cell.code, kb := o.kb, apv := ofBool o.t.peer.isSome, alu := ofBool o.t.lu } : MTF).bits)
  | .accst o => some (.m, 0x005, ({ acc := o.acc, aslot := o.slot, ak := o.k, aty := o.dst.code, bty := o.cell.code, kb := o.kb, rnd := o.rm.code, sat := ofBool o.sat, blu := ofBool o.fin } : MTF).bits)
  | .mma o => some (.m, 0x006, ({ acc := o.acc, aslot := o.ta.slot, ak := o.ta.k, apeer := peerCode o.ta.peer, amc := ofBool o.ta.mc, bslot := o.tb.slot, bk := o.tb.k, bpeer := peerCode o.tb.peer, bmc := ofBool o.tb.mc, aty := o.aty.code, bty := o.bty.code, kb := o.kb, apv := ofBool o.ta.peer.isSome, alu := ofBool o.ta.lu, bpv := ofBool o.tb.peer.isSome, blu := ofBool o.tb.lu } : MTF).bits)
  | .attq o => some (.m, 0x007, ({ acc := o.acc, aslot := o.t.slot, ak := o.t.k, apeer := peerCode o.t.peer, amc := ofBool o.t.mc, bk := o.kc, aty := o.qty.code, kb := o.kb, apv := ofBool o.t.peer.isSome, alu := ofBool o.t.lu } : MTF).bits)
  | .attkv o => some (.m, 0x008, ({ acc := o.acc, aslot := o.ta.slot, ak := o.ta.k, apeer := peerCode o.ta.peer, amc := ofBool o.ta.mc, bslot := o.tb.slot, bk := o.tb.k, bpeer := peerCode o.tb.peer, bmc := ofBool o.tb.mc, aty := o.aty.code, bty := o.bty.code, kb := o.kb, apv := ofBool o.ta.peer.isSome, alu := ofBool o.ta.lu, bpv := ofBool o.tb.peer.isSome, blu := ofBool o.tb.lu } : MTF).bits)
  | .attfin o => some (.m, 0x009, ({ acc := o.acc } : MTF).bits)
  | .attst o => some (.m, 0x00a, ({ acc := o.acc, aslot := o.oslot, ak := o.ko, bslot := o.mslot, bk := o.km, aty := o.oty.code, kb := o.kb, rnd := o.rm.code, sat := ofBool o.sat } : MTF).bits)
  | .attmrg o => some (.m, 0x00b, ({ acc := o.acc, aslot := o.ta.slot, ak := o.ta.k, apeer := peerCode o.ta.peer, amc := ofBool o.ta.mc, bslot := o.tb.slot, bk := o.tb.k, bpeer := peerCode o.tb.peer, bmc := ofBool o.tb.mc, aty := o.oty.code, kb := o.kb, apv := ofBool o.ta.peer.isSome, alu := ofBool o.ta.lu, bpv := ofBool o.tb.peer.isSome, blu := ofBool o.tb.lu } : MTF).bits)
  | .mburstStart  => some (.m, 0x00c, ({ blu := 1 } : MTF).bits)
  | .mburstEnd  => some (.m, 0x00c, 0)
  | .mstat o => some (.m, 0x00d, ({ rnd := 0#2 ++ o.mask.extractLsb' 5 1, sat := o.mask.extractLsb' 4 1, apv := o.mask.extractLsb' 3 1, bpv := o.mask.extractLsb' 2 1, alu := o.mask.extractLsb' 1 1, blu := o.mask.extractLsb' 0 1 } : MTF).bits)
  | .syncA  => some (.a, 0x000, 0)
  | .tbind o => some (.a, 0x001, ({ slot := o.slot, sa := o.sa, imm := o.imm } : ATF).bits)
  | .tunb o => some (.a, 0x002, ({ slot := o.slot } : ATF).bits)
  | .tvacq o => some (.a, 0x003, ({ slot := o.slot, sa := o.sa, imm := o.imm, fn := 0#3 ++ Ord.acq.code ++ o.scope.code } : ATF).bits)
  | .tvbump o => some (.a, 0x004, ({ slot := o.slot, fn := 0#3 ++ Ord.rel.code ++ o.scope.code } : ATF).bits)
  | .tfill o => some (.a, 0x005, ({ slot := o.slot, k := o.k } : ATF).bits)
  | .tpref o => some (.a, 0x006, ({ slot := o.slot, sa := o.sa, imm := o.imm, fn := 0#2 ++ o.n } : ATF).bits)
  | .tpin o => some (.a, 0x007, ({ slot := o.slot, k := o.k, sa := o.sa, imm := o.imm } : ATF).bits)
  | .tunpin o => some (.a, 0x008, ({ slot := o.slot, k := o.k } : ATF).bits)
  | .tunpinSlot o => some (.a, 0x008, ({ slot := o.slot, k := o.k, fn := 4 } : ATF).bits)
  | .thint o => some (.a, 0x009, ({ slot := o.slot, k := o.k, fn := 0#6 ++ o.hint.code } : ATF).bits)
  | .thintSlot o => some (.a, 0x009, ({ slot := o.slot, k := o.k, fn := if o.strm then 5 else 4 } : ATF).bits)
  | .twb o => some (.a, 0x00a, ({ slot := o.slot, k := o.k } : ATF).bits)
  | .twbSlot o => some (.a, 0x00a, ({ slot := o.slot, k := o.k, fn := 4 } : ATF).bits)
  | .tinv o => some (.a, 0x00b, ({ slot := o.slot, k := o.k } : ATF).bits)
  | .tinvSlot o => some (.a, 0x00b, ({ slot := o.slot, k := o.k, fn := 4 } : ATF).bits)
  | .tcopy o => some (.a, 0x00c, ({ slot := o.dslot, k := o.dk, imm := 0#13 ++ ofBool o.lu ++ ofBool o.peer.isSome ++ peerCode o.peer ++ o.sk ++ o.sslot } : ATF).bits)
  | .gset o => some (.a, 0x00d, ({ g := o.g, sa := o.sa, imm := o.imm } : ATF).bits)
  | .grun o => some (.a, 0x00e, ({ g := o.g, q := 0#1 ++ o.q, fn := 0#6 ++ ofBool o.cont ++ ofBool o.row } : ATF).bits)
  | .gsto o => some (.a, 0x00f, ({ g := o.g, q := 2#2 ++ o.w, fn := 0#6 ++ ofBool o.cont ++ ofBool o.row } : ATF).bits)
  | .gstop o => some (.a, 0x010, ({ g := o.g } : ATF).bits)
  | .qclr o => some (.a, 0x011, ({ q := o.q } : ATF).bits)
  | .ldx o => some (.a, 0x012, ({ i := o.i, sa := o.sa, sb := o.sb, imm := o.bound } : ATF).bits)
  | .ldxBt o => some (.a, 0x012, ({ i := o.i, sa := o.sa, sb := o.sb, imm := o.bound, fn := 0#6 ++ ofBool o.pos ++ 1#1 } : ATF).bits)
  | .gatherLin o => some (.a, 0x013, ({ g := o.g, i := o.i, q := 0#1 ++ o.q, sa := o.sa, sb := o.sb, ty := o.ty.code, fn := 0, imm := o.bytes.setWidth 32 } : ATF).bits)
  | .gatherPaged o => some (.a, 0x013, ({ g := o.g, i := o.i, q := 0#1 ++ o.q, sa := o.sa, sb := o.sb, ty := o.ty.code, fn := 1, imm := o.bytes.setWidth 32 } : ATF).bits)
  | .gatherIdx o => some (.a, 0x013, ({ g := o.g, i := o.i, q := 0#1 ++ o.q, ty := ETy.i32.code, fn := 2 } : ATF).bits)
  | .scatterLin o => some (.a, 0x014, ({ g := o.g, i := o.i, q := 2#2 ++ o.w, sa := o.sa, sb := o.sb, ty := o.ty.code, fn := 0, imm := o.bytes.setWidth 32 } : ATF).bits)
  | .scatterPaged o => some (.a, 0x014, ({ g := o.g, i := o.i, q := 2#2 ++ o.w, sa := o.sa, sb := o.sb, ty := o.ty.code, fn := 1, imm := o.bytes.setWidth 32 } : ATF).bits)
  | .tzero o => some (.a, 0x015, ({ slot := o.slot, k := o.k } : ATF).bits)
  | .syncF  => some (.f, 0x000, 0)
  | .rld o => some (.f, 0x001, ({ die := o.die, sa := o.sa, sc := o.sc, sd := o.sd, fn := memFn o.size o.ord o.scope, imm := o.imm, cls := clsCode o.adp } : FRF).bits)
  | .rst o => some (.f, 0x002, ({ die := o.die, sa := o.sa, sb := o.sb, sc := o.sc, fn := memFn o.size o.ord o.scope, imm := o.imm, cls := clsCode o.adp } : FRF).bits)
  | .ramo o => some (.f, 0x003, ({ die := o.die, sa := o.sa, sb := o.sb, sc := o.sc, sd := o.sd, fn := memFn o.size o.ord o.scope, imm := o.op.code.setWidth 24, cls := clsCode o.adp } : FRF).bits)
  | .rcas o => some (.f, 0x004, ({ die := o.die, sa := o.sa, sb := o.sb, sc := o.sc, sd := o.sd, fn := memFn o.size o.ord o.scope, cls := clsCode o.adp } : FRF).bits)
  | .rsig o => some (.f, 0x005, ({ die := o.die, sa := o.sa, sb := o.sb, sc := o.sc, tsem := o.sem, imm := o.inc.setWidth 24, cls := clsCode o.adp } : FRF).bits)
  | .rput o => some (.f, 0x006, ({ die := o.die, sa := o.sa, sb := o.sb, sc := o.sc, sd := o.sd, cls := clsCode o.adp } : FRF).bits)
  | .rget o => some (.f, 0x007, ({ die := o.die, sa := o.sa, sb := o.sb, sc := o.sc, sd := o.sd, cls := clsCode o.adp } : FRF).bits)
  | .grpset o => some (.f, 0x008, ({ sd := o.sd, sa := o.sa, imm := o.imm, fn := 0#4 ++ o.cg } : FRF).bits)
  | .grpstat o => some (.f, 0x009, ({ sd := o.sd, fn := 0#4 ++ o.cg } : FRF).bits)
  | .mldred o => some (.f, 0x00a, ({ sa := o.sa, sb := o.sb, fn := 0#4 ++ o.cg } : FRF).bits)
  | .mcast o => some (.f, 0x00b, ({ sa := o.sa, sb := o.sb, sd := o.sd, fn := 0#4 ++ o.cg, cls := clsCode o.adp } : FRF).bits)
  | .rfence  => some (.f, 0x00c, 0)
  | .rwait  => some (.f, 0x00d, 0)
  | .syncJ  => some (.j, 0x000, 0)
  | .jcopy o => some (.j, 0x001, ({ scard := o.scard, sd := o.sd, imm := o.imm } : JCF).bits)
  | .jfill o => some (.j, 0x002, ({ scard := o.scard, sd := o.sd, imm := o.imm } : JCF).bits)
  | .jsel o => some (.j, 0x003, ({ scard := o.scard, sd := o.sd, imm := o.imm } : JCF).bits)
  | .jpage o => some (.j, 0x004, ({ scard := o.scard, sd := o.sd, imm := o.imm } : JCF).bits)
  | .jspan o => some (.j, 0x005, ({ scard := o.scard, sd := o.sd, imm := o.imm } : JCF).bits)
  | .jcommit o => some (.j, 0x006, ({ scard := o.scard, sd := o.sd, imm := o.imm } : JCF).bits)
  | .jtag o => some (.j, 0x007, ({ scard := o.scard, sd := o.sd, imm := o.imm } : JCF).bits)
  | .jnode o => some (.j, 0x008, ({ scard := o.scard, sd := o.sd, sa := o.sa, imm := o.imm } : JCF).bits)
  | .jwait o => some (.j, 0x009, ({ sd := o.sd, sa := o.sa } : JCF).bits)
  | .jwaitAll o => some (.j, 0x009, ({ sd := o.sd, sa := o.sa, fn := 1 } : JCF).bits)
  | .jstat o => some (.j, 0x00a, ({ sd := o.sd, sa := o.sa } : JCF).bits)
  | .jcancel o => some (.j, 0x00b, ({ sd := o.sd, sa := o.sa } : JCF).bits)
  | .signalClause => none
  | .rsigArrival => none
  | .taskEnd => none
  | .replayExecute => none
  | .tileFill => none
  | .tileWriteBack => none
  | .causalWriteApply => none
  | .controlNodeWrite => none
  | .controlNodeRead => none
  | .mailboxCas => none
  | .copyJob => none
  | .fillJob => none
  | .selectJob => none
  | .pageJob => none
  | .tagJob => none
  | .spanKeep => none
  | .spanClose => none
  | .spanCloseRot => none
  | .commitJob => none
  | .commitRepair => none
  | .pendingFramePush => none
  | .generatorLoadEntry => none
  | .generatorStoreEntry => none
  | .versionReread => none
  | .remoteRequest => none
  | .remoteAck => none
  | .remoteTimeout => none
  | .deferredFailure => none
  | .contributionArrival => none
  | .episodeResult => none
  | .reduceTimeout => none
  | .leaseGrant => none
  | .leaseQuantumExpiry => none
  | .arrayLevelStep => none
  | .burstLapse => none
  | .rampDownStart => none
  | .recordFetch => none
  | .eventWaitResolve => none
  | .nodeDispatch => none
  | .waitMemoryPoll => none
  | .signalMemory => none
  | .fenceRecord => none
  | .nopRecord => none
  | .recordCompletion => none
  | .pendingLaunchEntry => none
  | .agingTimer => none
  | .quantumExpiry => none
  | .safePointStop => none
  | .preemptDeadline => none
  | .teamResume => none
  | .qcfgWrite => none
  | .wptrWrite => none
  | .registerWrite => none
  | .faultDelivery => none
  | .refusedAccessRetry => none
  | .packetRoute => none
  | .idleFlit => none
  | .linkSilence => none
  | .linkReplayLimit => none
  | .dieLost => none
  | .linkNoticeReceive => none
  | .pctlRetrain => none
  | .pctlDis => none
  | .linkTrainingDone => none
  | .fepochWrite => none
  | .windowTableWrite => none
  | .powerOn => none
  | .resetRequest => none
  | .firmwareFetchRetry => none
  | .firmwareImage => none
  | .attestationRequest => none
  | .sensorRefresh => none
  | .chronoExchange => none
  | .referenceLoss => none

/-- Bits [115:99] of a word: WE, WSEM, WTHR (R163). -/
def waitBits : Option WaitClause → BitVec 17
  | none => 0
  | some k => 1#1 ++ k.sem ++ k.thr

/-- Bits [98:84] of a word: SE, SSEM, SINC, SPT (R163). -/
def sigBits : Option SigClause → BitVec 15
  | none => 0
  | some k => 1#1 ++ k.sem ++ k.inc ++ k.pt.code

/-- The word of an instruction with its clauses (R163, R164); none for a row that is no word. -/
def encode (c : Clauses) (i : Instr) : Option IWord :=
  i.fields.map fun (e, op, body) => e.code ++ op ++ waitBits c.wait ++ sigBits c.sig ++ body

/-! ## Decoding -/

/-- The clauses of a word; none for SPT 11 (R163). -/
def clausesOf (w : IWord) : Option Clauses :=
  let wait := if w.getLsbD 115 then some ⟨w.extractLsb' 107 8, w.extractLsb' 99 8⟩ else none
  if w.getLsbD 98 then
    (SigPoint.ofCode (w.extractLsb' 84 2)).map fun p => ⟨wait, some ⟨w.extractLsb' 90 8, w.extractLsb' 86 4, p⟩⟩
  else some ⟨wait, none⟩

/-- The X words by opcode (R175). -/
def parseX (op : Nat) (body : BitVec 84) : Option Instr :=
  match op with
  | 0x000 => some .syncX
  | 0x001 => let f := XBF.of body; some (.br f.off)
  | 0x002 => let f := XBF.of body; (Cond.ofCode f.cond).map fun k => .brc ⟨f.sa, f.sb, k, f.off⟩
  | 0x003 => let f := XBF.of body; (PCond.ofCode f.cond).map fun k => .brp ⟨f.p, k, f.sb.getLsbD 0, f.off⟩
  | 0x004 => let f := XBF.of body; some (.call f.off)
  | 0x005 => some .ret
  | 0x006 => let f := XBF.of body; some (.loop ⟨f.sa, f.off⟩)
  | 0x007 => let f := XLF.of body; some (.loopm ⟨f.cnt, f.len, f.ii, f.stg, f.vstep, f.pstep, f.gp⟩)
  | 0x008 => let f := XBF.of body; some (.fork f.off)
  | 0x009 => some .rdv
  | 0x00a => some .exit
  | 0x00b => let f := XBF.of body; some (.winset ⟨f.sa, f.off⟩)
  | 0x00c => let f := XBF.of body; some (.brx ⟨f.sa, f.off, f.sb⟩)
  | 0x00d => some .fret
  | _ => none

/-- The S words by opcode (R175). -/
def parseS (op : Nat) (body : BitVec 84) : Option Instr :=
  match op with
  | 0x000 => some .syncS
  | 0x001 => let f := SRF.of body; some (.add ⟨f.d, f.a, f.b⟩)
  | 0x002 => let f := SRF.of body; some (.sub ⟨f.d, f.a, f.b⟩)
  | 0x003 => let f := SIF.of body; some (.addi ⟨f.d, f.a, f.imm⟩)
  | 0x004 => let f := SRF.of body; some (.mul ⟨f.d, f.a, f.b⟩)
  | 0x005 => let f := SRF.of body; some (.mulh ⟨f.d, f.a, f.b⟩)
  | 0x006 => let f := SRF.of body; some (.mulhn ⟨f.d, f.a, f.b⟩)
  | 0x007 => let f := SRF.of body; some (.div ⟨f.d, f.a, f.b⟩)
  | 0x008 => let f := SRF.of body; some (.divn ⟨f.d, f.a, f.b⟩)
  | 0x009 => let f := SRF.of body; some (.rem ⟨f.d, f.a, f.b⟩)
  | 0x00a => let f := SRF.of body; some (.remn ⟨f.d, f.a, f.b⟩)
  | 0x00b => let f := SRF.of body; some (.and ⟨f.d, f.a, f.b⟩)
  | 0x00c => let f := SRF.of body; some (.or ⟨f.d, f.a, f.b⟩)
  | 0x00d => let f := SRF.of body; some (.xor ⟨f.d, f.a, f.b⟩)
  | 0x00e => let f := SRF.of body; some (.andn ⟨f.d, f.a, f.b⟩)
  | 0x00f => let f := SRF.of body; some (.shl ⟨f.d, f.a, f.b⟩)
  | 0x010 => let f := SRF.of body; some (.shr ⟨f.d, f.a, f.b⟩)
  | 0x011 => let f := SRF.of body; some (.sra ⟨f.d, f.a, f.b⟩)
  | 0x012 => let f := SRF.of body; some (.rotr ⟨f.d, f.a, f.b⟩)
  | 0x013 => let f := SRF.of body; (Cond.ofCode (f.fn.extractLsb' 0 4)).map fun k => .cmp ⟨f.d, f.a, f.b, k⟩
  | 0x014 => let f := SRF.of body; some (.min ⟨f.d, f.a, f.b⟩)
  | 0x015 => let f := SRF.of body; some (.max ⟨f.d, f.a, f.b⟩)
  | 0x016 => let f := SRF.of body; some (.minn ⟨f.d, f.a, f.b⟩)
  | 0x017 => let f := SRF.of body; some (.maxn ⟨f.d, f.a, f.b⟩)
  | 0x018 => let f := SRF.of body; some (.sel ⟨f.d, f.a, f.b, f.c⟩)
  | 0x019 => let f := SRF.of body; some (.clz ⟨f.d, f.a⟩)
  | 0x01a => let f := SRF.of body; some (.ctz ⟨f.d, f.a⟩)
  | 0x01b => let f := SRF.of body; some (.popc ⟨f.d, f.a⟩)
  | 0x01c => let f := SRF.of body; some (.brev ⟨f.d, f.a⟩)
  | 0x01d => let f := SRF.of body; some (.bswap ⟨f.d, f.a⟩)
  | 0x01e => let f := SRF.of body; some (.extr ⟨f.d, f.a, f.b, f.c⟩)
  | 0x01f => let f := SRF.of body; some (.insr ⟨f.d, f.a, f.b, f.c⟩)
  | 0x020 => let f := SIF.of body; some (.movi ⟨f.d, f.imm⟩)
  | 0x021 => let f := SRF.of body; some (.mov ⟨f.d, f.a⟩)
  | 0x022 => let f := SRF.of body; (MSize.ofCode (f.fn.extractLsb' 5 3)).map fun z => .sext ⟨f.d, f.a, z⟩
  | 0x023 => let f := SRF.of body; (MSize.ofCode (f.fn.extractLsb' 5 3)).map fun z => .zext ⟨f.d, f.a, z⟩
  | 0x024 => let f := SRF.of body; some (.getl f.d)
  | 0x030 => let f := SIF.of body; (memFnOf f.fn).map fun m => .ld ⟨f.d, f.a, f.imm, m.1, m.2.1, m.2.2⟩
  | 0x031 => let f := SIF.of body; (memFnOf f.fn).map fun m => .st ⟨f.d, f.a, f.imm, m.1, m.2.1, m.2.2⟩
  | 0x032 => let f := SIF.of body; (memFnOf f.fn).map fun m => .lda ⟨f.d, f.a, f.imm, m.1, m.2.2⟩
  | 0x033 => let f := SIF.of body; (memFnOf f.fn).map fun m => .stl ⟨f.d, f.a, f.imm, m.1, m.2.2⟩
  | 0x034 => let f := SIF.of body; (memFnOf f.fn).map fun m => .ldnt ⟨f.d, f.a, f.imm, m.1, m.2.2⟩
  | 0x035 => let f := SIF.of body; some (.prefl ⟨f.a, f.imm⟩)
  | 0x040 => let f := SRF.of body; (memFnOf f.fn).map fun m => .amoadd ⟨f.d, f.a, f.b, m.1, m.2.1, m.2.2⟩
  | 0x041 => let f := SRF.of body; (memFnOf f.fn).map fun m => .amoand ⟨f.d, f.a, f.b, m.1, m.2.1, m.2.2⟩
  | 0x042 => let f := SRF.of body; (memFnOf f.fn).map fun m => .amoor ⟨f.d, f.a, f.b, m.1, m.2.1, m.2.2⟩
  | 0x043 => let f := SRF.of body; (memFnOf f.fn).map fun m => .amoxor ⟨f.d, f.a, f.b, m.1, m.2.1, m.2.2⟩
  | 0x044 => let f := SRF.of body; (memFnOf f.fn).map fun m => .amomin ⟨f.d, f.a, f.b, m.1, m.2.1, m.2.2⟩
  | 0x045 => let f := SRF.of body; (memFnOf f.fn).map fun m => .amomax ⟨f.d, f.a, f.b, m.1, m.2.1, m.2.2⟩
  | 0x046 => let f := SRF.of body; (memFnOf f.fn).map fun m => .amominn ⟨f.d, f.a, f.b, m.1, m.2.1, m.2.2⟩
  | 0x047 => let f := SRF.of body; (memFnOf f.fn).map fun m => .amomaxn ⟨f.d, f.a, f.b, m.1, m.2.1, m.2.2⟩
  | 0x048 => let f := SRF.of body; (memFnOf f.fn).map fun m => .amoswp ⟨f.d, f.a, f.b, m.1, m.2.1, m.2.2⟩
  | 0x049 => let f := SRF.of body; (memFnOf f.fn).map fun m => .cas ⟨f.d, f.a, f.b, f.c, m.1, m.2.1, m.2.2⟩
  | 0x04a => let f := SRF.of body; (memFnOf f.fn).map fun m => .cas2 ⟨f.d, f.a, f.b, f.c, m.2.1, m.2.2⟩
  | 0x04b => let f := SRF.of body; (memFnOf f.fn).map fun m => .amofadd ⟨f.d, f.a, f.b, m.1, m.2.1, m.2.2⟩
  | 0x050 =>
    let f := SRF.of body
    if f.fn.extractLsb' 3 2 == 0 then (memFnOf f.fn).map fun m => .fenceMca (m.2.2)
    else if f.fn.extractLsb' 3 2 == 1 then (memFnOf f.fn).map fun m => .fenceAcq (m.2.2)
    else if f.fn.extractLsb' 3 2 == 2 then (memFnOf f.fn).map fun m => .fenceRel (m.2.2)
    else if f.fn.extractLsb' 3 2 == 3 then (memFnOf f.fn).map fun m => .fenceFull (m.2.2)
    else none
  | 0x051 => let f := SRF.of body; some (.dcwb ⟨f.a, f.b⟩)
  | 0x052 => let f := SRF.of body; some (.dcinv ⟨f.a, f.b⟩)
  | 0x053 => let f := SRF.of body; some (.iinv ⟨f.a, f.b, f.fn.getLsbD 0⟩)
  | 0x054 => some .fetchb
  | 0x060 => let f := SIF.of body; some (.semsig ⟨f.imm.extractLsb' 0 8, f.a, f.imm.extractLsb' 8 16⟩)
  | 0x061 => let f := SIF.of body; some (.semwait ⟨f.imm.extractLsb' 0 8, f.a, f.imm.extractLsb' 8 8⟩)
  | 0x062 => let f := SIF.of body; some (.semget ⟨f.d, f.imm.extractLsb' 0 8⟩)
  | 0x063 => let f := SIF.of body; some (.semset ⟨f.imm.extractLsb' 0 8, f.a, f.imm.extractLsb' 8 16⟩)
  | 0x064 => let f := SIF.of body; some (.evset ⟨f.a, f.imm.extractLsb' 0 8⟩)
  | 0x065 => let f := SIF.of body; some (.evclr ⟨f.a, f.imm.extractLsb' 0 8⟩)
  | 0x066 => let f := SIF.of body; some (.evwait ⟨f.a, f.imm.extractLsb' 0 8⟩)
  | 0x067 =>
    let f := SIF.of body
    if f.imm.extractLsb' 0 2 == 0 then some .barTeam
    else if f.imm.extractLsb' 0 2 == 1 then some .barDie
    else if f.imm.extractLsb' 0 2 == 2 then some .barModule
    else if f.imm.extractLsb' 0 2 == 3 then some .barDomain
    else none
  | 0x068 => some .yield
  | 0x069 => let f := SIF.of body; some (.launch ⟨f.d, f.a, f.imm⟩)
  | 0x06a => let f := SIF.of body; some (.lstat ⟨f.d, f.a⟩)
  | 0x070 => let f := SRF.of body; some (.kset ⟨f.d.setWidth 5, f.a, f.b⟩)
  | 0x071 => let f := SRF.of body; some (.kadd ⟨f.d.setWidth 5, f.a.setWidth 5, f.b, f.c⟩)
  | 0x072 =>
    let f := SRF.of body
    if f.fn == 0 then some (.kgetLo ⟨f.d, f.a.setWidth 5⟩)
    else if f.fn == 1 then some (.kgetHi ⟨f.d, f.a.setWidth 5⟩)
    else none
  | 0x080 => let f := SIF.of body; (Csr.ofCode (f.imm.extractLsb' 0 12)).map fun k => .csrr ⟨f.d, k⟩
  | 0x081 => let f := SIF.of body; (Csr.ofCode (f.imm.extractLsb' 0 12)).map fun k => .csrw ⟨f.a, k⟩
  | 0x082 => let f := SIF.of body; some (.chron f.d)
  | 0x083 => let f := SIF.of body; some (.trap (f.imm.extractLsb' 0 16))
  | 0x084 => let f := SIF.of body; some (.brk (f.imm.extractLsb' 0 16))
  | 0x0c0 => let f := SRF.of body; some (.csrrp ⟨f.d, f.a⟩)
  | 0x0c1 => let f := SRF.of body; some (.csrwp ⟨f.d, f.a, f.b⟩)
  | 0x0c2 => let f := SRF.of body; some (.resume ⟨f.d, f.a⟩)
  | 0x0c3 => let f := SRF.of body; some (.harvest ⟨f.d, f.a, f.b, f.c⟩)
  | 0x0c4 =>
    let f := SRF.of body
    if f.fn == 0 then some (.tlbinvRange ⟨f.a, f.b, f.c⟩)
    else if f.fn == 1 then some (.tlbinvAsid f.a)
    else if f.fn == 2 then some .tlbinvAll
    else none
  | 0x0c5 => let f := SRF.of body; some (.killtask ⟨f.d, f.a⟩)
  | _ => none

/-- The V words by opcode (R175). -/
def parseV (op : Nat) (body : BitVec 84) : Option Instr :=
  match op with
  | 0x000 => some .syncV
  | 0x010 => let f := VRF.of body; do pure (.vfadd ⟨← VDst.of f.d, ← VSrc.of f.a, ← VSrc.of f.b, f.pred, ← ETy.ofCode f.ty, ← Rnd.ofCode f.rnd, f.sat == 1⟩)
  | 0x011 => let f := VRF.of body; do pure (.vfsub ⟨← VDst.of f.d, ← VSrc.of f.a, ← VSrc.of f.b, f.pred, ← ETy.ofCode f.ty, ← Rnd.ofCode f.rnd, f.sat == 1⟩)
  | 0x012 => let f := VRF.of body; do pure (.vfmul ⟨← VDst.of f.d, ← VSrc.of f.a, ← VSrc.of f.b, f.pred, ← ETy.ofCode f.ty, ← Rnd.ofCode f.rnd, f.sat == 1⟩)
  | 0x013 => let f := VRF.of body; do pure (.vfmulz ⟨← VDst.of f.d, ← VSrc.of f.a, ← VSrc.of f.b, f.pred, ← ETy.ofCode f.ty, ← Rnd.ofCode f.rnd, f.sat == 1⟩)
  | 0x014 => let f := VRF.of body; do pure (.vfma ⟨← VDst.of f.d, ← VSrc.of f.a, ← VSrc.of f.b, ← VSrc.of f.c, f.pred, ← ETy.ofCode f.ty, ← Rnd.ofCode f.rnd, f.sat == 1⟩)
  | 0x015 => let f := VRF.of body; do pure (.vfmaz ⟨← VDst.of f.d, ← VSrc.of f.a, ← VSrc.of f.b, ← VSrc.of f.c, f.pred, ← ETy.ofCode f.ty, ← Rnd.ofCode f.rnd, f.sat == 1⟩)
  | 0x016 => let f := VRF.of body; do pure (.vfms ⟨← VDst.of f.d, ← VSrc.of f.a, ← VSrc.of f.b, ← VSrc.of f.c, f.pred, ← ETy.ofCode f.ty, ← Rnd.ofCode f.rnd, f.sat == 1⟩)
  | 0x017 => let f := VRF.of body; do pure (.vfnma ⟨← VDst.of f.d, ← VSrc.of f.a, ← VSrc.of f.b, ← VSrc.of f.c, f.pred, ← ETy.ofCode f.ty, ← Rnd.ofCode f.rnd, f.sat == 1⟩)
  | 0x018 => let f := VRF.of body; do pure (.vfmin ⟨← VDst.of f.d, ← VSrc.of f.a, ← VSrc.of f.b, f.pred, ← ETy.ofCode f.ty⟩)
  | 0x019 => let f := VRF.of body; do pure (.vfmax ⟨← VDst.of f.d, ← VSrc.of f.a, ← VSrc.of f.b, f.pred, ← ETy.ofCode f.ty⟩)
  | 0x01a => let f := VRF.of body; do pure (.vfabs ⟨← VDst.of f.d, ← VSrc.of f.a, f.pred, ← ETy.ofCode f.ty⟩)
  | 0x01b => let f := VRF.of body; do pure (.vfneg ⟨← VDst.of f.d, ← VSrc.of f.a, f.pred, ← ETy.ofCode f.ty⟩)
  | 0x01c => let f := VRF.of body; do pure (.vfcpsgn ⟨← VDst.of f.d, ← VSrc.of f.a, ← VSrc.of f.b, f.pred, ← ETy.ofCode f.ty⟩)
  | 0x01d => let f := VRF.of body; do pure (.vfdiv ⟨← VDst.of f.d, ← VSrc.of f.a, ← VSrc.of f.b, f.pred, ← ETy.ofCode f.ty, ← Rnd.ofCode f.rnd, f.sat == 1⟩)
  | 0x01e => let f := VRF.of body; do pure (.vfsqrt ⟨← VDst.of f.d, ← VSrc.of f.a, f.pred, ← ETy.ofCode f.ty, ← Rnd.ofCode f.rnd, f.sat == 1⟩)
  | 0x01f => let f := VRF.of body; do pure (.vfrcp ⟨← VDst.of f.d, ← VSrc.of f.a, f.pred, ← ETy.ofCode f.ty, f.rnd⟩)
  | 0x020 => let f := VRF.of body; do pure (.vfrsq ⟨← VDst.of f.d, ← VSrc.of f.a, f.pred, ← ETy.ofCode f.ty, f.rnd⟩)
  | 0x021 => let f := VRF.of body; do pure (.vfexp2 ⟨← VDst.of f.d, ← VSrc.of f.a, f.pred, ← ETy.ofCode f.ty, f.rnd⟩)
  | 0x022 => let f := VRF.of body; do pure (.vflog2 ⟨← VDst.of f.d, ← VSrc.of f.a, f.pred, ← ETy.ofCode f.ty, f.rnd⟩)
  | 0x023 => let f := VRF.of body; do pure (.vfsin ⟨← VDst.of f.d, ← VSrc.of f.a, f.pred, ← ETy.ofCode f.ty, f.rnd⟩)
  | 0x024 => let f := VRF.of body; do pure (.vfcos ⟨← VDst.of f.d, ← VSrc.of f.a, f.pred, ← ETy.ofCode f.ty, f.rnd⟩)
  | 0x025 => let f := VRF.of body; do pure (.vftanh ⟨← VDst.of f.d, ← VSrc.of f.a, f.pred, ← ETy.ofCode f.ty, f.rnd⟩)
  | 0x026 => let f := VRF.of body; do pure (.vfcmp ⟨f.d.setWidth 6, ← VSrc.of f.a, ← VSrc.of f.b, f.pred, ← ETy.ofCode f.ty, ← FCmp.ofCode f.sub⟩)
  | 0x027 => let f := VRF.of body; do pure (.vfclass ⟨← VDst.of f.d, ← VSrc.of f.a, f.pred, ← ETy.ofCode f.ty⟩)
  | 0x028 => let f := VRF.of body; do pure (.vfrnd ⟨← VDst.of f.d, ← VSrc.of f.a, f.pred, ← ETy.ofCode f.ty, ← Rnd.ofCode f.rnd⟩)
  | 0x030 => let f := VRF.of body; do pure (.vadd ⟨← VDst.of f.d, ← VSrc.of f.a, ← VSrc.of f.b, f.pred, ← ETy.ofCode f.ty⟩)
  | 0x031 => let f := VRF.of body; do pure (.vsub ⟨← VDst.of f.d, ← VSrc.of f.a, ← VSrc.of f.b, f.pred, ← ETy.ofCode f.ty⟩)
  | 0x032 => let f := VRF.of body; do pure (.vadds ⟨← VDst.of f.d, ← VSrc.of f.a, ← VSrc.of f.b, f.pred, ← ETy.ofCode f.ty⟩)
  | 0x033 => let f := VRF.of body; do pure (.vsubs ⟨← VDst.of f.d, ← VSrc.of f.a, ← VSrc.of f.b, f.pred, ← ETy.ofCode f.ty⟩)
  | 0x034 => let f := VRF.of body; do pure (.vmul ⟨← VDst.of f.d, ← VSrc.of f.a, ← VSrc.of f.b, f.pred, ← ETy.ofCode f.ty⟩)
  | 0x035 => let f := VRF.of body; do pure (.vmulh ⟨← VDst.of f.d, ← VSrc.of f.a, ← VSrc.of f.b, f.pred, ← ETy.ofCode f.ty⟩)
  | 0x036 => let f := VRF.of body; do pure (.vmin ⟨← VDst.of f.d, ← VSrc.of f.a, ← VSrc.of f.b, f.pred, ← ETy.ofCode f.ty⟩)
  | 0x037 => let f := VRF.of body; do pure (.vmax ⟨← VDst.of f.d, ← VSrc.of f.a, ← VSrc.of f.b, f.pred, ← ETy.ofCode f.ty⟩)
  | 0x038 => let f := VRF.of body; do pure (.vand ⟨← VDst.of f.d, ← VSrc.of f.a, ← VSrc.of f.b, f.pred, ← ETy.ofCode f.ty⟩)
  | 0x039 => let f := VRF.of body; do pure (.vor ⟨← VDst.of f.d, ← VSrc.of f.a, ← VSrc.of f.b, f.pred, ← ETy.ofCode f.ty⟩)
  | 0x03a => let f := VRF.of body; do pure (.vxor ⟨← VDst.of f.d, ← VSrc.of f.a, ← VSrc.of f.b, f.pred, ← ETy.ofCode f.ty⟩)
  | 0x03b =>
    let f := VRF.of body
    if f.sub == 0 then do pure (.vshl ⟨← VDst.of f.d, ← VSrc.of f.a, ← VSrc.of f.b, f.pred, ← ETy.ofCode f.ty⟩)
    else if f.sub == 1 then do pure (.vshlImm ⟨← VDst.of f.d, ← VSrc.of f.a, f.pred, ← ETy.ofCode f.ty, f.imm⟩)
    else none
  | 0x03c =>
    let f := VRF.of body
    if f.sub == 0 then do pure (.vshr ⟨← VDst.of f.d, ← VSrc.of f.a, ← VSrc.of f.b, f.pred, ← ETy.ofCode f.ty⟩)
    else if f.sub == 1 then do pure (.vshrImm ⟨← VDst.of f.d, ← VSrc.of f.a, f.pred, ← ETy.ofCode f.ty, f.imm⟩)
    else none
  | 0x03d =>
    let f := VRF.of body
    if f.sub == 0 then do pure (.vsra ⟨← VDst.of f.d, ← VSrc.of f.a, ← VSrc.of f.b, f.pred, ← ETy.ofCode f.ty⟩)
    else if f.sub == 1 then do pure (.vsraImm ⟨← VDst.of f.d, ← VSrc.of f.a, f.pred, ← ETy.ofCode f.ty, f.imm⟩)
    else none
  | 0x03e => let f := VRF.of body; do pure (.vcmp ⟨f.d.setWidth 6, ← VSrc.of f.a, ← VSrc.of f.b, f.pred, ← ETy.ofCode f.ty, ← ICmp.ofCode f.sub⟩)
  | 0x03f => let f := VRF.of body; do pure (.vabs ⟨← VDst.of f.d, ← VSrc.of f.a, f.pred, ← ETy.ofCode f.ty⟩)
  | 0x040 => let f := VRF.of body; do pure (.vclz ⟨← VDst.of f.d, ← VSrc.of f.a, f.pred, ← ETy.ofCode f.ty⟩)
  | 0x041 => let f := VRF.of body; do pure (.vpopc ⟨← VDst.of f.d, ← VSrc.of f.a, f.pred, ← ETy.ofCode f.ty⟩)
  | 0x050 => let f := VRF.of body; do pure (.vcvt ⟨← VDst.of f.d, ← VSrc.of f.a, f.pred, ← ETy.ofCode f.ty, ← ETy.ofCode (f.imm.extractLsb' 0 5), ← Rnd.ofCode f.rnd, f.sat == 1, f.sub.extractLsb' 0 3⟩)
  | 0x051 => let f := VRF.of body; do pure (.vpack ⟨← VDst.of f.d, ← VSrc.of f.a, ← VSrc.of f.b, f.pred, ← ETy.ofCode f.ty, ← ETy.ofCode (f.imm.extractLsb' 0 5), ← Rnd.ofCode f.rnd, f.sat == 1⟩)
  | 0x052 => let f := VRF.of body; do pure (.vunpk ⟨← VDst.of f.d, ← VSrc.of f.a, f.pred, ← ETy.ofCode f.ty, ← ETy.ofCode (f.imm.extractLsb' 0 5), ← Rnd.ofCode f.rnd, f.sat == 1⟩)
  | 0x053 => let f := VRF.of body; do pure (.vqnt ⟨← VDst.of f.d, ← VSrc.of f.a, f.b, ← ETy.ofCode f.ty, ← ETy.ofCode (f.imm.extractLsb' 0 5), ← Rnd.ofCode f.rnd, f.sub.extractLsb' 0 3⟩)
  | 0x054 =>
    let f := VRF.of body
    if f.sub == 0 then do pure (.vscl ⟨← VDst.of f.d, ← VSrc.of f.a, ← VSrc.of f.b, f.pred, ← ETy.ofCode f.ty, ← Rnd.ofCode f.rnd, f.sat == 1⟩)
    else if f.sub == 1 then do pure (.vsclImm ⟨← VDst.of f.d, ← VSrc.of f.a, f.pred, ← ETy.ofCode f.ty, ← Rnd.ofCode f.rnd, f.sat == 1, f.imm⟩)
    else none
  | 0x060 => let f := VRF.of body; do pure (.vmov ⟨← VDst.of f.d, ← VSrc.of f.a, f.pred, ← ETy.ofCode f.ty⟩)
  | 0x061 => let f := VIF.of body; do pure (.vmovi ⟨← VDst.of f.d, ← ETy.ofCode f.ty, f.p, f.imm⟩)
  | 0x062 => let f := VRF.of body; do pure (.vsel ⟨← VDst.of f.d, ← VSrc.of f.a, ← VSrc.of f.b, f.p, ← ETy.ofCode f.ty⟩)
  | 0x063 => let f := VRF.of body; do pure (.vperm ⟨← VDst.of f.d, ← VSrc.of f.a, ← VSrc.of f.b, ← VSrc.of f.c, f.pred, ← ETy.ofCode f.ty⟩)
  | 0x064 => let f := VRF.of body; do pure (.vshuf ⟨← VDst.of f.d, ← VSrc.of f.a, ← VSrc.of f.b, f.pred, ← ETy.ofCode f.ty, ← ShufPat.ofCode f.sub⟩)
  | 0x065 => let f := VRF.of body; do pure (.vrot ⟨← VDst.of f.d, ← VSrc.of f.a, f.pred, ← ETy.ofCode f.ty, f.imm⟩)
  | 0x066 => let f := VRF.of body; do pure (.vslide ⟨← VDst.of f.d, ← VSrc.of f.a, ← VSrc.of f.b, f.pred, ← ETy.ofCode f.ty, f.imm⟩)
  | 0x067 =>
    let f := VRF.of body
    if f.sub == 0 then do pure (.vbcast ⟨← VDst.of f.d, ← VSrc.of f.a, f.pred, ← ETy.ofCode f.ty, f.imm⟩)
    else if f.sub == 1 then do pure (.vbcastScalar ⟨← VDst.of f.d, f.a.setWidth 6, f.pred, ← ETy.ofCode f.ty⟩)
    else none
  | 0x068 => let f := VRF.of body; do pure (.vsetl ⟨f.d, f.a.setWidth 6, ← ETy.ofCode f.ty, f.imm⟩)
  | 0x069 => let f := VRF.of body; do pure (.vtpose ⟨f.d, f.a, ← ETy.ofCode f.ty⟩)
  | 0x06a =>
    let f := VRF.of body
    if f.sub == 0 then do pure (.viota ⟨← VDst.of f.d, f.pred, ← ETy.ofCode f.ty, f.imm⟩)
    else if f.sub == 1 then do pure (.viotaCnt ⟨← VDst.of f.d, f.pred, ← ETy.ofCode f.ty, f.imm⟩)
    else none
  | 0x06b => let f := VRF.of body; do pure (.vcompr ⟨← VDst.of f.d, ← VSrc.of f.a, f.p, ← ETy.ofCode f.ty⟩)
  | 0x06c => let f := VRF.of body; do pure (.vexpnd ⟨← VDst.of f.d, ← VSrc.of f.a, f.pred, ← ETy.ofCode f.ty⟩)
  | 0x080 => let f := VRF.of body; do pure (.vrsum ⟨← VDst.of f.d, ← VSrc.of f.a, f.p, ← ETy.ofCode f.ty, ← Rnd.ofCode f.rnd⟩)
  | 0x081 => let f := VRF.of body; do pure (.vrmax ⟨← VDst.of f.d, ← VSrc.of f.a, f.p, ← ETy.ofCode f.ty, ← Rnd.ofCode f.rnd⟩)
  | 0x082 => let f := VRF.of body; do pure (.vrmin ⟨← VDst.of f.d, ← VSrc.of f.a, f.p, ← ETy.ofCode f.ty, ← Rnd.ofCode f.rnd⟩)
  | 0x083 => let f := VRF.of body; do pure (.vramax ⟨← VDst.of f.d, ← VSrc.of f.a, f.p, ← ETy.ofCode f.ty, ← Rnd.ofCode f.rnd⟩)
  | 0x084 => let f := VRF.of body; do pure (.vscan ⟨← VDst.of f.d, ← VSrc.of f.a, f.pred, ← ETy.ofCode f.ty, ← Rnd.ofCode f.rnd⟩)
  | 0x085 => let f := VRF.of body; do pure (.vrsumw ⟨← VDst.of f.d, ← VSrc.of f.a, f.p, ← ETy.ofCode f.ty, ← Rnd.ofCode f.rnd⟩)
  | 0x090 => let f := VRF.of body; do pure (.pand ⟨f.d.setWidth 6, f.a.setWidth 6, f.b.setWidth 6⟩)
  | 0x091 => let f := VRF.of body; do pure (.por ⟨f.d.setWidth 6, f.a.setWidth 6, f.b.setWidth 6⟩)
  | 0x092 => let f := VRF.of body; do pure (.pxor ⟨f.d.setWidth 6, f.a.setWidth 6, f.b.setWidth 6⟩)
  | 0x093 => let f := VRF.of body; do pure (.pnot ⟨f.d.setWidth 6, f.a.setWidth 6⟩)
  | 0x094 => let f := VRF.of body; do pure (.pmov ⟨f.d.setWidth 6, f.a.setWidth 6⟩)
  | 0x095 => let f := VRF.of body; do pure (.pset ⟨f.d.setWidth 6, ← ETy.ofCode f.ty, ← PsetPat.ofCode f.sub, f.imm.extractLsb' 0 10⟩)
  | 0x096 => let f := VRF.of body; do pure (.pfirst ⟨f.d.setWidth 6, f.a.setWidth 6, ← ETy.ofCode f.ty⟩)
  | _ => none

/-- The M words by opcode (R175). -/
def parseM (op : Nat) (body : BitVec 84) : Option Instr :=
  match op with
  | 0x000 => some .syncM
  | 0x001 => some .lease
  | 0x002 => some .lrel
  | 0x003 => let f := MTF.of body; some (.accz ⟨f.acc⟩)
  | 0x004 => let f := MTF.of body; do pure (.accld ⟨f.acc, f.tileA, ← ETy.ofCode f.aty, ← ETy.ofCode f.bty, f.kb⟩)
  | 0x005 => let f := MTF.of body; do pure (.accst ⟨f.acc, f.aslot, f.ak, ← ETy.ofCode f.aty, ← ETy.ofCode f.bty, f.kb, ← Rnd.ofCode f.rnd, f.sat == 1, f.blu == 1⟩)
  | 0x006 => let f := MTF.of body; do pure (.mma ⟨f.acc, f.tileA, f.tileB, ← ETy.ofCode f.aty, ← ETy.ofCode f.bty, f.kb⟩)
  | 0x007 => let f := MTF.of body; do pure (.attq ⟨f.acc, f.tileA, f.bk, ← ETy.ofCode f.aty, f.kb⟩)
  | 0x008 => let f := MTF.of body; do pure (.attkv ⟨f.acc, f.tileA, f.tileB, ← ETy.ofCode f.aty, ← ETy.ofCode f.bty, f.kb⟩)
  | 0x009 => let f := MTF.of body; some (.attfin ⟨f.acc⟩)
  | 0x00a => let f := MTF.of body; do pure (.attst ⟨f.acc, f.aslot, f.ak, f.bslot, f.bk, ← ETy.ofCode f.aty, f.kb, ← Rnd.ofCode f.rnd, f.sat == 1⟩)
  | 0x00b => let f := MTF.of body; do pure (.attmrg ⟨f.acc, f.tileA, f.tileB, ← ETy.ofCode f.aty, f.kb⟩)
  | 0x00c =>
    let f := MTF.of body
    if f.blu == 1 then some .mburstStart
    else if f.blu == 0 then some .mburstEnd
    else none
  | 0x00d => let f := MTF.of body; some (.mstat ⟨f.rnd.setWidth 1 ++ f.sat ++ f.apv ++ f.bpv ++ f.alu ++ f.blu⟩)
  | _ => none

/-- The A words by opcode (R175). -/
def parseA (op : Nat) (body : BitVec 84) : Option Instr :=
  match op with
  | 0x000 => some .syncA
  | 0x001 => let f := ATF.of body; some (.tbind ⟨f.slot, f.sa, f.imm⟩)
  | 0x002 => let f := ATF.of body; some (.tunb ⟨f.slot⟩)
  | 0x003 => let f := ATF.of body; do pure (.tvacq ⟨f.slot, f.sa, f.imm, ← Scope.ofCode (f.fn.extractLsb' 0 3)⟩)
  | 0x004 => let f := ATF.of body; do pure (.tvbump ⟨f.slot, ← Scope.ofCode (f.fn.extractLsb' 0 3)⟩)
  | 0x005 => let f := ATF.of body; some (.tfill ⟨f.slot, f.k⟩)
  | 0x006 => let f := ATF.of body; some (.tpref ⟨f.slot, f.sa, f.fn.extractLsb' 0 6, f.imm⟩)
  | 0x007 => let f := ATF.of body; some (.tpin ⟨f.slot, f.k, f.sa, f.imm⟩)
  | 0x008 =>
    let f := ATF.of body
    if f.fn == 0 then some (.tunpin ⟨f.slot, f.k⟩)
    else if f.fn == 4 then some (.tunpinSlot ⟨f.slot, f.k⟩)
    else none
  | 0x009 =>
    let f := ATF.of body
    if !f.fn.getLsbD 2 then do pure (.thint ⟨f.slot, f.k, ← Hint.ofCode (f.fn.extractLsb' 0 2)⟩)
    else if f.fn.getLsbD 2 then some (.thintSlot ⟨f.slot, f.k, f.fn.getLsbD 0⟩)
    else none
  | 0x00a =>
    let f := ATF.of body
    if f.fn == 0 then some (.twb ⟨f.slot, f.k⟩)
    else if f.fn == 4 then some (.twbSlot ⟨f.slot, f.k⟩)
    else none
  | 0x00b =>
    let f := ATF.of body
    if f.fn == 0 then some (.tinv ⟨f.slot, f.k⟩)
    else if f.fn == 4 then some (.tinvSlot ⟨f.slot, f.k⟩)
    else none
  | 0x00c => let f := ATF.of body; some (.tcopy ⟨f.slot, f.k, f.imm.extractLsb' 0 10, f.imm.extractLsb' 10 5, peerOf (f.imm.extractLsb' 17 1) (f.imm.extractLsb' 15 2), f.imm.getLsbD 18⟩)
  | 0x00d => let f := ATF.of body; some (.gset ⟨f.g, f.sa, f.imm⟩)
  | 0x00e => let f := ATF.of body; some (.grun ⟨f.g, f.q.setWidth 3, f.fn.getLsbD 0, f.fn.getLsbD 1⟩)
  | 0x00f => let f := ATF.of body; some (.gsto ⟨f.g, f.q.setWidth 2, f.fn.getLsbD 0, f.fn.getLsbD 1⟩)
  | 0x010 => let f := ATF.of body; some (.gstop ⟨f.g⟩)
  | 0x011 => let f := ATF.of body; some (.qclr ⟨f.q⟩)
  | 0x012 =>
    let f := ATF.of body
    if f.fn == 0 then some (.ldx ⟨f.i, f.sa, f.sb, f.imm⟩)
    else if f.fn.getLsbD 0 then some (.ldxBt ⟨f.i, f.sa, f.sb, f.imm, f.fn.getLsbD 1⟩)
    else none
  | 0x013 =>
    let f := ATF.of body
    if f.fn == 0 then do pure (.gatherLin ⟨f.g, f.i, f.q.setWidth 3, f.sa, f.sb, ← ETy.ofCode f.ty, f.imm.setWidth 9⟩)
    else if f.fn == 1 then do pure (.gatherPaged ⟨f.g, f.i, f.q.setWidth 3, f.sa, f.sb, ← ETy.ofCode f.ty, f.imm.setWidth 9⟩)
    else if f.fn == 2 then some (.gatherIdx ⟨f.g, f.i, f.q.setWidth 3⟩)
    else none
  | 0x014 =>
    let f := ATF.of body
    if f.fn == 0 then do pure (.scatterLin ⟨f.g, f.i, f.q.setWidth 2, f.sa, f.sb, ← ETy.ofCode f.ty, f.imm.setWidth 9⟩)
    else if f.fn == 1 then do pure (.scatterPaged ⟨f.g, f.i, f.q.setWidth 2, f.sa, f.sb, ← ETy.ofCode f.ty, f.imm.setWidth 9⟩)
    else none
  | 0x015 => let f := ATF.of body; some (.tzero ⟨f.slot, f.k⟩)
  | _ => none

/-- The F words by opcode (R175). -/
def parseF (op : Nat) (body : BitVec 84) : Option Instr :=
  match op with
  | 0x000 => some .syncF
  | 0x001 => let f := FRF.of body; do let o : RldOp ← (do let m ← memFnOf f.fn; pure ⟨f.die, f.sa, f.sc, f.sd, f.imm, m.1, m.2.1, m.2.2, f.cls == 1⟩); pure (.rld o)
  | 0x002 => let f := FRF.of body; do let o : RstOp ← (do let m ← memFnOf f.fn; pure ⟨f.die, f.sa, f.sb, f.sc, f.imm, m.1, m.2.1, m.2.2, f.cls == 1⟩); pure (.rst o)
  | 0x003 => let f := FRF.of body; do let o : RamoOp ← (do let m ← memFnOf f.fn; pure ⟨← AmoOp.ofCode (f.imm.extractLsb' 0 4), f.die, f.sa, f.sb, f.sc, f.sd, m.1, m.2.1, m.2.2, f.cls == 1⟩); pure (.ramo o)
  | 0x004 => let f := FRF.of body; do let o : RcasOp ← (do let m ← memFnOf f.fn; pure ⟨f.die, f.sa, f.sb, f.sc, f.sd, m.1, m.2.1, m.2.2, f.cls == 1⟩); pure (.rcas o)
  | 0x005 => let f := FRF.of body; some (.rsig ⟨f.die, f.sa, f.sb, f.sc, f.tsem, f.imm.setWidth 16, f.cls == 1⟩)
  | 0x006 => let f := FRF.of body; some (.rput ⟨f.die, f.sa, f.sb, f.sc, f.sd, f.cls == 1⟩)
  | 0x007 => let f := FRF.of body; some (.rget ⟨f.die, f.sa, f.sb, f.sc, f.sd, f.cls == 1⟩)
  | 0x008 => let f := FRF.of body; some (.grpset ⟨f.sd, f.sa, f.imm, f.fn.setWidth 4⟩)
  | 0x009 => let f := FRF.of body; some (.grpstat ⟨f.sd, f.fn.setWidth 4⟩)
  | 0x00a => let f := FRF.of body; some (.mldred ⟨f.sa, f.sb, f.fn.setWidth 4⟩)
  | 0x00b => let f := FRF.of body; some (.mcast ⟨f.sa, f.sb, f.sd, f.fn.setWidth 4, f.cls == 1⟩)
  | 0x00c => some .rfence
  | 0x00d => some .rwait
  | _ => none

/-- The J words by opcode (R175). -/
def parseJ (op : Nat) (body : BitVec 84) : Option Instr :=
  match op with
  | 0x000 => some .syncJ
  | 0x001 => let f := JCF.of body; some (.jcopy ⟨f.scard, f.sd, f.imm⟩)
  | 0x002 => let f := JCF.of body; some (.jfill ⟨f.scard, f.sd, f.imm⟩)
  | 0x003 => let f := JCF.of body; some (.jsel ⟨f.scard, f.sd, f.imm⟩)
  | 0x004 => let f := JCF.of body; some (.jpage ⟨f.scard, f.sd, f.imm⟩)
  | 0x005 => let f := JCF.of body; some (.jspan ⟨f.scard, f.sd, f.imm⟩)
  | 0x006 => let f := JCF.of body; some (.jcommit ⟨f.scard, f.sd, f.imm⟩)
  | 0x007 => let f := JCF.of body; some (.jtag ⟨f.scard, f.sd, f.imm⟩)
  | 0x008 => let f := JCF.of body; some (.jnode ⟨f.scard, f.sd, f.sa, f.imm⟩)
  | 0x009 =>
    let f := JCF.of body
    if f.fn == 0 then some (.jwait ⟨f.sd, f.sa⟩)
    else if f.fn == 1 then some (.jwaitAll ⟨f.sd, f.sa⟩)
    else none
  | 0x00a => let f := JCF.of body; some (.jstat ⟨f.sd, f.sa⟩)
  | 0x00b => let f := JCF.of body; some (.jcancel ⟨f.sd, f.sa⟩)
  | _ => none

/-- The opcode groups of R175. -/
def opDefined (e : Eng) (n : Nat) : Bool :=
  match e with
  | .x => (0x0 ≤ n && n ≤ 0xd)
  | .s => n == 0x0 || (0x1 ≤ n && n ≤ 0x24) || (0x30 ≤ n && n ≤ 0x35) || (0x40 ≤ n && n ≤ 0x4b) || (0x50 ≤ n && n ≤ 0x54) || (0x60 ≤ n && n ≤ 0x6a) || (0x70 ≤ n && n ≤ 0x72) || (0x80 ≤ n && n ≤ 0x84) || (0xc0 ≤ n && n ≤ 0xc5)
  | .v => n == 0x0 || (0x10 ≤ n && n ≤ 0x28) || (0x30 ≤ n && n ≤ 0x41) || (0x50 ≤ n && n ≤ 0x54) || (0x60 ≤ n && n ≤ 0x6c) || (0x80 ≤ n && n ≤ 0x85) || (0x90 ≤ n && n ≤ 0x96)
  | .m => (0x0 ≤ n && n ≤ 0xd)
  | .a => (0x0 ≤ n && n ≤ 0x15)
  | .f => (0x0 ≤ n && n ≤ 0xd)
  | .j => (0x0 ≤ n && n ≤ 0xb)

/-- A source specifier that R172 reserves. -/
def badSrc (n : BitVec 10) : Bool := (VSrc.of n).isNone
/-- A destination specifier that R172 reserves. -/
def badDst (n : BitVec 10) : Bool := (VDst.of n).isNone
/-- A specifier that must name a register (R246, R253, R254). -/
def badReg (n : BitVec 10) : Bool := 768 ≤ n

/-- Whether a V word names a reserved specifier, or a queue where its entry takes none (R172, R246, R253, R254).
The a field of the scalar form of VBCAST is no specifier, and shifts, VSCL and VIOTA with an immediate have no b. Where SUB itself is
reserved (2 or above) R176 does not say whether b, or a of VBCAST, is then a specifier: the model takes it as none, and such a word
gives RESERVED_FIELD. (log 78 DESIGN CHOICE) A reserved
specifier in a field that the entry requires to be zero (b of VSHUF.pswap and .rev, c of an 8-bit VPERM) is taken as
RESERVED_SPECIFIER, which R176 tests before RESERVED_FIELD. (log 60 DESIGN CHOICE) -/
def vSpecBad (op : Nat) (f : VRF) : Bool :=
  match op with
  | 0x010 | 0x011 | 0x012 | 0x013 | 0x018 | 0x019 | 0x01c | 0x01d | 0x030 | 0x031 | 0x032 | 0x033 => badDst f.d || badSrc f.a || badSrc f.b
  | 0x034 | 0x035 | 0x036 | 0x037 | 0x038 | 0x039 | 0x03a | 0x051 | 0x062 | 0x064 | 0x066 => badDst f.d || badSrc f.a || badSrc f.b
  | 0x014 | 0x015 | 0x016 | 0x017 | 0x063 => badDst f.d || badSrc f.a || badSrc f.b || badSrc f.c
  | 0x01a | 0x01b | 0x01e | 0x01f | 0x020 | 0x021 | 0x022 | 0x023 | 0x024 | 0x025 | 0x027 | 0x028 => badDst f.d || badSrc f.a
  | 0x03f | 0x040 | 0x041 | 0x050 | 0x052 | 0x060 | 0x065 | 0x06b | 0x06c | 0x080 | 0x081 | 0x082 => badDst f.d || badSrc f.a
  | 0x083 | 0x084 | 0x085 => badDst f.d || badSrc f.a
  | 0x026 | 0x03e => badSrc f.a || badSrc f.b
  | 0x053 => badDst f.d || badSrc f.a || badReg f.b
  | 0x061 | 0x06a => badDst f.d
  | 0x068 => badReg f.d
  | 0x069 => badReg f.d || badReg f.a
  | 0x03b | 0x03c | 0x03d | 0x054 => badDst f.d || badSrc f.a || (f.sub == 0 && badSrc f.b)
  | 0x067 => badDst f.d || (f.sub == 0 && badSrc f.a)
  | _ => false

/-- Whether an A word's queue field is reserved or of the wrong kind (R167, R290). Of an entry that names no queue R167 and R176 read as
if a Q of 12 to 15 were a reserved specifier, R168 as if it were a field that is to be zero: the model takes it as the latter, so
such a word gives RESERVED_FIELD; so too for an F word. (log 78 DESIGN CHOICE) -/
def aSpecBad (op : Nat) (q : BitVec 4) : Bool :=
  match op with
  | 0x00e | 0x013 => 8 ≤ q
  | 0x00f | 0x014 => q < 8 || 12 ≤ q
  | 0x011 => 12 ≤ q
  | _ => false

/-- RESERVED_SPECIFIER of R176. -/
def specBad (e : Eng) (op : Nat) (body : BitVec 84) : Bool :=
  match e with
  | .v => vSpecBad op (VRF.of body)
  | .a => aSpecBad op (ATF.of body).q
  | _ => false

/-- The instruction whose named fields a word holds, before the checks of reserved fields. -/
def parse (e : Eng) (op : Nat) (body : BitVec 84) : Option Instr :=
  match e with
  | .x => parseX op body
  | .s => parseS op body
  | .v => parseV op body
  | .m => parseM op body
  | .a => parseA op body
  | .f => parseF op body
  | .j => parseJ op body

/-- Decoding, with the checks in the order of R176; `priv` says that the level is kernel. -/
def decode (priv : Bool) (w : IWord) : Except Cause (Clauses × Instr) :=
  match Eng.ofCode (w.extractLsb' 125 3) with
  | none => .error .reservedEngine
  | some e =>
    let op := (w.extractLsb' 116 9).toNat
    let body := w.extractLsb' 0 84
    if !opDefined e op then .error .illegalOpcode
    else if e == .s && 0x0c0 ≤ op && op ≤ 0x0c5 && !priv then .error .privilegedWord
    else if specBad e op body then .error .reservedSpecifier
    else
      match clausesOf w, parse e op body with
      | some c, some i => if i.wf && encode c i == some w then .ok (c, i) else .error .reservedField
      | _, _ => .error .reservedField

/-- The instruction the decoder reads from a word whose bits are `w`; the part's words are 128 bits, and bits above
`nbits` are zero as the caller gives them. -/
def decodeTableWord (_nbits w : Nat) : Option Instr :=
  match decode true (BitVec.ofNat 128 w) with
  | .ok (_, i) => some i
  | .error _ => none

end Sys2Proof
end

