-- ==== Sys2Proof/Machine/TileOps.lean ====
section
/-! DEFINITION. Reading memory through translation, tensor descriptors (04, R79 to R81), where a tile's elements lie
(R82 to R88), filling a tile, packing it for write-back, registrations, recalls and the choice of a way (R89 to R107). -/

namespace Sys2Proof.Machine

/-! ## Reading -/

def State.lostIn (s : State) (pa n : Nat) : Bool :=
  s.lost.any fun l => l * 64 < pa + n && pa < l * 64 + 64

/-- The bytes of one piece, as the agents of a die see them; another module's bytes are free (R431). -/
def State.pieceBytes (s : State) (die : Nat) : Piece → List Byte
  | .here pa n =>
    match whereIs pa with
    | .hbm | .log => (List.range n).map fun i => s.byteOn die (pa + i)
    | _ => s.regBytes pa n
  | .away _ va n => (List.range n).map fun i => Config.remoteByte s.ctr (va + i)

/-- What the record of a cause that another module has raised tells of it (R443). -/
def homeInfo (c : Cause) (info : Nat) : Nat :=
  match c with
  | .translationAbsent => info % 4096
  | .permissionRead | .permissionWrite | .permissionAtomic | .permissionExecute | .migrationBusy | .migrationStale => 1
  | .uncorrectableData | .checkMismatch => info % 7
  | _ => 0
def XlStop.info (x : XlStop) : FaultInfo :=
  match x with
  | .fault c i va => { cause := c, addr := BitVec.ofNat 56 va, info := BitVec.ofNat 64 i }
  | .home c va l i =>
    { cause := c, addr := BitVec.ofNat 56 va, label := some (BitVec.ofNat 14 l), info := BitVec.ofNat 64 (homeInfo c i) }
  | .refused va => { cause := .migrationBusy, addr := BitVec.ofNat 56 va }
  | .hole pa => { cause := .translationAbsent, addr := BitVec.ofNat 56 pa }
  | .held => { cause := .none }

/-- Another module's answer to an access of a run's pieces, when it is a cause (R109) or refuses a write (R432, R433).
(log 27 DEDUCED) -/
def State.awayFails (s : State) (a : Acc) (ps : List Piece) : Option XlStop :=
  ps.findSome? fun p => match p with
    | .here .. => none
    | .away l va _ =>
      if (a = .wr || a = .at) && Config.remoteRefuses s.ctr va then some (.refused va)
      else (Config.remoteFails s.ctr va).map fun c => .home c.1 va l c.2

/-- The unit that a read reads at once (R117): the whole of an aligned access of 1 to 16 bytes, single bytes of another of that
size, and of more bytes the elements. -/
def Who.unitOf (w : Who) (pa n : Nat) : Nat :=
  let u := if n ≤ 16 then n else w.unit
  if (u = 1 || u = 2 || u = 4 || u = 8 || u = 16) && pa % u = 0 then u else 1

/-- The bytes of one piece as an access sees them: its agent may read what was before some writes (R118 to R121). -/
def State.pieceView (s : State) (w : Who) (p : Piece) : List Byte :=
  match w.agent, p with
  | some a, .here pa n =>
    match whereIs pa with
    | .hbm | .log => s.viewBytes a w.die pa n (w.unitOf pa n)
    | _ => s.regBytes pa n
  | _, p => s.pieceBytes w.die p

/-- A request to another module of the load-store domain, with its address and address-space identifier and the stamp of what its
agent has met (R109, R127, R431). -/
def State.sendAway (s : State) (w : Who) (label va : Nat) (op : RemoteOp) (stamp : SMap (BitVec 32)) : State :=
  { s with outbox := s.outbox ++ [.remote (BitVec.ofNat 14 label) w.asid (BitVec.ofNat 56 va) op stamp] }

/-- What reading a piece leaves: what the reader has now seen, or a request to the other module (R109). -/
def State.notePiece (s : State) (w : Who) (a : Acc) (p : Piece) : State :=
  match p with
  | .here pa n =>
    match w.agent, whereIs pa with
    | none, _ => s
    | some a, .hbm | some a, .log =>
      let u := w.unitOf pa n
      { s.noteRead (some a) w.die pa n u s.old with old := s.old.drop ((n + u - 1) / u) }
    | some a, _ => s.noteNow a
  | .away l va n => s.sendAway w l va (if a = .ex then .fetch n else .read n) []

/-- Read pieces one after the other. -/
def State.readPieces (s : State) (w : Who) (a : Acc) (ps : List Piece) : State × List Byte :=
  ps.foldl (fun x p => (x.1.notePiece w a p, x.2 ++ x.1.pieceView w p)) (s, [])

/-- The bytes at translated pieces of a run from `va`, or why they cannot be had (R111, R112, R109). -/
def State.takePieces (s : State) (w : Who) (a : Acc) (va : Nat) (ps : List Piece) : State × Except XlStop (List Byte) :=
  if s.mismatch then ({ s with mismatch := false }, .error (.fault .checkMismatch 4 va))
  else if ps.any fun p => match p with
    | .here pa k => s.lostIn pa k
    | .away .. => false
  then (s, .error (.fault .uncorrectableData 0 va))
  else
    match s.awayFails a ps with
    | some e => (s, .error e)
    | none =>
      let (s, b) := s.readPieces w a ps
      (s, .ok b)

/-- `n` bytes from `va`, or why they cannot be read (R196, R111, R112). -/
def State.readRun (s : State) (w : Who) (a : Acc) (va n : Nat) : State × Except XlStop (List Byte) :=
  match s.pieces w a va n with
  | (s, .error e) => (s, .error e)
  | (s, .ok ps) => s.takePieces w a va ps

def State.readNat (s : State) (w : Who) (va n : Nat) : State × Except XlStop Nat :=
  match s.readRun w .rd va n with
  | (s, .error e) => (s, .error e)
  | (s, .ok l) => (s, .ok (leNat l))

/-! ## Descriptors (R79) -/

structure TDesc where
  base : Nat
  ty : ETy
  rank : Nat
  layout : Nat
  tshape : Bool
  hint : Nat
  version : BitVec 32
  ext : List Nat
  str : List Int
  cap : Nat
  sslot : BitVec 10
  hdim : Nat
  heads : Nat
  kv : Nat
  seq : Nat
  deriving DecidableEq, Repr

def descFields (d : BitVec 512) : TDesc where
  base := bits d 55 0
  ty := (ETy.ofCode (d.extractLsb' 64 5)).getD .f32
  rank := bits d 71 69
  layout := bits d 74 72
  tshape := d.getLsbD 75
  hint := bits d 77 76
  version := d.extractLsb' 96 32
  ext := [bits d 159 128, bits d 191 160, bits d 223 192, bits d 255 224]
  str := [sval 48 (bits d 303 256), sval 48 (bits d 351 304), sval 48 (bits d 399 352)]
  cap := bits d 415 400
  sslot := d.extractLsb' 400 10
  hdim := bits d 467 465
  heads := bits d 464 457 + 1
  kv := bits d 456 456
  seq := bits d 455 400

/-- Rows and columns of a tile (R80). -/
def TDesc.shape (d : TDesc) : Nat × Nat :=
  match d.ty.width with
  | 4 => (128, 64)
  | 8 => (64, 64)
  | 16 => if d.tshape then (32, 64) else (64, 32)
  | _ => (32, 32)

/-- The type and layout pairs of R80. -/
def layoutOk (t : ETy) (l : Nat) : Bool :=
  match t with
  | .e2m1 => l = 0 || l = 1 || l = 4
  | .e4m3 | .e5m2 => l ≤ 4
  | .i8 | .f16 | .bf16 | .f32 => l ≤ 3
  | .n8 | .i16 | .n16 | .i32 | .n32 => l ≤ 2
  | .e8m0 => l = 0

/-- The reserved bits of a descriptor, by layout (R79). -/
def descReserved (d : BitVec 512) : Bool :=
  bits d 95 78 != 0 || bits d 63 56 != 0 ||
    (match bits d 74 72 with
     | 2 => bits d 511 416 != 0
     | 4 => bits d 511 410 != 0
     | 3 => bits d 511 468 != 0
     | _ => bits d 511 400 != 0)

/-- The invalid descriptors of R81, beside the address. -/
def descInvalid (d : BitVec 512) : Bool :=
  let t := descFields d
  (ETy.ofCode (d.extractLsb' 64 5)).isNone || t.rank = 0 || 4 < t.rank || 4 < t.layout || 1 < t.hint ||
    !layoutOk t.ty t.layout || (t.tshape && t.ty.width != 16) ||
    (match t.layout with
     | 3 => t.rank != 3 || t.ext.any (· != 0) || t.str.any (· != 0) || 3 < t.hdim
     | l =>
       (List.range 4).any (fun i =>
         if i < t.rank then t.ext.getD i 0 == 0 else (l = 0 || l = 1 || l = 4) && t.ext.getD i 0 != 1) ||
       (l = 2 && (t.cap % 4 != 0 || t.cap < 4 + t.shape.2 / 8 || t.str.any (· != 0))))

/-- The check of R81 in its two steps; the cause, if it fails. -/
def descCheck (addr : Nat) (d : BitVec 512) : Option Cause :=
  if descReserved d then some .reservedField
  else if addr % 64 != 0 || descInvalid d then some .descriptorInvalid else none

def mkBinding (addr : Nat) (d : BitVec 512) : Binding :=
  ⟨BitVec.ofNat 56 addr, d, (descFields d).version, (descFields d).hint == 1⟩
def Binding.d (b : Binding) : TDesc := descFields b.desc

/-! ## Tile coordinates and elements -/

/-- The four signed coordinates of a k register (R82, R222). -/
def coord (k : BitVec 128) (i : Nat) : Int := sval 32 (bits k (32 * i + 31) (32 * i))

/-- Older, by R104. -/
def olderVer (a b : BitVec 32) : Bool := (a - b).msb

/-- The extents a tile is read under: the descriptor's fields, or those of R87 with the sequence's block count. -/
def TDesc.extents (d : TDesc) (nblk : Nat) : List Nat :=
  if d.layout = 3 then [32 * 2 ^ d.hdim, 64 * nblk, d.heads, 1]
  else d.ext

/-- The whole-tile rule of R83. -/
def tileOut (d : TDesc) (ext : List Nat) (k : BitVec 128) : Bool :=
  (List.range 4).any (fun i => coord k i < 0) ||
    (ext.getD 0 0 : Int) ≤ coord k 0 * d.shape.2 || (ext.getD 1 0 : Int) ≤ coord k 1 * d.shape.1 ||
    (ext.getD 2 0 : Int) ≤ coord k 2 || (ext.getD 3 0 : Int) ≤ coord k 3

/-- Whether element (row, col) of a tile lies within the extents. -/
def inExt (d : TDesc) (ext : List Nat) (k : BitVec 128) (row col : Nat) : Bool :=
  coord k 0 * d.shape.2 + col < (ext.getD 0 0 : Int) && coord k 1 * d.shape.1 + row < (ext.getD 1 0 : Int)

/-- Bits of an element position: the index of R82 times the width. -/
def elemIdx (d : TDesc) (k : BitVec 128) (row col : Nat) : Int :=
  let c0 := coord k 0 * d.shape.2 + col
  let c1 := coord k 1 * d.shape.1 + row
  let st (i : Nat) := d.str.getD i 0
  if d.layout = 1 then c1 + c0 * st 0 + coord k 2 * st 1 + coord k 3 * st 2
  else c0 + c1 * st 0 + coord k 2 * st 1 + coord k 3 * st 2

/-- The byte address of an element, and its nibble for e2m1 (R82, R48); none outside 0 to 2^56 − 1 (R83). A KV-paged
element lies in the frame given (R87). -/
def elemAt (d : TDesc) (k : BitVec 128) (frame : Nat) (row col : Nat) : Option (Nat × Nat) :=
  let a : Int × Nat :=
    if d.layout = 3 then
      let dd := 32 * 2 ^ d.hdim
      let size := d.ty.width / 8
      let pageb := 2 * 64 * d.heads * dd * size
      let r := (coord k 1 * d.shape.1 + row).toNat % 64
      ((d.base + frame * pageb + d.kv * (pageb / 2) +
        (((coord k 2).toNat * 64 + r) * dd + (coord k 0 * d.shape.2 + col).toNat) * size : Nat), 0)
    else if d.ty.width = 4 then
      let i := elemIdx d k row col
      (d.base + i / 2, (i % 2).toNat)
    else (d.base + elemIdx d k row col * (d.ty.width / 8 : Nat), 0)
  if a.1 < 0 || (2 ^ 56 : Int) ≤ a.1 then none else some (a.1.toNat, a.2)

/-- The set of a tile (R90). -/
def tileSet (slot : BitVec 10) (k : BitVec 128) : Nat :=
  let j (i : Nat) := bits k (32 * i + 31) (32 * i)
  let h := (slot.toNat * 0x9e37 + j 0 * 0x2f4d + j 1 * 0x3b93 + j 2 * 0x1c69 + j 3 * 0x0d2f) % 2 ^ 32
  (h ^^^ (h >>> 11)) % 24

/-! ## Block entries (R88) -/

/-- What a KV-paged fill learns from the sequence descriptor and the block entry. -/
structure PageInfo where
  nblk : Nat
  live : Bool
  frame : Nat
  count : Nat
  first : BitVec 32
  deriving DecidableEq, Repr

/-! ## Fills -/

/-- What a fill brings: the elements' bits in row order, the presence mask, FIRST and the page's frame, the scales and where they came from. -/
structure Filled where
  data : List (BitVec 32)
  mask : BitVec 128
  first : BitVec 32
  frame : Nat
  scales : List (BitVec 8)
  scaleBind : Option Binding
  deriving DecidableEq, Repr

def fullMask : BitVec 128 := BitVec.allOnes 128

/-- Step 4 of R97: translate places, each an address and a length, before any is read; none is a place not read. -/
def State.locate (s : State) (w : Who) : List (Option (Nat × Nat)) →
    State × Except XlStop (List (Option (Nat × List Piece)))
  | [] => (s, .ok [])
  | none :: t =>
    match s.locate w t with
    | (s, .ok l) => (s, .ok (none :: l))
    | r => r
  | some (a, n) :: t =>
    match s.pieces w .rd a n with
    | (s, .error e) => (s, .error e)
    | (s, .ok ps) =>
      match s.locate w t with
      | (s, .ok l) => (s, .ok (some (a, ps) :: l))
      | r => r

/-- Step 5 of R97: read the translated places in order. -/
def State.readLocated (s : State) (w : Who) : List (Option (Nat × List Piece)) → State × Except XlStop (List (List Byte))
  | [] => (s, .ok [])
  | none :: t =>
    match s.readLocated w t with
    | (s, .ok l) => (s, .ok ([] :: l))
    | r => r
  | some (a, ps) :: t =>
    match s.takePieces w .rd a ps with
    | (s, .error e) => (s, .error e)
    | (s, .ok b) =>
      match s.readLocated w t with
      | (s, .ok l) => (s, .ok (b :: l))
      | r => r

/-- Translate all places, then read all (R97). -/
def State.readPlaces (s : State) (w : Who) (l : List (Option (Nat × Nat))) : State × Except XlStop (List (List Byte)) :=
  match s.locate w l with
  | (s, .error e) => (s, .error e)
  | (s, .ok ps) => s.readLocated w ps

/-- The place of an element in memory, and its bits in the bytes read there. -/
def elemPlace (width : Nat) (x : Option (Nat × Nat)) : Option (Nat × Nat) := x.map fun a => (a.1, max 1 (width / 8))
def elemBits (width : Nat) (x : Option (Nat × Nat)) (b : List Byte) : BitVec 32 :=
  match x with
  | none => 0
  | some (_, nib) => BitVec.ofNat 32 (if width = 4 then field (leNat b) (4 * nib + 3) (4 * nib) else leNat b)

def FaultInfo.atTile (f : FaultInfo) (slot : BitVec 10) (k : BitVec 128) : FaultInfo :=
  { f with slot := slot, info := if f.info = 0 then k.extractLsb' 0 64 else f.info,
           info2 := if f.info2 = 0 then k.extractLsb' 64 64 else f.info2 }
/-- A fault whose record names a tile (R443, causes 48 to 57). -/
def tileFault (c : Cause) (slot : BitVec 10) (k : BitVec 128) : FaultInfo :=
  { cause := c, slot := slot, info := k.extractLsb' 0 64, info2 := k.extractLsb' 64 64 }

/-- Steps 2 and 3 of R97: the coordinates that no block count can bring in bounds, then the sequence's block count and the
tile's block entry, read together (R87, R88). -/
def State.readPage (s : State) (w : Who) (b : Binding) (slot : BitVec 10) (k : BitVec 128) :
    State × Except FaultInfo PageInfo :=
  let d := b.d
  if tileOut d (d.extents (2 ^ 32)) k then (s, .error (tileFault .tileBounds slot k)) else
  match s.readRun w .rd d.seq 64 with
  | (s, .error e) => (s, .error e.info)
  | (s, .ok l) =>
    let nblk := field (leNat l) 127 96
    let bt := field (leNat l) 55 0
    if tileOut d (d.extents nblk) k then (s, .error (tileFault .tileBounds slot k))
    else
      let blk := ((coord k 1).toNat * d.shape.1) / 64
      match s.readNat w (bt + 16 * blk) 16 with
      | (s, .error e) => (s, .error e.info)
      | (s, .ok e) =>
        let st := field e 55 54
        let cnt := field e 63 56
        if st = 3 || (st = 1 && (cnt = 0 || 64 < cnt)) || field e 127 96 != 0 then
          (s, .error { (tileFault .reservedField slot k) with addr := BitVec.ofNat 56 (bt + 16 * blk) })
        else (s, .ok ⟨nblk, st = 1, field e 31 0, cnt, BitVec.ofNat 32 (field e 95 64)⟩)

/-- The positions of a tile's elements in row order: none for those beyond an extent or in an absent row. The error is
an element outside the address space (R83). -/
def elemList (d : TDesc) (ext : List Nat) (k : BitVec 128) (frame : Nat) (mask : BitVec 128) :
    Option (List (Option (Nat × Nat))) :=
  (List.range (d.shape.1 * d.shape.2)).mapM fun i =>
    let row := i / d.shape.2
    let col := i % d.shape.2
    if inExt d ext k row col && mask.getLsbD row then
      (elemAt d k frame row col).map some
    else some none

/-- The presence mask of a KV-paged tile (R88). -/
def pageMask (d : TDesc) (k : BitVec 128) (p : PageInfo) : BitVec 128 :=
  if p.live then
    BitVec.ofNat 128 (2 ^ min d.shape.1 (p.count - (coord k 1).toNat * d.shape.1 % 64) - 1)
  else 0

/-- The segment address of a row of a packed-sparse tile (R84). -/
def segAddr (d : TDesc) (k : BitVec 128) (row : Nat) : Nat :=
  let e (i : Nat) := (d.extents 0).getD i 1
  let nseg := ceilDiv (e 0) d.shape.2
  let c1 := (coord k 1).toNat * d.shape.1 + row
  d.base + ((c1 + e 1 * ((coord k 2).toNat + e 2 * (coord k 3).toNat)) * nseg + (coord k 0).toNat) * d.cap

/-- One row of a packed-sparse tile, expanded (R85); none for PACK_FORMAT. -/
def expandRow (d : TDesc) (k : BitVec 128) (head mask : Nat) (body : List Byte) : Option (List (BitVec 32)) :=
  let w := d.shape.2
  let size := d.ty.width / 8
  let stored := (List.range w).filter fun i => mask.testBit i
  if field head 31 16 != 0 || field head 15 0 != stored.length ||
      stored.any (fun i => ((d.extents 0).getD 0 0 : Int) ≤ coord k 0 * w + i) ||
      d.cap < 4 + w / 8 + ceilDiv (stored.length * size) 4 * 4 then none
  else some ((List.range w).map fun i =>
    if mask.testBit i then
      BitVec.ofNat 32 (leNat ((body.drop ((stored.filter (· < i)).length * size)).take size))
    else 0)

/-- The rows of a packed-sparse tile that lie within the extents. -/
def packedRows (d : TDesc) (k : BitVec 128) : List Nat :=
  (List.range d.shape.1).filter fun row => inExt d (d.extents 0) k row 0
/-- The bytes of a segment's header and mask (R84). -/
def segHead (d : TDesc) : Nat := 4 + d.shape.2 / 8

/-- A packed-sparse tile's elements (R85): the headers and masks of its rows, then the bodies, each translated before it is
read (R97), then the expansion. How much of a segment is read is known only from its header, and R97 does not place the two
stages: a fault of a header's read comes before one of a body's translation. (log 71 DESIGN CHOICE) -/
def State.readPacked (s : State) (w : Who) (d : TDesc) (slot : BitVec 10) (k : BitVec 128) :
    State × Except FaultInfo (List (BitVec 32)) :=
  let rows := packedRows d k
  match s.readPlaces w (rows.map fun r => some (segAddr d k r, segHead d)) with
  | (s, .error e) => (s, .error (e.info.atTile slot k))
  | (s, .ok hs) =>
    let size (h : List Byte) : Nat := min d.cap (segHead d + ceilDiv (field (leNat h) 15 0 * (d.ty.width / 8)) 4 * 4)
    if (rows.zip hs).any fun x => 2 ^ 56 < segAddr d k x.1 + size x.2 then (s, .error (tileFault .tileBounds slot k))
    else
      match s.readPlaces w ((rows.zip hs).map fun x => some (segAddr d k x.1, size x.2)) with
      | (s, .error e) => (s, .error (e.info.atTile slot k))
      | (s, .ok bs) =>
        let out := (rows.zip (hs.zip bs)).map fun x =>
          (x.1, expandRow d k (field (leNat x.2.1) 31 0) (leNat x.2.1 / 2 ^ 32) (x.2.2.drop (segHead d)))
        match out.find? fun x => x.2.isNone with
        | some x => (s, .error { (tileFault .packFormat slot k) with addr := BitVec.ofNat 56 (segAddr d k x.1) })
        | none =>
          (s, .ok ((List.range d.shape.1).flatMap fun r =>
            ((out.find? fun x => x.1 == r).bind (·.2)).getD (List.replicate d.shape.2 0)))

def Task.binding (t : Task) (slot : BitVec 10) : Option Binding :=
  (t.slots.find? fun x => x.1 == slot.toNat).map (·.2)

/-- The companion slot of an MX tile (R86): its binding, or the cause. -/
def Task.companion (t : Task) (d : TDesc) : Except Cause Binding :=
  match t.binding d.sslot with
  | none => .error .slotUnbound
  | some b =>
    let c := b.d
    if c.ty == .e8m0 && c.layout = 0 && c.rank = d.rank &&
        c.extents 0 == ceilDiv ((d.extents 0).getD 0 0) 32 :: (d.extents 0).drop 1 then .ok b
    else .error .descriptorInvalid

/-- Where the scales of an MX tile's rows stand, two to a row; none for a block wholly beyond EXT0 (R86). -/
def scaleList (d c : TDesc) (k : BitVec 128) : List (Option Int) :=
  (List.range (d.shape.1 * 2)).map fun i =>
    let row : Nat := i / 2
    let blk : Nat := (coord k 0).toNat * d.shape.2 / 32 + i % 2
    if blk < (c.extents 0).getD 0 0 && coord k 1 * d.shape.1 + row < ((d.extents 0).getD 1 0 : Int) then
      let st (j : Nat) := c.str.getD j 0
      let a : Int := (c.base : Int) + (blk : Int) + (coord k 1 * d.shape.1 + row) * st 0 + coord k 2 * st 1 + coord k 3 * st 2
      some a
    else none
/-- A scale of a block within the extents lies outside the address space (R83). -/
def scalesOut (l : List (Option Int)) : Bool := l.any fun x => x.any fun a => a < 0 || (2 ^ 56 : Int) ≤ a

/-- Every element within the extents has an address below 2^56 (R83); a packed-sparse row has at least its header and
mask there. -/
def tileReach (d : TDesc) (k : BitVec 128) : Bool :=
  if d.layout = 2 then (packedRows d k).all fun r => segAddr d k r + segHead d ≤ 2 ^ 56
  else d.layout = 3 || (elemList d (d.extents 0) k 0 fullMask).isSome

/-- What a fill reads and converts (R97, steps 1 to 6), for a tile of the task given. The spec gives the checks of an MX
tile's companion slot no place in that order: the model makes them with step 2. (log 57 DESIGN CHOICE) -/
def State.readTile (s : State) (w : Who) (t : Task) (slot : BitVec 10) (k : BitVec 128) :
    State × Except FaultInfo Filled :=
  match t.binding slot with
  | none => (s, .error (tileFault .slotUnbound slot k))
  | some b =>
    let d := b.d
    let out : State × Except FaultInfo Filled := (s, .error (tileFault .tileBounds slot k))
    let dense (s : State) (ext : List Nat) (frame : Nat) (mask : BitVec 128) (first : BitVec 32)
        (scales : List (Option Int)) (cb : Option Binding) : State × Except FaultInfo Filled :=
      match elemList d ext k frame mask with
      | none => (s, .error (tileFault .tileBounds slot k))
      | some l =>
        match s.readPlaces w (l.map (elemPlace d.ty.width) ++ scales.map fun x => x.map fun a => (a.toNat, 1)) with
        | (s, .error e) => (s, .error (e.info.atTile slot k))
        | (s, .ok v) =>
          (s, .ok ⟨(l.zip v).map fun x => elemBits d.ty.width x.1 x.2, mask, first, frame,
            (scales.zip (v.drop l.length)).map fun x => if x.1.isNone then 0x7f else BitVec.ofNat 8 (leNat x.2), cb⟩)
    if d.layout = 3 then
      match s.readPage w b slot k with
      | (s, .error e) => (s, .error e)
      | (s, .ok p) => dense s (d.extents p.nblk) p.frame (pageMask d k p) p.first [] none
    else if tileOut d (d.extents 0) k || !tileReach d k then out
    else if d.layout = 2 then
      match s.readPacked w d slot k with
      | (s, .error e) => (s, .error e)
      | (s, .ok v) => (s, .ok ⟨v, fullMask, 0, 0, [], none⟩)
    else if d.layout = 4 then
      match t.companion d with
      | .error c => (s, .error (tileFault c slot k))
      | .ok cb =>
        if scalesOut (scaleList d cb.d k) then out
        else dense s (d.extents 0) 0 fullMask 0 (scaleList d cb.d k) (some cb)
    else dense s (d.extents 0) 0 fullMask 0 [] none

/-! ## What a tile writes back (R101) -/

def Tile.elem (t : Tile) (i : Nat) : BitVec 32 := SMap.look 0 t.data i

/-- One row of a packed-sparse tile, packed (R84); none when it exceeds CAP (R101). -/
def packRow (d : TDesc) (t : Tile) (row : Nat) : Option (List Byte) :=
  let w := d.shape.2
  let size := d.ty.width / 8
  let vals := (List.range w).map fun c =>
    if inExt d (d.extents 0) t.name.k row c then t.elem (row * w + c) else 0
  let stored := vals.filter (· != 0)
  let mask := (List.range w).foldl (fun m i => if vals.getD i 0 != 0 then m + 2 ^ i else m) 0
  let body := stored.flatMap fun v => leBytes size v.toNat
  let n := 4 + w / 8 + ceilDiv (stored.length * size) 4 * 4
  if d.cap < n then none
  else some (leBytes 4 stored.length ++ leBytes (w / 8) mask ++ body ++
    List.replicate (n - 4 - w / 8 - body.length) 0)

/-- The extents a resident tile is written back under: its rows that are present lie within them (R100, R101). -/
def tileExt (t : Tile) : List Nat := if t.bind.d.layout = 3 then t.bind.d.extents (2 ^ 32) else t.bind.d.extents 0

/-- The byte writes of a dense tile: address, nibble if the element is half a byte, value. -/
def denseWrites (t : Tile) : List (Nat × Option Nat × BitVec 32) :=
  let d := t.bind.d
  (List.range (d.shape.1 * d.shape.2)).filterMap fun i =>
    let row := i / d.shape.2
    let col := i % d.shape.2
    if inExt d (tileExt t) t.name.k row col && t.mask.getLsbD row && t.fromRow ≤ row then
      (elemAt d t.name.k t.pageFrame row col).map fun a =>
        (a.1, if d.ty.width = 4 then some a.2 else none, t.elem i)
    else none

/-- Rows of a packed-sparse tile that are still to be written. -/
def packedLeft (t : Tile) : List Nat :=
  let d := t.bind.d
  (List.range d.shape.1).filter fun r => t.fromRow ≤ r && inExt d (tileExt t) t.name.k r 0
/-- Rows of a packed-sparse tile with their addresses, up to the first that exceeds CAP; that row, if any. -/
def packedWrites (t : Tile) : List (Nat × List Byte) × Option Nat :=
  let d := t.bind.d
  let rows := packedLeft t
  let ok := rows.takeWhile fun r => (packRow d t r).isSome
  (ok.map fun r => (segAddr d t.name.k r, (packRow d t r).getD []), rows[ok.length]?)
/-- What a packed-sparse tile holds for memory from a row on: each row as packed now, and the places of the rows that exceed CAP,
of which it holds all CAP bytes. -/
def packedHeld (t : Tile) (row : Nat) : List (Nat × List Byte) × List (Nat × Nat) :=
  let d := t.bind.d
  let rows := (packedLeft t).filter (row ≤ ·)
  (rows.filterMap fun r => (packRow d t r).map fun b => (segAddr d t.name.k r, b),
    (rows.filter fun r => (packRow d t r).isNone).map fun r => (segAddr d t.name.k r, d.cap))

/-- The scale bytes an MX tile writes back (R86). -/
def scaleWrites (t : Tile) : List (Nat × List Byte) :=
  match t.scaleBind with
  | none => []
  | some cb =>
    ((scaleList t.bind.d cb.d t.name.k).zip (List.range (t.bind.d.shape.1 * 2))).filterMap fun x =>
      x.1.map fun a => (a.toNat, [SMap.look 0x7f t.scales x.2])

/-- What a tile would write lies outside the address space (R83), as a rebinding can bring about (R103). -/
def Tile.beyond (t : Tile) : Bool :=
  let d := t.bind.d
  !tileReach d t.name.k ||
    (d.layout = 2 && (packedHeld t 0).1.any fun x => 2 ^ 56 < x.1 + x.2.length) ||
    (d.layout = 4 && match t.scaleBind with
      | some cb => scalesOut (scaleList d cb.d t.name.k)
      | none => false)

/-- Merge a nibble into a byte (R48). -/
def putNibble (b : Byte) (nib : Nat) (v : BitVec 32) : Byte := BitVec.ofNat 8 (setField b.toNat (4 * nib + 3) (4 * nib) v.toNat)

end Sys2Proof.Machine
end

