-- ==== Sys2Proof/Machine/TileCache.lean ====
section
/-! DEFINITION. Writing: tile registrations, write-back and recall (04, R100 to R107), the stores of every agent
(05, R116, R126, R127), instruction bytes that a store has changed (08, R215, R216), and the install of a tile (R91). -/

namespace Sys2Proof

/-- The causes of class U (R456). -/
def Cause.isUser : Cause → Bool
  | .gatherBounds | .packOverrun | .fpInvalid | .fpDivzero | .fpOverflow | .fpUnderflow | .fpInexact | .intDivzero
  | .trigRange | .peerAbsent | .reduceTimeout | .userTrap => true
  | _ => false

namespace Machine

/-! ## Placing a tile's writes -/

/-- A write of a tile: address, the nibble if the element is half a byte, and the bytes. -/
structure EWrite where
  va : Nat
  nib : Option Nat
  bytes : List Byte
  deriving DecidableEq, Repr

/-- Where writes land: cells of this module, latest first, and bytes for another module. -/
structure Placed where
  cells : List Host.Cell
  away : List (Nat × Nat × List Byte)
  deriving DecidableEq, Repr

def cellsOf (pa : Nat) (b : List Byte) : List Host.Cell :=
  ((List.range b.length).map fun i => (pa + i, b.getD i 0)).reverse

/-- Put the bytes of one write where its pieces are. -/
def placeRun (acc : Placed) : List Piece → List Byte → Placed
  | [], _ => acc
  | .here pa k :: t, b => placeRun { acc with cells := cellsOf pa (b.take k) ++ acc.cells } t (b.drop k)
  | .away l va k :: t, b => placeRun { acc with away := (l, va, b.take k) :: acc.away } t (b.drop k)

/-- Translate and place writes in order; the first refusal or fault stops (R102), another module's too (R109). -/
def State.place (s : State) (w : Who) (a : Acc) (acc : Placed) : List EWrite → State × Except XlStop Placed
  | [] => (s, .ok acc)
  | e :: t =>
    match s.pieces w a e.va e.bytes.length with
    | (s, .error x) => (s, .error x)
    | (s, .ok ps) =>
      match s.awayFails a ps with
      | some x => (s, .error x)
      | none =>
        let b := match e.nib, ps with
          | some nib, [.here pa _] =>
            let old := ((acc.cells.find? fun c => c.1 == pa).map (·.2)).getD (s.homeByte pa)
            [putNibble old nib ((e.bytes.getD 0 0).setWidth 32)]
          | _, _ => e.bytes
        s.place w a (placeRun acc ps b) t

/-- A tile's accesses go through its core's map unit (R428); a registration is a strand's (R100). -/
def Tile.who (t : Tile) (core : Nat) (a : Option Agent) : Who :=
  { die := dieOf core, ctx := some t.ctx, asid := t.name.asid, near := some (.mapUnit core), agent := a }

def tileWrites (t : Tile) : List EWrite :=
  (denseWrites t).map (fun x => ⟨x.1, x.2.1, leBytes (max 1 (t.bind.d.ty.width / 8)) x.2.2.toNat⟩) ++
    (scaleWrites t).map (fun x => ⟨x.1, none, x.2⟩)

/-- A line recorded as lost that cells write in part, if there is one (R112). -/
def State.lostPart (s : State) (cells : List Host.Cell) : Option Nat :=
  s.lost.find? fun l => cells.any (fun c => lineOf c.1 == l) &&
    !((List.range 64).all fun i => cells.any fun c => c.1 == 64 * l + i)
/-- The address at which writes first meet a line. -/
def State.meetsLine (s : State) (w : Who) (a : Acc) (l : List EWrite) (line : Nat) : Nat :=
  ((l.find? fun e => match (s.pieces w a e.va (max 1 e.bytes.length)).2 with
    | .ok ps => ps.any fun p => match p with
      | .here pa k => (pa / 64 ≤ line && line ≤ (pa + k - 1) / 64)
      | .away .. => false
    | .error _ => false).map (·.va)).getD 0

/-- All the writes that a tile's contents make: for registration and forwarding (R100, R106) every row, for a write-back those
before the first that exceeds CAP (R101). -/
def Tile.writes (t : Tile) (a : Acc) : List EWrite :=
  if t.bind.d.layout = 2 then (if a = .wb then (packedWrites t).1 else (packedHeld t 0).1).map fun x => ⟨x.1, none, x.2⟩
  else tileWrites t

/-- The writes of a tile's contents in their places. Lines that a later registration has taken over and that have been written
since are its no more; a write-back is a transfer that a failed check ends (R111), one of part of a lost line fails (R112), and so
does one beyond the address space (R83). -/
def State.placeTile (s : State) (core : Nat) (a : Acc) (t : Tile) (by_ : Option Agent) : State × Except XlStop Placed :=
  let l := t.writes a
  let w := t.who core by_
  if t.beyond then (s, .error (.fault .tileBounds 0 0))
  else
    match s.place w a ⟨[], []⟩ l with
    | (s, .error e) => (s, .error e)
    | (s, .ok p) =>
      let p := { p with cells := p.cells.filter fun c => !t.passed.contains (lineOf c.1) }
      if a = .wb && s.mismatch then
        ({ s with mismatch := false }, .error (.fault .checkMismatch 4 ((l.head?.map (·.va)).getD 0)))
      else
        match (if a = .wb then s.lostPart p.cells else none) with
        | some line => (s, .error (.fault .uncorrectableData 0 (s.meetsLine w a l line)))
        | none => (s, .ok p)

/-- The lines of places. -/
def Placed.lines (p : Placed) : List Nat := (p.cells.map fun c => lineOf c.1).eraseDups
/-- The bytes of the rows of a packed-sparse tile, from a row on, that exceed CAP (R101): it holds their lines and has nothing to
write there. -/
def Tile.unfit (t : Tile) (row : Nat) : List EWrite :=
  if t.bind.d.layout = 2 then (packedHeld t row).2.map fun x => ⟨x.1, none, List.replicate x.2 0⟩ else []
/-- The lines that a held packed-sparse tile keeps from a row on (R102). -/
def State.linesLeft (s : State) (core : Nat) (t : Tile) (row : Nat) : List Nat :=
  match s.place (t.who core none) .wb ⟨[], []⟩ ((packedHeld t row).1.map (fun x => ⟨x.1, none, x.2⟩) ++ t.unfit row) with
  | (_, .ok p) => p.lines
  | (_, .error _) => []

/-! ## Cells -/

def Core.putTile (c : Core) (t : Tile) : Core :=
  { c with tiles := t :: c.tiles.filter fun x => x.name != t.name }
def Core.dropTile (c : Core) (n : TileName) : Core := { c with tiles := c.tiles.filter fun x => x.name != n }
def State.putTile (s : State) (core : Nat) (t : Tile) : State := s.setCore core ((s.core core).putTile t)

/-! ## Instruction bytes that a store has changed (R215, R216) -/

/-- The 16-byte word at an address as the agents of a die see it. -/
def State.wordAt (s : State) (die a : Nat) : BitVec 128 :=
  BitVec.ofNat 128 (leNat ((List.range 16).map fun i => s.byteOn die (a + i)))
/-- A word takes a store. An engine's write reaches the L2 at once. A store of the whole word by a core stands in its L1D and may
reach the L2 at any time; one of a part of it may be half of a patch and waits for DCWB, so that no fetch mixes old and new
bytes. (log 18 DEDUCED) -/
def CodeCell.take (c : CodeCell) (core : Option Nat) (whole : Bool) (v : BitVec 128) : CodeCell :=
  { c with
    vers := if core.isNone || whole then c.vers ++ [v] else c.vers
    clean := if core.isNone then c.vers.length else c.clean
    dirty := core }
/-- What a store changes in one word. -/
def State.noteWord (core : Option Nat) (die pa : Nat) (b : List Byte) (s : State) (a : Nat) : State :=
  let old := s.wordAt die a
  let new := BitVec.ofNat 128 (leNat ((List.range 16).map fun i =>
    if pa ≤ a + i && a + i < pa + b.length then b.getD (a + i - pa) 0 else s.byteOn die (a + i)))
  let whole := pa ≤ a && a + 16 ≤ pa + b.length
  if s.code.any fun c => c.addr == a then
    { s with code := s.code.map fun c => if c.addr == a then c.take core whole new else c }
  else if old == new then s
  else { s with code := s.code ++ [({ addr := a, vers := [old] } : CodeCell).take core whole new] }
/-- A store leaves instruction fetch with the old words until its patch is complete (R215, R216). `core`: the L1D that holds the
new bytes, none for an engine's write. -/
def State.noteStore (s : State) (core : Option Nat) (die pa : Nat) (b : List Byte) : State :=
  if b.isEmpty then s
  else ((List.range ((pa + b.length - 1) / 16 - pa / 16 + 1)).map fun i => 16 * (pa / 16 + i)).foldl
    (State.noteWord core die pa b) s

/-! ## Memory and the holders of its lines -/

/-- Write bytes at their home, past any holder: the cells of memory, the page's grant (R430) and the lost-line records
that a whole line clears (R112). -/
def State.homeWrite (s : State) (pa : Nat) (b : List Byte) : State :=
  { s with
    mem := rawPut s.mem pa b
    grants := if s.grants.contains (pa / 4096) then s.grants else (pa / 4096) :: s.grants
    lost := s.lost.filter fun l => !(pa ≤ l * 64 && l * 64 + 64 ≤ pa + b.length) }

/-- Words that have been stored to take what a tile's write-back brings. -/
def State.noteCells (s : State) (cells : List Host.Cell) : State :=
  { s with code := s.code.map fun c =>
      if cells.any fun x => c.addr ≤ x.1 && x.1 < c.addr + 16 then c.take none true (s.wordAt (servedBy c.addr) c.addr) else c }
/-- Put cells, latest first, into memory in order of their making; lines they write whole are lost no more (R112). -/
def State.putCells (s : State) (cells : List Host.Cell) : State :=
  let s := cells.reverse.foldl (fun s c => s.homeWrite c.1 [c.2]) s
  State.noteCells { s with
    lost := s.lost.filter fun l => !((List.range 64).all fun i => cells.any fun c => c.1 == 64 * l + i) } cells

/-- A tile's bytes leave for other modules (R109). -/
def State.sendCells (s : State) (w : Who) (l : List (Nat × Nat × List Byte)) : State :=
  l.reverse.foldl (fun s x => s.sendAway w x.1 x.2.1 (.writeBack x.2.2) []) s

def State.modTile (s : State) (c : Nat) (n : TileName) (f : Tile → Tile) : State :=
  s.setCore c { s.core c with tiles := (s.core c).tiles.map fun x => if x.name == n then f x else x }

/-- An earlier holder of a line gives it up: what it holds there is written, and is not written again (R100). -/
def State.passLine (line : Nat) (s : State) (d : Nat × TileName) : State :=
  match (s.core d.1).tile d.2 with
  | none => s
  | some t =>
    (s.putCells (t.fwd.filter fun c => lineOf c.1 == line)).modTile d.1 d.2 fun t => { t with passed := line :: t.passed }

/-- The tiles that hold bytes of a line without standing in its directory: a recall has faulted (R106, R107). -/
def State.unlisted (s : State) (line : Nat) : List (Nat × TileName) :=
  s.cores.flatMap fun c =>
    (c.2.tiles.filter fun t => t.held.isSome && !t.passed.contains line && t.fwd.any (fun x => lineOf x.1 == line) &&
      !(s.dirty.contains (line, c.1, t.name))).map fun t => (c.1, t.name)
/-- The holders of a line whose registration of it is earlier than a tile's, the earliest first (R100). -/
def State.earlier (s : State) (core : Nat) (n : TileName) (line : Nat) : List (Nat × TileName) :=
  let l := (s.dirty.filter fun d => d.1 == line).map (·.2)
  if l.contains (core, n) then s.unlisted line ++ l.takeWhile (· != (core, n)) else []

/-- Commit a tile's cells: for each line the earlier holders' take effect first, by registration order, and are registered there
no more (R100). The tile's own registrations end but for those of the lines it keeps. -/
def State.commitCells (s : State) (core : Nat) (t : Tile) (p : Placed) (keep : List Nat) : State :=
  let n := t.name
  let lines := p.lines
  let left := s.dirty.filter fun d =>
    if d.2 == (core, n) then keep.contains d.1 else !(lines.contains d.1 && (s.earlier core n d.1).contains d.2)
  let s := lines.foldl (fun s l => (s.earlier core n l).foldl (State.passLine l) s) s
  (State.putCells { s with dirty := left } p.cells).sendCells (t.who core none) p.away

/-- Take a tile's registrations back without writing (R298). -/
def State.unregister (s : State) (core : Nat) (n : TileName) : State :=
  { s with dirty := s.dirty.filter fun d => !(d.2.1 == core && d.2.2 == n) }
/-- Take back a tile's registration of one line. -/
def State.unlist (s : State) (core : Nat) (n : TileName) (line : Nat) : State :=
  { s with dirty := s.dirty.filter fun d => d != (line, core, n) }

/-- A write-back (R101, R102): the state after it, and its fault if it left the tile held. A packed-sparse tile commits
the rows before the first that does not fit and keeps the lines of the rest. The spec gives the translation of every page first for dense tiles only; where a
packed-sparse row does not translate, the model commits none either. (log 58 DESIGN CHOICE) -/
def State.writeBackIn (s : State) (core : Nat) (t : Tile) : State × Option FaultInfo :=
  match s.placeTile core .wb t none with
  | (s, .error e) =>
    let f := e.info.atTile t.name.slot t.name.k
    (s.putTile core { t with held := some f }, some f)
  | (s, .ok p) =>
    let overrun := if t.bind.d.layout = 2 then (packedWrites t).2 else none
    match overrun with
    | none =>
      ((s.commitCells core t p []).putTile core
        { t with dirty := false, held := none, fromRow := 0, passed := [], fwd := [] }, none)
    | some row =>
      let f : FaultInfo := { (tileFault .packOverrun t.name.slot t.name.k) with
        row := BitVec.ofNat 6 row, addr := BitVec.ofNat 56 (segAddr t.bind.d t.name.k row) }
      let fwd := t.fwd.filter fun c => !(p.cells.any fun x => x.1 == c.1)
      ((s.commitCells core t p (s.linesLeft core t row)).putTile core { t with held := some f, fromRow := row, fwd := fwd }, some f)

/-- Whether a tile still belongs to the task its core runs (R25). (log 7 DEDUCED) -/
def State.ownerRuns (s : State) (core : Nat) (t : Tile) : Bool :=
  match s.task core with
  | some k => k.uid == t.owner
  | none => false

/-- A write-back; an MX tile's companion slot is checked as it stands (R86). -/
def State.writeBack (s : State) (core : Nat) (t : Tile) : State × Option FaultInfo :=
  match s.task core, t.bind.d.layout = 4 && s.ownerRuns core t with
  | some k, true =>
    match k.companion t.bind.d with
    | .ok cb => s.writeBackIn core { t with scaleBind := some cb }
    | .error c =>
      let f := tileFault c t.name.slot t.name.k
      (s.putTile core { t with held := some f }, some f)
  | _, _ => s.writeBackIn core t

/-- The completion record will carry TEAM_ENDED with the first cause, or DIE_SPLIT (R406). -/
def Node.spoil (n : Node) (c : Cause) : Node :=
  if n.status = 6 then n
  else { n with status := 7, cause := if n.status = 7 then n.cause else c, state3 := true }
/-- A grid that still runs fails with TEAM_ENDED (R25, R406). -/
def State.endedFails (s : State) (node : Nat) (c : Cause) : State :=
  { s with nodes := s.nodes.map fun n => if n.id == node && n.st == .running then n.spoil c else n }

/-- A write-back of a tile of an ended task that faults drops the tile, leaves a record and fails a grid still running
(R25). -/
def State.dropEnded (s : State) (core : Nat) (t : Tile) (f : FaultInfo) : State :=
  let s := ((s.unregister core t.name).setCore core ((s.core core).dropTile t.name)).endedFails t.node f.cause
  { s with records := s.records ++ [⟨some t.ctx, dieOf core, { f with pc := 0 }, 1, f.cause.isUser, true, 0xffffffff,
      BitVec.ofNat 8 core, t.name.asid⟩] }

/-- A tile that stays held has its holder take the fault at its next word (R107). -/
def State.noteHeld (s : State) (c : Nat) (t : Tile) (f : FaultInfo) : State :=
  if s.ownerRuns c t then s.modTask c fun k => { k with recalls := k.recalls ++ [{ f with origin := 2, k := t.name.k }] }
  else s.dropEnded c t f
/-- A tile is held after a recall of a line: its registration there is given up (R106, R107). -/
def State.leaveHeld (s : State) (c : Nat) (t : Tile) (line : Nat) (f : FaultInfo) : State :=
  (s.unlist c t.name line).noteHeld c t f
/-- A recall of one registration (R106, R107): the tile is written back, and held if that faults. -/
def State.recallOne (s : State) (d : Nat × Nat × TileName) : State :=
  if s.dirty.contains d then
    match (s.core d.2.1).tile d.2.2 with
    | none => s.unregister d.2.1 d.2.2
    | some t =>
      match s.writeBack d.2.1 t with
      | (s, none) => s
      | (s, some f) => s.leaveHeld d.2.1 t d.1 f
  else s
/-- A recall of every registration of a line, in their order (R100, R106). (log 20 DEDUCED) -/
def State.recallLine (s : State) (line : Nat) : State :=
  (s.dirty.filter fun d => d.1 == line).foldl State.recallOne s

def linesOf (pa n : Nat) : List Nat := (List.range ((pa + n - 1) / 64 - pa / 64 + 1)).map (· + pa / 64)

/-- A write past the holders of its lines (R106). -/
def State.homeStore (s : State) (pa : Nat) (b : List Byte) : State :=
  if b.isEmpty then s else ((linesOf pa b.length).foldl State.recallLine s).homeWrite pa b

/-! ## Writes in flight (R126, R127) -/

/-- The position of a die in the domain's sub-cube (R127); where both dies of the module have one label, as before firmware, each
counts by itself. (log 56 DESIGN CHOICE) -/
def State.stampAt (s : State) (die : Nat) : Nat :=
  let p (d : Nat) : Nat := (s.router d).lself.toNat % 64
  if p 0 = p 1 then die else p die
/-- How many writes of the die at a position have been applied at their homes: the counter of the stamp (R127), modulo 2^32. -/
def State.appliedOf (s : State) (pos : Nat) : BitVec 32 := SMap.look 0 s.applied pos
/-- A stamp compared modulo 2^32 (R127). -/
def stampReached (has need : BitVec 32) : Bool := !(has - need).msb
/-- A stamp's counters are all reached here. -/
def State.reached (s : State) (need : SMap (BitVec 32)) : Bool := need.all fun x => stampReached (s.appliedOf x.1) x.2

/-- The counters that cover those of certain writes that are in flight, put into a stamp. -/
def State.stampOf (s : State) (m : SMap (BitVec 32)) (ids : List Nat) : SMap (BitVec 32) :=
  [0, 1].foldl (fun m d =>
    match (s.flight d).reverse.find? fun w => ids.contains w.id with
    | some w => SMap.put 0 m (s.stampAt d) (w.seq + 1)
    | none => m) m

/-- The oldest write in flight of a die reaches its home, once every write its stamp covers has been applied (R127): the home's
agents may go on reading what was there. (log 7 DEDUCED) -/
def State.applyHead (s : State) (die : Nat) : Option State :=
  match s.flight die with
  | [] => none
  | w :: l =>
    if s.reached w.need then
      let s := (s.addSide w.id (servedBy w.addr) false false none (range_ w.addr w.bytes.length)).homeStore w.addr w.bytes
      let pos := s.stampAt die
      some { s with wb := SMap.put [] s.wb die l, applied := SMap.put 0 s.applied pos (s.appliedOf pos + 1) }
    else none

/-- Apply writes in flight until none of certain ones is left, at most `n`. -/
def State.applyUntil (ids : List Nat) : Nat → State → State
  | 0, s => s
  | n + 1, s =>
    if s.awaits ids then
      let d := if ids.any fun i => (s.flightIds 0).contains i then 0 else 1
      match s.applyHead d with
      | some s => State.applyUntil ids n s
      | none =>
        match s.applyHead (1 - d) with
        | some s => State.applyUntil ids n s
        | none => s
    else s
/-- Certain writes reach their homes before an effect that both dies see at once: a tile's registration, a register page
(R120, R124, R125). (log 7 DEDUCED) -/
def State.drain (s : State) (ids : List Nat) : State :=
  if s.awaits ids then State.applyUntil ids ((s.flight 0).length + (s.flight 1).length) s else s

/-- A release at a scope through something that others see at once, with the writes it orders at their homes (R115, R120). -/
def State.releaseNow (s : State) (a : Agent) (k : Scope) : State :=
  (if k.wide then s.drain (s.released a) else s).publish a k

/-! ## Stores of the agents of a die -/

/-- The core whose L1D takes an access's stores (R215). -/
def Who.l1d (w : Who) : Option Nat :=
  match w.near with
  | some (.l1d c) => some c
  | _ => none

/-- A write to memory enters the record and comes to its own die (R116); its number. The write of an engine, which is no agent
here, is visible at once. -/
def State.begin_ (s : State) (w : Who) (pa : Nat) (b : List Byte) : State × Nat :=
  let s := s.noteStore w.l1d w.die pa b
  let (s, id) := s.emit w.agent w.die w.stl false (s.knownOf w.agent w.rel [])
  (s.addSide id w.die false w.agent.isNone w.agent (range_ pa b.length), id)
/-- A write performed at its home at once (R116). (log 7 DEDUCED) -/
def State.perform (s : State) (w : Who) (pa : Nat) (b : List Byte) : State :=
  let (s, id) := s.begin_ w pa b
  (s.addSide id (1 - w.die) false w.agent.isNone w.agent (range_ pa b.length)).homeStore pa b

/-- A store by an agent of a die. A write homed on that die is performed at once; one homed on the other joins its die's writes
in flight, which its own die sees and which reach their homes in order (R126, R127). A register region acts at once: what is
ordered before the write has been performed first (R115, R120). (log 7 DEDUCED) -/
def State.store (s : State) (w : Who) (pa : Nat) (b : List Byte) : State :=
  match whereIs pa with
  | .hbm | .log =>
    if servedBy pa = w.die then s.perform w pa b
    else
      let need := s.stampOf [] (Known.ids (s.knownOf w.agent w.rel []))
      let (s, id) := s.begin_ w pa b
      let n := SMap.look 0 s.issued w.die
      { s with
        wb := SMap.put [] s.wb w.die (s.flight w.die ++ [⟨pa, b, n, need, id⟩])
        issued := SMap.put 0 s.issued w.die (n + 1) }
  | _ =>
    let s := s.drain (Known.ids (s.knownOf w.agent w.rel []))
    let s := match w.agent, w.rel with
      | some a, some k => s.publish a k
      | some a, none => s.publishSeen a
      | none, _ => s
    s.regWrite w.ctx.isNone pa b

/-- A write of the part's own engines, which is performed at its home at once (R131). -/
def State.storeAtHome (s : State) (kernel : Bool) (pa : Nat) (b : List Byte) : State :=
  match whereIs pa with
  | .hbm | .log => s.perform { die := servedBy pa, ctx := none, asid := 0 } pa b
  | _ => s.regWrite kernel pa b

/-- The stamp that an access to another module carries: all that has been applied here, and what its agent has met or released
(R127). -/
def State.stampOut (s : State) (w : Who) : SMap (BitVec 32) := s.stampOf s.applied (Known.ids (s.knownOf w.agent w.rel []))

/-- A write of an engine of the part on an agent's behalf, performed at its home at once (R131). -/
def State.storeEngine (s : State) (w : Who) (pa : Nat) (b : List Byte) : State :=
  match whereIs pa with
  | .hbm | .log => s.perform w pa b
  | _ => s.store w pa b

def State.storePieces (s : State) (w : Who) : List Piece → List Byte → State
  | [], _ => s
  | .here pa k :: t, b => (s.store w pa (b.take k)).storePieces w t (b.drop k)
  | .away l va k :: t, b => (s.sendAway w l va (.write (b.take k)) (s.stampOut w)).storePieces w t (b.drop k)

/-- The pieces of a write of `n` bytes at `va`, once nothing stops it: every byte is translated before any is written (R206);
a failed check of the transfer faults (R111), and so does a partial write to a lost line (R112). -/
def State.writable (s : State) (w : Who) (a : Acc) (va n : Nat) : State × Except XlStop (List Piece) :=
  match s.pieces w a va n with
  | (s, .error e) => (s, .error e)
  | (s, .ok ps) =>
    if s.mismatch then ({ s with mismatch := false }, .error (.fault .checkMismatch 4 va))
    else if ps.any fun p => match p with
      | .here pa k => (linesOf pa k).any fun l => s.lost.contains l && !(pa ≤ l * 64 && l * 64 + 64 ≤ pa + k)
      | .away .. => false
    then (s, .error (.fault .uncorrectableData 0 va))
    else
      match s.awayFails a ps with
      | some e => (s, .error e)
      | none => (s, .ok ps)

/-- Store bytes at `va`. -/
def State.writeRun (s : State) (w : Who) (a : Acc) (va : Nat) (b : List Byte) : State × Option XlStop :=
  match s.writable w a va b.length with
  | (s, .error e) => (s, some e)
  | (s, .ok ps) => (s.storePieces w ps b, none)

/-! ## Writing a tile (R100) -/

/-- A tile's new contents are written (R129): what the writing strand has met is visible first, its own die sees the write from
then on, and an agent may go on reading old bytes from a copy of its own. (log 7 DEDUCED) -/
def State.noteTile (s : State) (core : Nat) (pas : List Nat) : State :=
  let a : Agent := .strand s.cur.core s.cur.eng
  let known := s.knownOf (some a) none []
  let s := ((s.drain (Known.ids known)).show 0 (Known.ids known)).show 1 (Known.ids known)
  let (s, id) := s.emit (some a) (dieOf core) none true known
  (s.addSide id (dieOf core) true true (some a) pas).addSide id (1 - dieOf core) true false (some a) pas

/-- Make a resident tile's new contents dirty, every row of it: translate its lines again (R429), register them, and let
reads of memory be forwarded from it. Of a packed-sparse tile R100 does not say which lines its memory is: the model takes those
of each row as packed now, all CAP bytes of a row that exceeds CAP, and adds lines when a later word makes a row grow.
(log 72 DESIGN CHOICE) -/
def State.dirtyTile (s : State) (core : Nat) (t : Tile) : State × Option XlStop :=
  let t := { t with fromRow := 0, passed := [] }
  let by_ : Agent := .strand s.cur.core s.cur.eng
  match s.placeTile core .wr t (some by_) with
  | (s, .error e) => (s, some e)
  | (s, .ok p) =>
    match s.place (t.who core (some by_)) .wr ⟨[], []⟩ (t.unfit 0) with
    | (s, .error e) => (s, some e)
    | (s, .ok q) =>
      let lines := (p.lines ++ q.lines).eraseDups
      let s := s.noteTile core (p.cells.map (·.1))
      let new := lines.filter fun l => !(s.dirty.contains (l, core, t.name))
      let s := { s with
        dirty := s.dirty ++ new.map fun l => (l, core, t.name)
        grants := (lines.map (· / 64)).foldl (fun g x => if g.contains x then g else x :: g) s.grants
        outbox := s.outbox ++ (p.away ++ q.away).reverse.map fun (x : Nat × Nat × List Byte) =>
          OutMsg.remoteOwn (BitVec.ofNat 14 x.1) t.name.asid (BitVec.ofNat 56 x.2.1) x.2.2.length }
      (s.putTile core { t with dirty := true, fwd := p.cells }, none)

/-! ## Choosing a way (R91) -/

/-- At a context switch of a core the tiles of other contexts become class 0 (R89). -/
def State.switchTiles (s : State) (c : Nat) (asid : BitVec 16) : State :=
  s.setCore c { s.core c with tiles := (s.core c).tiles.map fun t => if t.name.asid == asid then t else { t with class0 := true } }

/-- The tiles a core's parked words name are never victims (R91); the model keeps their names with the words. -/
def Core.inSet (c : Core) (set : Nat) : List Tile := c.tiles.filter fun t => tileSet t.name.slot t.name.k == set

inductive WayChoice where
  | way (n : Nat) (victim : Option Tile)
  | wait
  | full
  deriving DecidableEq, Repr

/-- The victim of R91: the lowest invalid way, else the oldest class-0 way, else the oldest class-1 way; `busy` are the
names that parked words hold. (log 19 DEDUCED) -/
def chooseWay (ts : List Tile) (busy : List TileName) : WayChoice :=
  match (List.range 16).find? fun w => !(ts.any fun t => t.way == w) with
  | some w => .way w none
  | none =>
    let free := ts.filter fun t => !t.pinned && t.held.isNone
    let ok := free.filter fun t => !busy.contains t.name
    let pick (l : List Tile) : Option Tile :=
      l.foldl (fun b t => match b with
        | none => some t
        | some x => if x.age < t.age || (x.age = t.age && t.way < x.way) then some t else b) none
    match pick (ok.filter (·.class0)) with
    | some t => .way t.way (some t)
    | none =>
      match pick (ok.filter fun t => !t.class0) with
      | some t => .way t.way (some t)
      | none => if free.isEmpty then .full else .wait

/-- A hit or an install sets a way's age to 0 and ages the others of its set (R91). -/
def Core.touch (c : Core) (n : TileName) : Core :=
  let set := tileSet n.slot n.k
  { c with tiles := c.tiles.map fun t =>
      if t.name == n then { t with age := 0 }
      else if tileSet t.name.slot t.name.k == set && t.age < 15 then { t with age := t.age + 1 } else t }

end Machine

end Sys2Proof
end

