-- ==== Sys2Proof/Machine/Ops.lean ====
section
/-! DEFINITION. What every word shares: causes and their codes (22, R456), positions and the window buffer (02, R20 to
R23), the clauses (R31 to R34), the end test of loops (08, R199), running one word of a strand, taking an exception
(22, R438 to R440), entering the user handler (R447) and returning from it (R448). -/

namespace Sys2Proof

/-- The code of a cause (R456). -/
def Cause.code : Cause → Nat
  | .none => 0 | .illegalOpcode => 1 | .reservedEngine => 2 | .reservedSpecifier => 3 | .privilegedWord => 4
  | .reservedField => 5 | .pcAlign => 6 | .loopNest => 7 | .callDepth => 8 | .noUserFault => 9 | .uframeFault => 10
  | .frameInvalid => 11 | .translationAbsent => 16 | .permissionRead => 17 | .permissionWrite => 18
  | .permissionAtomic => 19 | .permissionExecute => 20 | .atomicAlign => 21 | .migrationBusy => 30
  | .migrationStale => 31 | .slotUnbound => 48 | .tileBounds => 49 | .descriptorInvalid => 50 | .tileSetFull => 51
  | .footprint => 52 | .peerSlotMismatch => 53 | .gatherBounds => 54 | .staleIndex => 55 | .packOverrun => 56
  | .packFormat => 57 | .indexOverflow => 58 | .fpInvalid => 72 | .fpDivzero => 73 | .fpOverflow => 74
  | .fpUnderflow => 75 | .fpInexact => 76 | .intDivzero => 77 | .trigRange => 79 | .leaseNotHeld => 96
  | .operandType => 97 | .attState => 98 | .attShape => 99 | .peerAbsent => 120 | .remoteTimeout => 121
  | .partitionKey => 122 | .reduceTimeout => 123 | .remoteContext => 124 | .groupUnset => 125 | .dieLinkLost => 126
  | .linkLost => 127 | .semOverflow => 144 | .barNotCoresident => 145 | .barAbandoned => 146 | .queueRecord => 147
  | .imageInvalid => 148 | .saveFailed => 149 | .uncorrectableData => 160 | .checkMismatch => 161
  | .correctedError => 162 | .lineLost => 163 | .sensorLimit => 164 | .userTrap => 176 | .breakpoint => 177


namespace Machine

/-! ## Positions and the window buffer (R20 to R23) -/

/-- A position on the path: how many FORKs were obeyed, then the path count. -/
def before (e p e' p' : Nat) : Bool := e < e' || (e == e' && p < p')

/-- The strands of a task that have not obeyed EXIT. -/
def Task.live (t : Task) : List Strand :=
  ((strandsOf t.kernel).map t.strand).filter fun x => !x.ended

/-- R21: passing the present word keeps the spread within WIN. A strand that has not obeyed the last FORK counts as
standing at the path count 0 of the others. -/
def Task.slipOk (t : Task) (x : Strand) : Bool :=
  t.live.all fun y => before x.epoch x.path y.epoch y.path || x.epoch != y.epoch && x.path + 1 ≤ t.win.toNat ||
    (x.epoch == y.epoch && x.path + 1 ≤ y.path + t.win.toNat)

/-- Every live strand stands at or beyond a position (R25: no strand passes before all have reached the word). -/
def Task.allReached (t : Task) (x : Strand) : Bool :=
  t.live.all fun y => !(before y.epoch y.path x.epoch x.path)

/-- The deposit the S strand left for a position (R23). -/
def Task.depositAt (t : Task) (x : Strand) : Option Deposit :=
  t.window.find? fun d => d.epoch == x.epoch && d.path == x.path

/-- The deposit of the S strand's present values at its present position. -/
def Task.snapshot (t : Task) : Deposit :=
  let x := t.strand .s
  ⟨x.epoch, x.path, t.s, t.k, t.fpctl, t.rrb, t.prb, false, 0, []⟩

def Task.addDeposit (t : Task) (d : Deposit) : Task := { t with window := d :: t.window }

/-- Apply a control write that the strand it goes to has met (R61, R285). -/
def Task.applyCtl (t : Task) (w : CtlWrite) : Task :=
  match w.csr, w.eng with
  | .fpstat, _ => { t with fpstat := w.val &&& 0x3f }
  | .lseed, .v => { t with lseed := t.lseed.extractLsb' 32 32 ++ w.val.extractLsb' 0 32 }
  | .lseed, .m => { t with lseed := w.val.extractLsb' 32 32 ++ t.lseed.extractLsb' 0 32 }
  | .mstat, _ => { t with sticky := w.val.extractLsb' 0 6 }
  | _, _ => t

/-- Parked M words before a position (R61, R285). -/
def Task.parkedBefore (t : Task) (e p : Nat) : Bool :=
  t.replay.any fun w => w.env.eng == .m && before w.epoch w.path e p

/-- A control write has been met: its strand has passed it and the M words before it have completed. -/
def Task.met (t : Task) (d : Deposit) (w : CtlWrite) : Bool :=
  before d.epoch d.path (t.strand w.eng).epoch (t.strand w.eng).path &&
    !(w.eng == .m && t.parkedBefore d.epoch d.path)

/-- The control writes of a deposit that have been met are made; the rest stay. -/
def settleList (t : Task) : List Deposit → Task × List Deposit
  | [] => (t, [])
  | d :: l =>
    let (t, l) := settleList t l
    ((d.ctl.filter (t.met d)).foldl Task.applyCtl t, { d with ctl := d.ctl.filter fun w => !t.met d w } :: l)

/-- An M word waits for the control writes before it (R61, R285). -/
def Task.ctlPending (t : Task) (e : Eng) (x : Strand) : Bool :=
  e == .m && t.window.any fun d => before d.epoch d.path x.epoch x.path && d.ctl.any fun w => w.eng == .m

/-- Make the control writes that have been met and drop the deposits every strand has passed. -/
def Task.settle (t : Task) : Task :=
  let (t, l) := settleList t t.window
  { t with window := l.filter fun d =>
      !d.ctl.isEmpty || t.live.any fun y => !(before d.epoch d.path y.epoch y.path) }

/-! ## Semaphores (R31 to R34) -/

/-- The wait test of R32. -/
def semMet (val : BitVec 16) (thr : BitVec 8) : Bool := !(val.extractLsb' 0 8 - thr).msb
/-- The floor follows a satisfied wait (R32). -/
def Sem.waited (x : Sem) (thr : BitVec 8) : Sem := if 0 < (thr - x.floor).toInt then { x with floor := thr } else x
/-- A signal under the floor check of R34; none on overflow. -/
def Sem.signalled (x : Sem) (n : BitVec 16) : Option Sem :=
  let v := x.val + n
  if 127 < (v.extractLsb' 0 8 - x.floor).toNat then none else some { x with val := v }

/-- A wait clause as a strand reaches it: the task with the floor moved, or none while it is not satisfied. -/
def Task.waitOn (t : Task) (sem thr : BitVec 8) : Option Task :=
  let x := t.semOf sem
  if semMet x.val thr then some (t.setSem sem (x.waited thr)) else none

/-- A strand evaluates what it waits for after a change to that semaphore (R32): its wait clause, or its SEMWAIT. -/
def Task.wakeStrand (sem : BitVec 8) (t : Task) (e : Eng) : Task :=
  let x := t.strand e
  match x.waiting with
  | none => t
  | some (m, thr) =>
    if m != sem || x.ended || !(x.phase == .fresh || x.phase == .begun) then t
    else
      match t.waitOn sem thr with
      | none => t
      | some t => t.setStrand e { x with waiting := none, phase := if x.phase = .fresh then .begun else .woken }
/-- A change to a semaphore: every strand that waits on it evaluates its clause again (R32). -/
def Task.changeSem (t : Task) (sem : BitVec 8) (x : Sem) : Task :=
  (strandsOf t.kernel).foldl (Task.wakeStrand sem) (t.setSem sem x)

/-! ## Registers under the rotating bases (R29) -/

def physV (rrb : BitVec 10) (n : BitVec 10) : Nat :=
  if n.toNat < 128 then n.toNat else 128 + (n.toNat - 128 + rrb.toNat) % 640
def physP (prb : BitVec 5) (n : PReg) : Nat :=
  if n.toNat < 32 then n.toNat else 32 + (n.toNat - 32 + prb.toNat) % 32
/-- A physical predicate register; p0 reads all-true (R228). -/
def Task.pphys (t : Task) (n : Nat) : BitVec 128 := if n = 0 then BitVec.allOnes 128 else SMap.look 0 t.p n

/-! ## Loops (R28, R29, R199) -/

/-- The LOOPM a strand stands in, if any. -/
def Strand.inLoopm (x : Strand) : Option (LoopEnt × LoopM) :=
  match x.loops with
  | [] => none
  | l :: _ =>
    match l.lm with
    | some m => if l.depth == x.depth && l.start ≤ x.pc && x.pc ≤ l.last then some (l, m) else none
    | none => none

/-- A word of a LOOPM body that is not active in the present pass is squashed (R28). -/
def Strand.squashed (x : Strand) : Bool :=
  match x.inLoopm with
  | none => false
  | some (l, m) =>
    let stage := (x.pc - l.start).toNat / 16 * m.stages / m.len
    !(stage ≤ m.pass && m.pass - stage < m.trips)

/-- The end test of R199 at a word: the entries left, the next pc, and the LOOPM whose pass has ended, as it is when the
pass begins or, with `pass` at its count, when it is over. -/
def endTest (depth : Nat) (pc next : Va) : List LoopEnt → List LoopEnt × Va × Option LoopM
  | [] => ([], next, none)
  | l :: t =>
    if l.depth == depth && l.last == pc then
      match l.lm with
      | some m =>
        let m' := { m with pass := m.pass + 1 }
        if m.pass + 1 < m.trips + m.stages - 1 then ({ l with lm := some m' } :: t, l.start, some m')
        else
          let (t, n, _) := endTest depth pc next t
          (t, n, some m')
      | none =>
        if 1 < l.remaining then ({ l with remaining := l.remaining - 1 } :: t, l.start, none)
        else endTest depth pc next t
    else (l :: t, next, none)

/-- A taken branch pops the entries of the present depth whose bodies do not hold the target (R199). -/
def leaveLoops (depth : Nat) (target : Va) : List LoopEnt → List LoopEnt
  | [] => []
  | l :: t =>
    if l.depth == depth && !(l.start ≤ target && target ≤ l.last) then leaveLoops depth target t else l :: t

/-- The guard predicate at the start of a pass (R29). -/
def Task.writeGuard (t : Task) (m : LoopM) : Task :=
  if m.guard = 0 then t
  else { t with p := SMap.put 0 t.p m.guard (if m.pass < m.trips then BitVec.allOnes 128 else 0) }

/-- What the sequencer does in a strand at the end of a pass and the start of the next (R29): S steps the bases, V writes
the guard. -/
def Task.endPass (t : Task) (e : Eng) (m : LoopM) : Task :=
  match e with
  | .s =>
    { t with
      rrb := BitVec.ofNat 10 ((t.rrb.toNat + (640 - m.vstep)) % 640)
      prb := BitVec.ofNat 5 ((t.prb.toNat + (32 - m.pstep)) % 32) }
  | .v => if m.pass < m.trips + m.stages - 1 then t.writeGuard m else t
  | _ => t

/-- A strand passes its present word by falling through it. -/
def Task.fall (t : Task) (e : Eng) : Task :=
  let x := t.strand e
  let (l, pc, m) := endTest x.depth x.pc (x.pc + 16) x.loops
  let t := t.setStrand e { x with loops := l, pc := pc, path := x.path + 1, phase := .fresh, retry := none, waiting := none }
  (match m with
   | some m => t.endPass e m
   | none => t).settle

/-- A strand passes its present word and goes to the position given. -/
def Task.moveTo (t : Task) (e : Eng) (x : Strand) : Task :=
  (t.setStrand e { x with phase := .fresh, retry := none, waiting := none }).settle

/-! ## Taking an exception -/

/-- A cause is raised at the word at `pc` (R438, R440): the word has no effect beyond those it has made, its strand stays
where it is, and the task stops until the delivery of R437. A fault of a kernel core's own word goes to the Binnacle's log
and stops that core (R482). -/
def State.takeFaultAt (s : State) (c : Nat) (e : Eng) (pc : Va) (f : FaultInfo) : State :=
  match s.task c with
  | none => s
  | some t =>
    let f := { f with strand := some e, pc := pc, stamp := s.now (dieOf c) }
    let s := s.setTask c { t with faults := t.faults ++ [f] }
    if t.kernel then
      { s.setCore c { s.core c with halted := true } with
        records := s.records ++ [⟨none, dieOf c, f, 2, false, true, 0xffffffff, 0xff, 0⟩] }
    else s

/-- A cause is raised at the strand's present word, or at the one its record names. -/
def State.takeFault (s : State) (c : Nat) (e : Eng) (f : FaultInfo) : State :=
  match s.task c with
  | none => s
  | some t => s.takeFaultAt c e (if f.pc = 0 then (t.strand e).pc else f.pc) f

/-- A cause that names no strand (ORIGIN 5, 8). -/
def State.taskFault (s : State) (c : Nat) (f : FaultInfo) : State :=
  s.modTask c fun t => { t with faults := t.faults ++ [{ f with stamp := s.now (dieOf c) }] }

/-- SEM_OVERFLOW of R34 for a signal of the task's own (R443). -/
def semFault (core : Nat) (sem : BitVec 8) (pc : Va) : FaultInfo :=
  { cause := .semOverflow, pc := pc, info := BitVec.ofNat 64 (sem.toNat + 256 * (core % 256)) }

/-- What a signal stands for, by its point (R36): at `issue` nothing, at `done` its writes at core scope, at `vis` its writes at
module scope. -/
def State.pairFor (s : State) (c : Nat) (g : SigClause) (ids : List Nat) : State :=
  match g.pt with
  | .issue => s
  | .done => s.pairUp c g.sem .core ids
  | .vis => s.pairUp c g.sem .module ids

/-- Apply a signal of the task's own words, with the writes it stands for; on overflow the task faults and the word's other
effects stand (R34). -/
def State.ownSignal (s : State) (c : Nat) (e : Eng) (pc : Va) (g : SigClause) (ids : List Nat) : State :=
  match s.task c with
  | none => s
  | some t =>
    match (t.semOf g.sem).signalled (g.inc.setWidth 16 + 1) with
    | some x => (s.pairFor c g ids).setTask c (t.changeSem g.sem x)
    | none => s.takeFaultAt c e pc { semFault c g.sem pc with again := some (g, ids) }

/-! ## Running one word -/

/-- What a word's effect comes to: it completes; it has issued and completes when the tokens are met; it waits; an access
is refused and goes again (R433); it faults, and the restart point of the cause says where its strand goes on. -/
inductive Eff where
  | done (s : State)
  | pend (s : State) (until_ : List Token)
  | wait (s : State)
  | refused (s : State)
  | fault (s : State) (f : FaultInfo)
  | hole (pa : Nat)

/-- A word whose last access is refused or faults has done nothing: it goes again whole (R24, R433). -/
def Eff.whole (s : State) : Eff → Eff
  | .refused x => .refused { s with cur := x.cur }
  | .fault x f => .fault { s with mismatch := x.mismatch } f
  | r => r

/-- Keep the address of a refused access. (log 10 DEDUCED) -/
def State.refusedAt (s : State) (va : Nat) : State := { s with cur := { s.cur with addr := BitVec.ofNat 56 va } }
def Eff.ofStop (s : State) (x : XlStop) : Eff :=
  match x with
  | .hole pa => .hole pa
  | .refused va => .refused (s.refusedAt va)
  | .held => .wait s
  | x => .fault s x.info

/-- Whether a strand issues nothing: a fault or a stop has reached it, or its refused access waits (R438, R43, R433). The
stop may reach a strand other than the raising one late: a free value. A cause that no strand raised stops all at once.
(log 9 DEDUCED) -/
def State.heldBack (s : State) (t : Task) (e : Eng) : Bool :=
  let x := t.strand e
  x.ended || (t.faults.any fun f => f.strand == some e || f.strand.isNone || f.all) || (!t.faults.isEmpty && !Config.stopLate s.ctr) ||
    (match t.stopAt with
     | some (ep, p) => !(before x.epoch x.path ep p)
     | none => false) ||
    (match x.retry with
     | some r => !r.go
     | none => false)

/-- What a strand finds when its turn comes at a word of its own tag or of X. -/
inductive Gate where
  | over (s : State)
  | go (s : State) (t : Task) (x : Strand) (env : Env) (dep : Option Deposit)

/-- The operands a strand's word reads (R23): the S strand's registers live, another strand's from its deposit. -/
def Task.envOf (t : Task) (e : Eng) (x : Strand) (dep : Option Deposit) : Env :=
  match e, dep with
  | .s, _ => ⟨t.s, t.k, t.fpctl, t.rrb, t.prb, x.pc, e, t.runs, x.epoch, x.path⟩
  | _, some d => ⟨d.s, d.k, d.fpctl, d.rrb, d.prb, x.pc, e, t.runs, x.epoch, x.path⟩
  | _, none => { pc := x.pc, eng := e, runs := t.runs, epoch := x.epoch, path := x.path }

/-- The wait clause of a word is satisfied as its strand begins it (R32): the floor follows. -/
def Task.waitedFor (t : Task) (w : WaitClause) : Task := t.setSem w.sem ((t.semOf w.sem).waited w.thr)

/-- The conditions of R20 before a word issues, in order: the stop of a fault, the recalls of R107 at a word that is just
reached, the squash of R28, the
wait clause, which a strand evaluates when it reaches the word (R32), then the slip window, the control writes and, for a word
that needs one, the deposit of R23. A wait clause that is satisfied stays so, and what its signals stand for has happened
before the word (R36, R124). -/
def State.gate (s : State) (needs : Bool) : Gate :=
  let c := s.cur.core
  let e := s.cur.eng
  match s.task c with
  | none => .over s
  | some t =>
    let x := t.strand e
    if s.heldBack t e then .over s
    else
      match t.recalls, x.phase with
      | f :: r, .fresh => .over ((s.setTask c { t with recalls := r }).takeFault c e f)
      | _, _ =>
        let dep := t.depositAt x
        let clear := t.slipOk x && !t.ctlPending e x
        if x.squashed then .over (if clear then s.setTask c (t.fall e) else s)
        else
          let ready := clear && !(needs && e != .s && dep.isNone)
          match s.cur.clauses.wait, x.phase with
          | some w, .fresh =>
            if semMet (t.semOf w.sem).val w.thr then
              let u := t.waitedFor w
              let s := s.meetWait c e w.sem
              if ready then .go (s.setTask c u) u x (t.envOf e x dep) dep
              else .over (s.setTask c (u.setStrand e { x with phase := .begun, waiting := none }))
            else .over (s.setTask c (t.setStrand e { x with waiting := some (w.sem, w.thr) }))
          | some w, _ => if ready then .go (s.metOnce c e w.sem) t x (t.envOf e x dep) dep else .over s
          | none, _ => if ready then .go s t x (t.envOf e x dep) dep else .over s

/-- A word waits: its wait clause is not evaluated again (R32). -/
def State.stay (s : State) (c : Nat) (e : Eng) : State :=
  s.modTask c fun t =>
    let x := t.strand e
    if x.phase = .fresh then t.setStrand e { x with phase := .begun, waiting := none } else t

/-- A strand's refused access is noted (R433). (log 10 DEDUCED) -/
def State.noteRefusal (s : State) (c : Nat) (e : Eng) : State :=
  s.modTask c fun t =>
    let x := t.strand e
    t.setStrand e { x with
      retry := some (Retry.again x.retry (s.now (dieOf c)) s.cur.addr)
      phase := if x.phase = .fresh then .begun else x.phase, waiting := none }

/-- Queue the signal of a word that has issued but not completed, or whose writes another die has still to see (R33). -/
def State.signalLater (s : State) (c : Nat) (e : Eng) (pc : Va) (g : SigClause) (toks : List Token) (ids : List Nat) : State :=
  s.modTask c fun t => { t with sigs := t.sigs ++ [⟨g, e, pc, toks, ids⟩] }

/-- Writes that something a signal waits for has made: the signal stands for them (R33, R36). -/
def Task.addIds (t : Task) (k : Token) (ids : List Nat) : Task :=
  if ids.isEmpty then t
  else { t with sigs := t.sigs.map fun p => if p.until_.contains k then { p with ids := p.ids ++ ids } else p }

/-- Certain writes that have not reached their homes (R33, point vis). -/
def State.inFlight (s : State) (ids : List Nat) : List Token :=
  [0, 1].flatMap fun d =>
    match (s.flight d).reverse.find? fun w => ids.contains w.id with
    | some w => [.writes d (w.seq + 1)]
    | none => []

/-- The signal of a word that has made certain writes, with what it still waits for (R33): at `vis` those writes are seen by the
other die. -/
def State.signalFor (s : State) (c : Nat) (e : Eng) (pc : Va) (g : SigClause) (toks : List Token) (ids : List Nat) : State :=
  let l := match g.pt with
    | .issue => []
    | .done => toks
    | .vis => toks ++ s.inFlight ids
  if l.isEmpty then s.ownSignal c e pc g ids else s.signalLater c e pc g l ids
/-- The signal of a word that has just passed. -/
def State.signalWord (s : State) (c : Nat) (e : Eng) (pc : Va) (toks : List Token) : State :=
  match s.cur.clauses.sig with
  | none => s
  | some g => s.signalFor c e pc g toks (s.wroteLast c e)

/-- What comes of a word's effect. -/
def State.finish (c : Nat) (e : Eng) (pc : Va) : Eff → Host.Outcome State Fault Refusal
  | .done s => .next ((s.modTask c fun t => t.fall e).signalWord c e pc [])
  | .pend s toks => .next ((s.modTask c fun t => t.fall e).signalWord c e pc toks)
  | .wait s => .next (s.stay c e)
  | .refused s => .next (s.noteRefusal c e)
  | .fault s f => .next (s.takeFault c e f)
  | .hole pa => .fault (.physicalHole pa)

/-- The last FORK obeyed before the handler that runs was entered; of a task in no handler there is none. A word parked before then
is none that the handler's own words follow. -/
def Task.forkBase (t : Task) : Option Nat := t.saved.map fun k => k.strands.foldl (fun m x => max m x.2.epoch) 0
/-- A position belongs to what the task runs now, its handler or its program (R447). -/
def Task.inPart (t : Task) (epoch : Nat) : Bool := t.forkBase.all (· < epoch)
/-- A parked word of a strand, which is an M or an A word (R94), stands before its present one: its faults come first (R97). -/
def Task.parkedOwn (t : Task) (e : Eng) : Bool :=
  (e == .m || e == .a) && t.replay.any fun p => p.env.eng == e && t.inPart p.epoch
/-- The cause of a word whose strand has a parked word waits until that one has completed or faulted (R97). -/
def Eff.behind (s : State) (held : Bool) (r : Eff) : Eff :=
  match held, r with
  | true, .fault _ _ => .wait s
  | _, r => r

/-- Run a word of one strand; `needs` says that it reads s or k registers or depends on a text-order control register
(R20). -/
def State.runWord (s : State) (needs : Bool) (body : Env → State → Eff) : Host.Outcome State Fault Refusal :=
  match s.gate needs with
  | .over s => .next s
  | .go s t x env _ => State.finish s.cur.core s.cur.eng x.pc (Eff.behind s (t.parkedOwn s.cur.eng) (body env s))

/-! ## Running one X word -/

/-- What an X word does in one strand: the strand goes somewhere, falls through, waits or faults. -/
inductive XEff where
  | go (s : State) (x : Strand)
  | fall (s : State)
  | wait (s : State)
  | fault (s : State) (f : FaultInfo)

/-- The signal of an X word is applied when the last strand has obeyed it, at that moment for every point (R33). -/
def State.signalX (s : State) (c : Nat) (e : Eng) (x : Strand) : State :=
  match s.cur.clauses.sig, s.task c with
  | some g, some t =>
    if ((strandsOf t.kernel).all fun y => before x.epoch x.path (t.strand y).epoch (t.strand y).path) then
      s.ownSignal c e x.pc g []
    else s
  | _, _ => s

def State.finishX (c : Nat) (e : Eng) (x : Strand) : XEff → Host.Outcome State Fault Refusal
  | .go s y => .next ((s.modTask c fun t => t.moveTo e y).signalX c e x)
  | .fall s => .next ((s.modTask c fun t => t.fall e).signalX c e x)
  | .wait s => .next (s.stay c e)
  | .fault s f => .next (if (s.task c).any (·.parkedOwn e) then s.stay c e else s.takeFault c e f)

/-- Run an X word in the strand whose turn it is. `latched`: other strands need what the S strand records (R22). `eval`
is what the S strand records, none while it must wait. `inLoopm`: the word may stand in a LOOPM body (R30). -/
def State.runX (s : State) (latched inLoopm : Bool) (eval : Env → Task → Option (Bool × Va))
    (obey : Bool → Va → Env → Strand → State → XEff) : Host.Outcome State Fault Refusal :=
  let c := s.cur.core
  let e := s.cur.eng
  match (s.task c).map fun t => !inLoopm && !(s.heldBack t e) && (t.strand e).inLoopm.isSome with
  | some true => .next (if (s.task c).any (·.parkedOwn e) then s else s.takeFault c e { cause := .illegalOpcode })
  | _ =>
    match s.gate latched with
    | .over s => .next s
    | .go s t x env dep =>
      if e = .s then
        match eval env t with
        | none => .next (s.stay c e)
        | some (b, to_) =>
          let s1 := s.setTask c
            (if dep.isNone then t.addDeposit { t.snapshot with taken := b, target := to_ } else t)
          State.finishX c e x (match obey b to_ env x s1 with
            | .fault _ f => .fault s f
            | r => r)
      else
        match dep with
        | some d => State.finishX c e x (obey d.taken d.target env x s)
        | none => State.finishX c e x (obey false 0 env x s)

/-- FETCHB, which no other strand passes before the S strand has issued it (R215). -/
def isFetchb (w : IWord) : Bool := bits w 127 116 == 0x054

/-- A strand passes a word of another strand's tag (R20); the S strand deposits its values for it as it does (R23). -/
def State.skipWord (s : State) (c : Nat) (e : Eng) (w : IWord) : State :=
  match s.task c with
  | none => s
  | some t =>
    let x := t.strand e
    let y := t.strand .s
    if s.heldBack t e || !t.slipOk x || (isFetchb w && !(before x.epoch x.path y.epoch y.path)) then s
    else s.setTask c ((if e = .s then t.addDeposit t.snapshot else t).fall e)

/-- All strands go to an address as at a FORK (R25, R200): path counts 0, no loops, depth 0, empty window. -/
def Task.forkAll (t : Task) (pc : Va) : Task :=
  let ep := (t.live.foldl (fun m x => max m x.epoch) 0) + 1
  { (strandsOf t.kernel).foldl (fun t e => t.setStrand e { pc := pc, epoch := ep }) t with window := [] }

/-! ## Fault records (R443, R444, R486) -/

/-- The 512 bits of a record as it is written (R443). -/
def State.recordBits (s : State) (r : RecordOut) : BitVec 512 :=
  let f := r.info
  let label : BitVec 14 := f.label.getD (s.router r.die).lself
  let ctx : BitVec 12 := match r.ctx with
    | some n => BitVec.ofNat 12 n
    | none => 0xfff
  let strand : BitVec 4 := match f.strand with
    | some e => BitVec.ofNat 4 (Eng.num e)
    | none => 15
  s.now r.die ++ f.addr ++ 0#8 ++ f.info ++ f.pc ++ 0#8 ++ r.image ++ f.handle ++ ctx ++ 0#4 ++ r.asid ++ label ++ 0#2 ++
    r.mcore ++ f.queue ++ f.info2 ++ f.more ++ f.row ++ f.slot ++ BitVec.ofNat 8 f.origin ++ strand ++ r.cls ++
    BitVec.ofBool r.esc ++ BitVec.ofBool r.delivered ++ 0#7 ++ 1#1 ++ BitVec.ofNat 8 f.cause.code

/-- Claim an entry of a ring and write a record, or drop it and count it (R444). A header in a lost line cannot be read and the
record is dropped; an entry in one is taken as not free (R112). (log 50 DEDUCED) -/
def State.ringWrite (s : State) (ring log : Nat) (rec : BitVec 512) : State :=
  if s.lostIn ring 16 then s
  else
    let w := s.physNat ring 4
    let s := s.storeAtHome true ring (leBytes 4 (w + 1))
    let a := ring + 64 * (1 + w % (2 ^ log - 1))
    if s.lostIn a 64 || (s.physNat (a + 1) 1) % 2 = 1 then
      s.storeAtHome true (ring + 8) (leBytes 4 (s.physNat (ring + 8) 4 + 1))
    else s.storeAtHome true a (leBytes 64 rec.toNat)

/-- Write one record: to the Binnacle's log ring for class management, and to the context's ring when one is named
(R437, R486). (log 50 DEDUCED) -/
def State.writeRecord (s : State) (r : RecordOut) : State :=
  let rec_ := s.recordBits r
  let s := if r.cls = 2 then
      let s := s.ringWrite 0x9010100000 14 rec_
      { s with outbox := s.outbox ++ [.logRecord rec_] }
    else s
  match r.ctx with
  | some n => s.ringWrite (s.ctx n).fring (s.ctx n).frlog rec_
  | none => s

/-- The record of a fault of a task (R443). -/
def taskRecord (c : Nat) (t : Task) (f : FaultInfo) (cls : BitVec 2) (esc delivered : Bool) :
    RecordOut :=
  { ctx := t.ctx, die := dieOf c, info := f, cls := cls, esc := esc, delivered := delivered,
    image := BitVec.ofNat 32 t.image, mcore := BitVec.ofNat 8 c, asid := t.asid }

/-- Add 1 to sem0 of a die's kernel core, without the check of R34 (R437). -/
def State.kernelSignal (s : State) (die : Nat) : State :=
  (s.pairAll (kernelCore die) 0).modTask (kernelCore die) fun t =>
    let x := t.semOf 0
    t.changeSem 0 { x with val := x.val + 1 }

/-! ## The user handler (R445 to R448) -/

def Task.ufEn (t : Task) : Bool := t.ufentry.getLsbD 63
def Task.ufBusy (t : Task) : Bool := t.ufentry.getLsbD 62
def Task.ufFrame (t : Task) : Nat := bits t.ufentry 55 9 * 512

/-- The bytes of the frame from 128 up at entry (R446): the restart counters, SKIP, RRB, PRB, WIN, s1 to s7, s61, s62. -/
def Task.frameTail (t : Task) : List Byte :=
  ([Eng.s, .v, .m, .a, .f, .j].flatMap fun e => leBytes 8 (t.strand e).pc.toNat) ++ leBytes 8 0 ++
    leBytes 8 t.rrb.toNat ++ leBytes 8 t.prb.toNat ++ leBytes 8 t.win.toNat ++
    ([1, 2, 3, 4, 5, 6, 7, 61, 62].flatMap fun r => leBytes 8 (SMap.look 0 t.s r).toNat)

/-- What a part's own access has used up although it did not go through: the failed check it met (R111). -/
def State.afterFail (s x : State) : State := { s with mismatch := x.mismatch }
/-- Write several runs of bytes for a task, one after the other; the first failure ends it. -/
def State.writeRuns (s : State) (w : Who) : List (Nat × List Byte) → State × Option XlStop
  | [] => (s, none)
  | (a, b) :: l =>
    match s.writeRun w .wr a b with
    | (s, none) => s.writeRuns w l
    | r => r

/-- Enter the handler at UFENTRY with a fault (R447): HANDLER is read, the frame and the record written, the control state
saved, BUSY set, s1 and s2 written, RRB and PRB cleared, and all strands sent to HANDLER; where the task was to stop is asked
anew. The error is the state when the frame cannot be accessed or HANDLER is not a multiple of 16: of the frame nothing is
written. (log 26 DEDUCED, 50 DEDUCED) -/
def State.enterHandler (s : State) (c : Nat) (t : Task) (f : FaultInfo) : Except State State :=
  let w := t.who c
  let fr := t.ufFrame
  match s.readRun w .rd fr 8 with
  | (x, .ok h) =>
    let handler := leNat h
    if handler % 16 != 0 || 2 ^ 56 ≤ handler then .error (s.afterFail x)
    else
      let r := taskRecord c t f 0 false true
      let now := x.now (dieOf c)
      match x.writeRuns w [(fr + 8, leBytes 8 now.toNat), (fr + 64, leBytes 64 (x.recordBits r).toNat), (fr + 128, t.frameTail)] with
      | (x, some _) => .error (s.afterFail x)
      | (x, none) =>
        let x := x.writeRecord r
        let k : Ctrl := ⟨t.strands, t.window, t.rrb, t.prb, BitVec.ofNat 56 fr, now,
          if f.origin = 1 then f.strand.map fun e => (e, f.pc) else none, t.fseq, t.runs, x.jobSeq⟩
        let t := { t with
          faults := [], saved := some k, ufentry := t.ufentry ||| (1#64 <<< 62), rrb := 0, prb := 0
          stopAt := none, stopLive := none }
        let t := (t.sset 1 (BitVec.ofNat 64 fr)).sset 2 (BitVec.ofNat 64 f.cause.code)
        .ok (x.setTask c (t.forkAll (BitVec.ofNat 56 handler)))
  | (x, _) => .error (s.afterFail x)

/-- The contents of an instruction word that a core fetches (R216): where a patch is not complete one of those it may still
hold, whole. (log 18 DEDUCED) -/
def State.fetchWord (s : State) (c pa : Nat) : BitVec 128 :=
  match s.code.find? fun x => x.addr == pa with
  | none => s.wordAt (dieOf c) pa
  | some x =>
    let l := x.vers.drop (min (SMap.look 0 x.floor c) (x.vers.length - 1))
    l.getD (Config.fetchPick s.ctr pa % l.length) 0

/-- The 16 bytes of the word at an address, for the strand of a core, or why they cannot be fetched (R165). A word of another
module's memory is asked for there (R109, R427). -/
def State.fetch (s : State) (c : Nat) (t : Task) (pc : Va) : State × Except XlStop IWord :=
  let w : Who := { t.who c with near := some (.l1d c) }
  match s.pieces w .ex pc.toNat 16 with
  | (s, .error e) => (s, .error e)
  | (s, .ok ps) =>
    match s.takePieces w .ex pc.toNat ps with
    | (s, .error e) => (s, .error e)
    | (s, .ok b) =>
      match ps with
      | [.here pa _] => (s, .ok (s.fetchWord c pa))
      | _ => (s, .ok (BitVec.ofNat 128 (leNat b)))

/-- The engine tag of a word (R163). -/
def tagOf (w : IWord) : Nat := bits w 127 125

/-- A SKIP bit names a strand whose restart word is tagged for it, or whose parked word's fault was delivered (R448). -/
def State.skipOk (s : State) (c : Nat) (t : Task) (k : Ctrl) (e : Eng) : Bool :=
  (match k.parked with
   | some (e', _) => e' == e
   | none => false) ||
  match (s.fetch c t (SMap.look {} k.strands (Eng.num e)).pc).2 with
  | .ok w => tagOf w == Eng.num e
  | .error _ => false

/-- A strand passes its restart word without issuing it, or its replay entry is discarded (R448). -/
def Task.skipRestart (t : Task) (k : Ctrl) (e : Eng) : Task :=
  match k.parked with
  | some (e', pc) =>
    if e' == e then
      { t with replay := t.replay.eraseP fun w => w.env.eng == e && w.env.pc == pc }
    else t.fall e
  | none => t.fall e

/-- The return from the user handler (R448, steps 1 to 5), or the cause it faults with. -/
def State.leaveHandler (s : State) (c : Nat) (t : Task) (k : Ctrl) : State × Except XlStop (Except Cause Task) :=
  let w := t.who c
  let fr := k.frame.toNat
  match s.readRun w .rd (fr + 8) 8 with
  | (s, .error e) => (s, .error e)
  | (s, .ok tok) =>
    match s.readRun w .rd (fr + 176) 104 with
    | (s, .error e) => (s, .error e)
    | (s, .ok b) =>
      let q (i : Nat) : Nat := leNat ((b.drop (8 * i)).take 8)
      let skip := [Eng.s, .v, .m, .a, .f, .j].filter fun e => (q 0).testBit (Eng.num e)
      if leNat tok != k.token.toNat || 64 ≤ q 0 || skip.any (fun e => !s.skipOk c t k e) then (s, .ok (.error .frameInvalid))
      else
        let regs : List SReg := [1, 2, 3, 4, 5, 6, 7, 61, 62]
        let t := (regs.zip (List.range 9)).foldl (fun t x => t.sset x.1 (BitVec.ofNat 64 (q (x.2 + 4)))) t
        let t := { t with
          strands := k.strands
          window := k.window.map fun d => { d with fpctl := t.fpctl, ctl := d.ctl.filter fun x => x.csr == .mstat }
          rrb := BitVec.ofNat 10 (q 1 % 1024 % 640)
          prb := BitVec.ofNat 5 (q 2 % 32)
          win := BitVec.ofNat 13 (max 16 (min 4096 (q 3 % 2 ^ 13)))
          saved := none
          stopAt := none
          stopLive := none
          ufentry := t.ufentry &&& ~~~ (1#64 <<< 62) }
        (s, .ok (.ok (skip.foldl (fun t e => t.skipRestart k e) t)))

/-! ## Words by their tag; soft errors -/

/-- Whether a word is its strand's: its tag is the strand's or X; S takes the reserved tag too (R20, R24), and on a kernel
core every word (R382). -/
def wordIsFor (kernel : Bool) (e : Eng) (tag : Nat) : Bool :=
  tag == Eng.num e || tag == 7 || (e == .s && (tag == 6 || kernel))

/-- Decoding at a level; a kernel core runs S and X words alone (R382). -/
def decodeFor (kernel : Bool) (w : IWord) : Except Cause (Clauses × Instr) :=
  let tag := tagOf w
  if kernel && 1 ≤ tag && tag ≤ 5 then .error .illegalOpcode else decode kernel w

/-- A management record with no context (R437). -/
def State.manage (s : State) (die : Nat) (f : FaultInfo) : State :=
  s.writeRecord { ctx := none, die := die, info := { f with origin := 9 }, cls := 2 }

/-- Record lines as lost (R112). (log 51 DEDUCED) -/
def State.loseLines (s : State) (die : Nat) (row : BitVec 64) (l : List Nat) : State :=
  l.foldl (fun s x =>
    if s.lost.contains x then s
    else { s with lost := x :: s.lost }.manage die { cause := .lineLost, addr := BitVec.ofNat 56 (x * 64), info := row }) s

/-- A soft error (R110 to R112): corrected and reported, met by the next transfer, a line of device memory lost, or a tile
dropped, with its lines lost when it was dirty. (log 51 DEDUCED) -/
def State.strike (s : State) (u : Upset) : State :=
  match u with
  | .corrected die row =>
    { s with corrected := SMap.put 0 s.corrected die (SMap.look 0 s.corrected die + 1) }.manage die
      { cause := .correctedError, info := BitVec.ofNat 64 (row % 7) }
  | .mismatch => { s with mismatch := true }
  | .lostLine l => if l * 64 < hbmEnd then s.loseLines (homeDie (l * 64)) 0 [l] else s
  | .badTile c set way =>
    match (s.core c).tiles.find? fun t => tileSet t.name.slot t.name.k == set && t.way == way with
    | none => s
    | some t =>
      let lines := (s.dirty.filter fun d => d.2.1 == c && d.2.2 == t.name).map (·.1)
      let s := (s.unregister c t.name).setCore c ((s.core c).dropTile t.name)
      if t.dirty then s.loseLines (dieOf c) 2 lines else s

/-! ## Deferred failures (R320) -/

/-- The earliest recorded failure as a fault taken at a word, with the rest counted and discarded (R320). -/
def Task.takeDeferred (t : Task) (at_ : Va) : Option (FaultInfo × Task) :=
  let first := t.defer.foldl (fun b d => match b with
    | none => some d
    | some x => if d.order < x.order then some d else some x) (none : Option Deferred)
  first.map fun d =>
    ({ cause := d.cause, origin := 4, pc := d.pc, addr := d.addr, info := at_.setWidth 64, info2 := d.group.setWidth 64, label := d.label,
       more := BitVec.ofNat 16 (min 65535 (t.defer.length - 1)) }, { t with defer := [] })

/-- The words a handler issued have completed locally (R448): none of its words is parked, none of its F words, generator runs
or jobs is in progress. -/
def State.handlerDone (s : State) (c : Nat) (t : Task) (k : Ctrl) : Bool :=
  let ep := k.strands.foldl (fun m x => max m x.2.epoch) 0
  t.replay.all (fun w => w.epoch ≤ ep) &&
    s.reqs.all (fun r => !(r.core == c && r.image == t.image && k.fseq ≤ r.order)) &&
    t.groups.all (fun g => !(g.2.st == .busy && k.fseq ≤ g.2.req)) &&
    t.gens.all (fun g => !(g.2.mode == .running && k.runs < g.2.run)) &&
    s.jobs.all (fun j => !(j.code == 0 && k.jseq ≤ j.seq && some j.ctx == t.ctx && t.jobs.contains j.handle.toNat))

end Machine

end Sys2Proof
end

