-- ==== Sys2Proof/Machine/Flags.lean ====
section
/-! DEFINITION. The arithmetic flags (03, R56, R59) and the traps they raise (R57, R58). -/

namespace Sys2Proof.Machine

/-- The six flags in the order of FPSTAT (R59). -/
abbrev FFlags := BitVec 6

def flIV : FFlags := 1
def flDZ : FFlags := 2
def flOF : FFlags := 4
def flUF : FFlags := 8
def flNX : FFlags := 16
def flRNG : FFlags := 32

/-- The enables of FPCTL in the order of FPSTAT (R58). -/
def trapEnables (fpctl : Word) : FFlags := fpctl.extractLsb' 8 6

/-- The cause of the highest-priority flag among those that trap (R57). -/
def trapCause (fl : FFlags) : Option Cause :=
  if fl.getLsbD 0 then some .fpInvalid
  else if fl.getLsbD 1 then some .fpDivzero
  else if fl.getLsbD 2 then some .fpOverflow
  else if fl.getLsbD 3 then some .fpUnderflow
  else if fl.getLsbD 4 then some .fpInexact
  else if fl.getLsbD 5 then some .trigRange
  else none

/-- FPCTL.FTZ (R58). -/
def ftzOf (fpctl : Word) : Bool := fpctl.getLsbD 3

/-- A write of FPCTL keeps its fields, and an RM of 101 to 111 stores 000 (R58). -/
def writeFpctl (v : Word) : Word :=
  let w := v &&& 0x3f1f
  if 5 ≤ bits w 2 0 then w &&& ~~~ 7 else w

/-- A state of an LFSR that would be zero is stored as 1 (R55). -/
def lfsrFix (v : BitVec 32) : BitVec 32 := if v = 0 then 1 else v

/-- One step of the LFSR (R54). -/
def lfsrStep (v : BitVec 32) : BitVec 32 := if v.getLsbD 0 then (v >>> 1) ^^^ 0x80200003 else v >>> 1
def lfsrSteps : Nat → BitVec 32 → BitVec 32
  | 0, v => v
  | n + 1, v => lfsrSteps n (lfsrStep v)
/-- The 16 random bits of an element (R54). -/
def lfsrU (v : BitVec 32) (i : Nat) : Nat :=
  (((v ^^^ BitVec.ofNat 32 (i * 0x00010001)) * 0x9e3779b1).extractLsb' 16 16).toNat

end Sys2Proof.Machine
end

