-- ==== Sys2Proof/Machine/Numbers.lean ====
section
/-! DEFINITION. Number formats and arithmetic (03): the formats of R45, one rounding of an exact value (R51 to R56), sums,
products, quotients, square roots and conversions (R62 to R64). Values are computed exactly and rounded once. -/

namespace Sys2Proof.Machine

/-! ## Formats (R45) -/

/-- Exponent bits, fraction bits and bias of a floating format. -/
structure Fmt where
  eb : Nat
  fb : Nat
  bias : Int
  deriving DecidableEq, Repr

def fmtOf : ETy → Fmt
  | .f16 => ⟨5, 10, 15⟩
  | .bf16 => ⟨8, 7, 127⟩
  | .e4m3 => ⟨4, 3, 7⟩
  | .e5m2 => ⟨5, 2, 15⟩
  | .e2m1 => ⟨2, 1, 1⟩
  | _ => ⟨8, 23, 127⟩

/-- Whether a type has infinities (R45). -/
def hasInf : ETy → Bool
  | .f32 | .f16 | .bf16 | .e5m2 => true
  | _ => false

/-- The types that FTZ touches (R47). -/
def ftzTy : ETy → Bool
  | .f32 | .f16 | .bf16 => true
  | _ => false

/-- The default NaN; e2m1 has none, and R50 and R62 give +0 in its place. -/
def defaultNaN : ETy → Nat
  | .f32 => 0x7fc00000
  | .f16 => 0x7e00
  | .bf16 => 0x7fc0
  | .e4m3 => 0x7f
  | .e5m2 => 0x7e
  | .e8m0 => 0xff
  | _ => 0

/-- The largest finite value (R45). -/
def maxBits : ETy → Nat
  | .f32 => 0x7f7fffff
  | .f16 => 0x7bff
  | .bf16 => 0x7f7f
  | .e4m3 => 0x7e
  | .e5m2 => 0x7b
  | .e2m1 => 7
  | _ => 0xfe

/-- A finite value in exact form: ± (mant + something below 1 when sticky) × 2^exp. -/
structure Exact where
  neg : Bool
  mant : Nat
  exp : Int
  sticky : Bool := false
  deriving DecidableEq, Repr

/-- What an element holds. -/
inductive FVal where
  | nan (signalling : Bool)
  | inf (neg : Bool)
  | fin (x : Exact)
  deriving DecidableEq, Repr

def Exact.isZero (x : Exact) : Bool := x.mant == 0 && !x.sticky
def FVal.isZero : FVal → Bool
  | .fin x => x.isZero
  | _ => false
def FVal.isNaN : FVal → Bool
  | .nan _ => true
  | _ => false
def FVal.isSNaN : FVal → Bool
  | .nan b => b
  | _ => false
def FVal.isInf : FVal → Bool
  | .inf _ => true
  | _ => false
def FVal.neg : FVal → FVal
  | .nan b => .nan b
  | .inf n => .inf !n
  | .fin x => .fin { x with neg := !x.neg }
def FVal.sign : FVal → Bool
  | .nan _ => false
  | .inf n => n
  | .fin x => x.neg

/-- The value of an element of a floating type (R45); with `ftz`, a subnormal reads as a zero of its sign (R47). -/
def unpack (t : ETy) (ftz : Bool) (b : Nat) : FVal :=
  if t = .e8m0 then
    if b % 256 = 255 then .nan false else .fin ⟨false, 1, (b % 256 : Nat) - 127, false⟩
  else
    let f := fmtOf t
    let neg := b.testBit (f.eb + f.fb)
    let e := field b (f.eb + f.fb - 1) f.fb
    let m := field b (f.fb - 1) 0
    let top := 2 ^ f.eb - 1
    if hasInf t && e = top then
      if m = 0 then .inf neg else .nan (ftzTy t && !m.testBit (f.fb - 1))
    else if t = .e4m3 && e = top && m = 7 then .nan false
    else if e = 0 then
      if ftz && ftzTy t then .fin ⟨neg, 0, 0, false⟩ else .fin ⟨neg, m, 1 - f.bias - f.fb, false⟩
    else .fin ⟨neg, 2 ^ f.fb + m, (e : Int) - f.bias - f.fb, false⟩

/-! ## Rounding (R51 to R53, R56) -/

/-- The modes of R51 once RM is known; `rsr` carries the element's 16 random bits. -/
inductive Mode where
  | rne | rtz | rup | rdn
  | rsr (u : Nat)
  deriving DecidableEq, Repr

/-- A magnitude mant × 2^exp (plus a bit when sticky) in units of 2^q: the count after rounding, and whether it was
inexact. -/
def roundUnits (m : Mode) (x : Exact) (q : Int) : Nat × Bool :=
  if q ≤ x.exp then (x.mant * 2 ^ (x.exp - q).toNat, x.sticky)
  else
    let sh := (q - x.exp).toNat
    let k := x.mant / 2 ^ sh
    let r := x.mant % 2 ^ sh
    let inexact := r != 0 || x.sticky
    let half := 2 ^ (sh - 1)
    let up := match m with
      | .rne => half < r || (r = half && (x.sticky || k % 2 = 1))
      | .rtz => false
      | .rup => inexact && !x.neg
      | .rdn => inexact && x.neg
      | .rsr u => 2 ^ 16 ≤ r * 2 ^ 16 / 2 ^ sh + u
    (if up then k + 1 else k, inexact)

def signBit (t : ETy) (neg : Bool) : Nat := if neg then 2 ^ ((fmtOf t).eb + (fmtOf t).fb) else 0

/-- The bits of an infinity. -/
def infBits (t : ETy) (neg : Bool) : Nat := signBit t neg + (2 ^ (fmtOf t).eb - 1) * 2 ^ (fmtOf t).fb

/-- A result beyond the largest finite value (R52, R62); e4m3 without SAT gives its NaN and the overflow flag alone. -/
def overflowed (t : ETy) (m : Mode) (sat neg : Bool) : Nat × FFlags :=
  if sat || t = .e2m1 then (signBit t neg + maxBits t, flOF ||| flNX)
  else if t = .e4m3 then (0x7f, flOF)
  else
    let toInf := match m with
      | .rne | .rsr _ => true
      | .rtz => false
      | .rup => !neg
      | .rdn => neg
    (if toInf then infBits t neg else signBit t neg + maxBits t, flOF ||| flNX)

/-- The encoding of k × 2^q, whose k has at most fb + 1 bits, and a zero k the sign alone. -/
def encodeUnits (t : ETy) (neg : Bool) (k : Nat) (q : Int) : Nat :=
  let f := fmtOf t
  signBit t neg + (if k < 2 ^ f.fb then k else (q + f.bias + f.fb).toNat * 2 ^ f.fb + (k - 2 ^ f.fb))

/-- Round an exact finite value once to a type (R51 to R53), with the flags of R56 and the flush of R47. (log 16 DEDUCED) -/
def roundTo (t : ETy) (m : Mode) (sat ftz : Bool) (x : Exact) : Nat × FFlags :=
  if x.isZero then (signBit t x.neg, 0)
  else
    let f := fmtOf t
    let e : Int := (x.mant.log2 : Int) + x.exp
    let emin : Int := 1 - f.bias
    let q := max e emin - f.fb
    let (k, inexact) := roundUnits m x q
    let (k, q) := if k = 2 ^ (f.fb + 1) then (2 ^ f.fb, q + 1) else (k, q)
    let top : Int := if hasInf t then 2 ^ f.eb - 2 else 2 ^ f.eb - 1
    let big : Bool := (2 ^ f.fb ≤ k && top < q + f.bias + f.fb) ||
      (t = .e4m3 && q + f.bias + f.fb = 15 && k = 15)
    if big then overflowed t m sat x.neg
    else
      let tiny : Bool := e < emin &&
        (let (k', _) := roundUnits m x (e - f.fb)
         e + 1 < emin || k' < 2 ^ (f.fb + 1))
      let fl := (if inexact then flNX else 0) ||| (if inexact && tiny then flUF else 0)
      if ftz && ftzTy t && k != 0 && k < 2 ^ f.fb then (signBit t x.neg, flUF ||| flNX)
      else (encodeUnits t x.neg k q, fl)

/-! ## Results before rounding -/

/-- The outcome of an operation: the default NaN, an infinity or an exact value, with the flags raised so far. -/
structure Res where
  val : FVal
  fl : FFlags := 0
  deriving DecidableEq, Repr

/-- Deliver a result in a type (R46, R62). -/
def Res.to (r : Res) (t : ETy) (m : Mode) (sat ftz : Bool) : Nat × FFlags :=
  match r.val with
  | .nan _ => (defaultNaN t, r.fl)
  | .inf n =>
    if sat || t = .e2m1 then (signBit t n + maxBits t, r.fl ||| flOF ||| flNX)
    else if t = .e4m3 then (0x7f, r.fl ||| flOF)
    else (infBits t n, r.fl)
  | .fin x =>
    let (b, fl) := roundTo t m sat ftz x
    (b, r.fl ||| fl)

def invalidRes : Res := ⟨.nan false, flIV⟩
/-- The default NaN for NaN operands; invalid when one is signalling (R46). -/
def nanRes (l : List FVal) : Res := ⟨.nan false, if l.any FVal.isSNaN then flIV else 0⟩

/-- Deliver the result of an arithmetic word (R235): SAT stands in for an infinity that rounding made, never for an exact
one. -/
def Res.arith (r : Res) (t : ETy) (m : Mode) (sat ftz : Bool) : Nat × FFlags :=
  match r.val with
  | .inf n => (infBits t n, r.fl)
  | _ => r.to t m sat ftz

/-- The exact sum; the sign of an exact zero by R46. -/
def addExact (rdn : Bool) (x y : Exact) : Exact :=
  if x.isZero && y.isZero then ⟨if x.neg == y.neg then x.neg else rdn, 0, 0, false⟩
  else
    let e := min x.exp y.exp
    let a : Int := (x.mant * 2 ^ (x.exp - e).toNat : Nat)
    let b : Int := (y.mant * 2 ^ (y.exp - e).toNat : Nat)
    let v := (if x.neg then -a else a) + (if y.neg then -b else b)
    if v = 0 then ⟨rdn, 0, 0, false⟩ else ⟨v < 0, v.natAbs, e, false⟩

def addVal (rdn : Bool) (a b : FVal) : Res :=
  match a, b with
  | .nan _, _ | _, .nan _ => nanRes [a, b]
  | .inf m, .inf n => if m == n then ⟨.inf m, 0⟩ else invalidRes
  | .inf m, _ => ⟨.inf m, 0⟩
  | _, .inf n => ⟨.inf n, 0⟩
  | .fin x, .fin y => ⟨.fin (addExact rdn x y), 0⟩

def mulExact (x y : Exact) : Exact := ⟨x.neg != y.neg, x.mant * y.mant, x.exp + y.exp, false⟩

def mulVal (a b : FVal) : Res :=
  match a, b with
  | .nan _, _ | _, .nan _ => nanRes [a, b]
  | .inf m, .inf n => ⟨.inf (m != n), 0⟩
  | .inf m, .fin y => if y.isZero then invalidRes else ⟨.inf (m != y.neg), 0⟩
  | .fin x, .inf n => if x.isZero then invalidRes else ⟨.inf (x.neg != n), 0⟩
  | .fin x, .fin y => ⟨.fin (mulExact x y), 0⟩

/-- The product of the MULZ forms: a zero multiplicand makes it +0 with no flag (R63). -/
def mulzVal (a b : FVal) : Res :=
  if a.isZero || b.isZero then ⟨.fin ⟨false, 0, 0, false⟩, 0⟩ else mulVal a b

/-- a product plus c: a NaN product passes on as the default NaN, with the flags of both steps. (log 16 DEDUCED) -/
def fmaVal (rdn : Bool) (p : Res) (c : FVal) : Res :=
  let r := addVal rdn p.val c
  ⟨r.val, r.fl ||| p.fl⟩

/-- The exact quotient to at least 64 bits (R64). -/
def divExact (x y : Exact) : Exact :=
  let sh := 66 + y.mant.log2
  let n := x.mant * 2 ^ sh
  ⟨x.neg != y.neg, n / y.mant, x.exp - y.exp - sh, n % y.mant != 0⟩

def divVal (a b : FVal) : Res :=
  match a, b with
  | .nan _, _ | _, .nan _ => nanRes [a, b]
  | .inf _, .inf _ => invalidRes
  | .inf m, .fin y => ⟨.inf (m != y.neg), 0⟩
  | .fin x, .inf n => ⟨.fin ⟨x.neg != n, 0, 0, false⟩, 0⟩
  | .fin x, .fin y =>
    if y.isZero then
      if x.isZero then invalidRes else ⟨.inf (x.neg != y.neg), flDZ⟩
    else if x.isZero then ⟨.fin ⟨x.neg != y.neg, 0, 0, false⟩, 0⟩
    else ⟨.fin (divExact x y), 0⟩

/-- The integer square root, one bit at a time from bit `b` − 1 down. -/
def isqrtGo (n : Nat) : Nat → Nat → Nat
  | 0, r => r
  | b + 1, r => if (r + 2 ^ b) * (r + 2 ^ b) ≤ n then isqrtGo n b (r + 2 ^ b) else isqrtGo n b r
def isqrt (n : Nat) : Nat := isqrtGo n (n.log2 / 2 + 1) 0

/-- The exact square root to at least 64 bits (R64). -/
def sqrtExact (x : Exact) : Exact :=
  let sh : Nat := 130 + (x.exp % 2).toNat
  let n := x.mant * 2 ^ sh
  let r := isqrt n
  ⟨false, r, (x.exp - sh) / 2, r * r != n⟩

def sqrtVal (a : FVal) : Res :=
  match a with
  | .nan _ => nanRes [a]
  | .inf true => invalidRes
  | .inf false => ⟨.inf false, 0⟩
  | .fin x =>
    if x.isZero then ⟨.fin x, 0⟩ else if x.neg then invalidRes else ⟨.fin (sqrtExact x), 0⟩

/-! ## Comparing -/

/-- The order of two finite values. -/
def cmpExact (x y : Exact) : Ordering :=
  let e := min x.exp y.exp
  let a : Int := (x.mant * 2 ^ (x.exp - e).toNat : Nat)
  let b : Int := (y.mant * 2 ^ (y.exp - e).toNat : Nat)
  compare (if x.neg then -a else a) (if y.neg then -b else b)

/-- The order of two values neither of which is NaN; zeros are equal. -/
def cmpVal (a b : FVal) : Ordering :=
  match a, b with
  | .inf m, .inf n => compare n.toNat m.toNat
  | .inf m, _ => if m then .lt else .gt
  | _, .inf n => if n then .gt else .lt
  | .fin x, .fin y => cmpExact x y
  | _, _ => .eq

/-! ## Conversions (R62) -/

/-- The range of an integer type. -/
def intLo (t : ETy) : Int := if t.isSigned then -(2 ^ (t.width - 1) : Nat) else 0
def intHi (t : ETy) : Int := if t.isSigned then (2 ^ (t.width - 1) : Nat) - 1 else (2 ^ t.width : Nat) - 1
/-- The integer an element holds. -/
def intVal (t : ETy) (b : Nat) : Int := if t.isSigned then sval t.width b else (b % 2 ^ t.width : Nat)

/-- An integer as an exact value. -/
def exactInt (v : Int) : Exact := ⟨v < 0, v.natAbs, 0, false⟩

/-- A float to an integer type: rounded, then clamped with the invalid flag. -/
def toInt (t : ETy) (m : Mode) (a : FVal) : Nat × FFlags :=
  match a with
  | .nan _ => (0, flIV)
  | .inf n => (wrapInt t.width (if n then intLo t else intHi t), flIV)
  | .fin x =>
    let (k, inexact) := roundUnits m x 0
    let v : Int := if x.neg then -(k : Int) else k
    if v < intLo t || intHi t < v then (wrapInt t.width (clampInt v (intLo t) (intHi t)), flIV)
    else (wrapInt t.width v, if inexact then flNX else 0)

/-- A conversion of one element (R62), of any pair of types; a wider integer is an extension by the source's signedness,
whatever SAT (R244). With `ftz`, R47 applies among f32, f16 and bf16. -/
def convert (dst src : ETy) (m : Mode) (sat ftz : Bool) (b : Nat) : Nat × FFlags :=
  if src.isInt then
    let v := intVal src b
    if dst.isInt then
      (wrapInt dst.width (if sat && dst.width ≤ src.width then clampInt v (intLo dst) (intHi dst) else v), 0)
    else roundTo dst m sat false (exactInt v)
  else
    let z := ftz && ftzTy src && ftzTy dst
    let a := unpack src z b
    if dst.isInt then toInt dst m (unpack src false b)
    else
      match a with
      | .nan sn => (defaultNaN dst, if sn || dst = .e2m1 then flIV else 0)
      | a => Res.to ⟨a, 0⟩ dst m sat z

/-- A value in f32 bits rounded to nearest even, without flags: what the array and the attention stage use (R72, R75). -/
def Res.f32 (r : Res) : Nat := (r.to .f32 .rne false false).1
def f32Val (b : Nat) : FVal := unpack .f32 false b
def addF32 (a b : Nat) : Nat := (addVal false (f32Val a) (f32Val b)).f32
def mulF32 (a b : Nat) : Nat := (mulVal (f32Val a) (f32Val b)).f32
def divF32 (a b : Nat) : Nat := (divVal (f32Val a) (f32Val b)).f32

end Sys2Proof.Machine
end

