-- ==== Sys2Proof/Machine/Operands.lean ====
section
/-! DEFINITION. The operand forms of the V strand (09, R227 to R232): lanes, predicates, vector registers under the
rotating bases, queue heads and store-queue tails; the clauses that every V word shares, with the traps of R57. -/

namespace Sys2Proof

/-! ## Which words wait for the S strand (R20) -/

def rotV (n : BitVec 10) : Bool := 128 ≤ n.toNat
def rotP (p : PReg) : Bool := 32 ≤ p.toNat
def VSrc.rot : VSrc → Bool
  | .reg n => rotV n
  | _ => false
def VDst.rot : VDst → Bool
  | .reg n => rotV n
  | _ => false

def VDst.isReg : VDst → Bool
  | .reg _ => true
  | .push _ => false
namespace Machine

/-! ## Lanes (R227) -/

/-- Lane `i` at width `w`. -/
def laneAt (w : Nat) (v : Vec) (i : Nat) : Nat := v.toNat / 2 ^ (w * i) % 2 ^ w
/-- The number whose lanes at width `w` are the list, lowest first. -/
def packLanes (w : Nat) : List Nat → Nat
  | [] => 0
  | x :: l => x % 2 ^ w + 2 ^ w * packLanes w l
def vecOf (w : Nat) (l : List Nat) : Vec := BitVec.ofNat 2048 (packLanes w l)

/-! ## Predicates (R227 to R229) -/

/-- A predicate under PRB; p0 reads all-true. -/
def Task.pread (t : Task) (prb : BitVec 5) (p : PReg) : BitVec 128 := t.pphys (physP prb p)
/-- A write to p0 is discarded (R229). -/
def Task.pwrite (t : Task) (prb : BitVec 5) (p : PReg) (v : BitVec 128) : Task :=
  if physP prb p = 0 then t else { t with p := SMap.put 0 t.p (physP prb p) v }

/-- The governing bit of a lane at width `w`. -/
def govBit (w i : Nat) : Nat := if w = 32 then 2 * i else if w = 16 then i else i / 2
def laneActive (w : Nat) (p : BitVec 128) (i : Nat) : Bool := p.getLsbD (govBit w i)

/-- The result of R228 lane by lane: `res` for active lanes; a store queue takes zero in the others. -/
def mergeLanes (w : Nat) (p : BitVec 128) (z isReg : Bool) (old : Vec) (res : Nat → Nat) : Vec :=
  vecOf w ((List.range (2048 / w)).map fun i =>
    if laneActive w p i then res i else if isReg && !z then laneAt w old i else 0)

/-- A predicate result by lanes (R229). -/
def mergePred (w : Nat) (p : BitVec 128) (z : Bool) (old : BitVec 128) (r : Nat → Bool) : BitVec 128 :=
  BitVec.ofNat 128 (packLanes 1 ((List.range 128).map fun i =>
    let lane := if w = 32 then i / 2 else if w = 16 then i else 2 * i
    if laneActive w p lane then
      if w = 8 then (r lane && r (lane + 1)).toNat else (r lane).toNat
    else if z then 0 else (old.getLsbD i).toNat))

/-! ## Registers and queues (R29, R230) -/

def Task.vread (t : Task) (rrb : BitVec 10) (n : BitVec 10) : Vec := SMap.look 0 t.v (physV rrb n)
def Task.vwrite (t : Task) (rrb : BitVec 10) (n : BitVec 10) (x : Vec) : Task :=
  { t with v := SMap.put 0 t.v (physV rrb n) x }
def Task.queueOf (t : Task) (q : Nat) : List Vec := SMap.look [] t.q q
def Task.setQueueOf (t : Task) (q : Nat) (l : List Vec) : Task := { t with q := SMap.put [] t.q q l }

/-- The value of a source, none when its queue is empty. -/
def Task.source (t : Task) (rrb : BitVec 10) (x : VSrc) : Option Vec :=
  match x with
  | .reg n => some (t.vread rrb n)
  | .pop q | .peek q => (t.queueOf q.toNat).head?

/-- The queues that a word pops, each once. -/
def popsOf (l : List VSrc) : List Nat :=
  (l.filterMap fun x => match x with
    | .pop q => some q.toNat
    | _ => none).eraseDups
def Task.popQueues (t : Task) (l : List Nat) : Task :=
  l.foldl (fun t q => t.setQueueOf q (t.queueOf q).tail) t

/-- The field number of a store queue (R167). -/
def storeQ (w : BitVec 2) : Nat := 8 + w.toNat
/-- Room in a store queue for `n` more entries (R230). -/
def Task.hasRoom (t : Task) (d : VDst) (n : Nat) : Bool :=
  match d with
  | .reg _ => true
  | .push w => (t.queueOf (storeQ w)).length + n ≤ 16
/-- Write a destination. -/
def Task.put (t : Task) (rrb : BitVec 10) (d : VDst) (x : Vec) : Task :=
  match d with
  | .reg n => t.vwrite rrb n x
  | .push w => t.setQueueOf (storeQ w) (t.queueOf (storeQ w) ++ [x])
def Task.oldOf (t : Task) (rrb : BitVec 10) (d : VDst) : Vec :=
  match d with
  | .reg n => t.vread rrb n
  | .push _ => 0

/-! ## Rounding modes at a word (R51, R54) -/

/-- The mode of a word once RM is known; a stochastic one advances the V strand's LFSR by 32 steps (R54). -/
structure RoundAt where
  code : Nat
  lfsr : BitVec 32

def rndCode (r : Rnd) (fpctl : Word) : Nat :=
  match r with
  | .rne => 0 | .rtz => 1 | .rup => 2 | .rdn => 3 | .rsr => 4
  | .dyn => bits fpctl 2 0
def roundAt (r : Rnd) (fpctl : Word) (lfsr : BitVec 32) : RoundAt :=
  let c := rndCode r fpctl
  ⟨c, if c = 4 then lfsrSteps 32 lfsr else lfsr⟩
/-- The mode for an element. -/
def RoundAt.mode (r : RoundAt) (i : Nat) : Mode :=
  match r.code with
  | 0 => .rne | 1 => .rtz | 2 => .rup | 3 => .rdn | 4 => .rsr (lfsrU r.lfsr i)
  | _ => .rne
/-- Stochastic modes round to nearest even in the reductions (R257). -/
def RoundAt.plain (r : RoundAt) : Mode := if r.code = 4 then .rne else r.mode 0
def RoundAt.down (r : RoundAt) : Bool := r.code == 3

def Task.vst (t : Task) : BitVec 32 := t.lseed.extractLsb' 0 32
def Task.setVst (t : Task) (x : BitVec 32) : Task :=
  { t with lseed := t.lseed.extractLsb' 32 32 ++ lfsrFix x }

/-! ## One V word -/

/-- What a V word does beside its pops: vectors and a predicate to write, flags, and the LFSR it leaves. -/
structure VOut where
  puts : List (VDst × Vec) := []
  pred : Option (PReg × BitVec 128) := none
  fl : FFlags := 0
  lfsr : Option (BitVec 32) := none

/-- Run a V word (R230, R231, R57): it waits for the entries and the room it needs; on a trap its flags alone are kept;
else its results are written and its queues popped, all at once. `room` counts the entries each store queue takes. -/
def State.runV (s : State) (needs : Bool) (srcs : List VSrc) (dst : Option VDst) (room : Nat)
    (body : Env → Task → List Vec → Except Cause VOut) : Host.Outcome State Fault Refusal :=
  s.runWord needs fun env s =>
    let c := s.cur.core
    match s.task c with
    | none => .wait s
    | some t =>
      let ready := match dst with
        | some d => t.hasRoom d room
        | none => true
      match ready, srcs.mapM (t.source env.rrb) with
      | true, some vals =>
        match body env t vals with
        | .error k => .fault s { cause := k }
        | .ok o =>
          let t' := { t with fpstat := t.fpstat ||| o.fl.setWidth 64 }
          match trapCause (o.fl &&& trapEnables env.fpctl) with
          | some k => .fault (s.setTask c t') { cause := k, info := o.fl.setWidth 64 }
          | none =>
            let t' := o.puts.foldl (fun t x => t.put env.rrb x.1 x.2) (t'.popQueues (popsOf srcs))
            let t' := match o.pred with
              | some (p, v) => t'.pwrite env.prb p v
              | none => t'
            let t' := match o.lfsr with
              | some x => t'.setVst x
              | none => t'
            .done (s.setTask c t')
      | _, _ => .wait s

/-- A word whose lanes are functions of its sources' lanes, without flags (moves, integers, bit operations). -/
def State.laneWord (s : State) (ty : ETy) (d : VDst) (pr : VPred) (srcs : List VSrc) (needs : Bool)
    (f : Env → Task → (BitVec 128) → List Vec → Nat → Nat) : Host.Outcome State Fault Refusal :=
  s.runV (needs || d.rot || rotP pr.p || srcs.any VSrc.rot) srcs (some d) 1 fun env t vals =>
    let p := t.pread env.prb pr.p
    .ok { puts := [(d, mergeLanes ty.width p pr.z d.isReg (t.oldOf env.rrb d) (f env t p vals))] }

/-- A floating lane word: its active lanes' results are formed with their flags (R228, R232, R56). -/
def State.floatWord (s : State) (ty : ETy) (d : VDst) (pr : VPred) (srcs : List VSrc) (rm : Rnd)
    (f : RoundAt → Bool → List Vec → Nat → Nat × FFlags) : Host.Outcome State Fault Refusal :=
  s.runV true srcs (some d) 1 fun env t vals =>
    let p := t.pread env.prb pr.p
    let r := roundAt rm env.fpctl t.vst
    let w := ty.width
    let out := (List.range ty.lanes).map fun i =>
      if laneActive w p i then f r (ftzOf env.fpctl) vals i
      else (if d.isReg && !pr.z then laneAt w (t.oldOf env.rrb d) i else 0, 0)
    .ok { puts := [(d, vecOf w (out.map (·.1)))], fl := out.foldl (fun a x => a ||| x.2) 0,
          lfsr := if r.code = 4 then some r.lfsr else none }

end Machine

end Sys2Proof
end

