-- ==== Sys2Proof/Machine/Scalar.lean ====
section
/-! DEFINITION. The integer, bit and address words of the S strand (08, R195, R203, R204) and its coordinate registers
(R222). -/

namespace Sys2Proof.Machine

/-- A word that writes one s register with a function of the s registers (R203). -/
def State.scalar (s : State) (d : SReg) (f : SMap Word → Word) : Host.Outcome State Fault Refusal :=
  s.runWord false fun env s => .done (s.modTask s.cur.core fun t => t.sset d (f env.s))

def State.scalar2 (s : State) (o : R2) (f : Word → Word) : Host.Outcome State Fault Refusal :=
  s.scalar o.d fun r => f (sget r o.a)

def State.scalar3 (s : State) (o : R3) (f : Word → Word → Word) : Host.Outcome State Fault Refusal :=
  s.scalar o.d fun r => f (sget r o.a) (sget r o.b)

/-- SYNC.s (R175): its clauses alone. -/
def execSyncS (s : State) : Host.Outcome State Fault Refusal := s.runWord false fun _ s => .done s

def execAdd (o : R3) (s : State) : Host.Outcome State Fault Refusal := s.scalar3 o fun a b => a + b
def execSub (o : R3) (s : State) : Host.Outcome State Fault Refusal := s.scalar3 o fun a b => a - b
def execAddi (o : RI) (s : State) : Host.Outcome State Fault Refusal := s.scalar o.d fun r => sget r o.a + o.imm
def execMul (o : R3) (s : State) : Host.Outcome State Fault Refusal := s.scalar3 o fun a b => a * b
/-- The high 64 bits of the signed 128-bit product (R203). -/
def mulHigh (a b : Word) : Word := ((a.signExtend 128) * (b.signExtend 128)).extractLsb' 64 64
def execMulh (o : R3) (s : State) : Host.Outcome State Fault Refusal := s.scalar3 o mulHigh
/-- The high 64 bits of the natural 128-bit product (R203). -/
def mulHighN (a b : Word) : Word := ((a.setWidth 128) * (b.setWidth 128)).extractLsb' 64 64
def execMulhn (o : R3) (s : State) : Host.Outcome State Fault Refusal := s.scalar3 o mulHighN

/-- A dividing word (R204): INT_DIVZERO on a zero divisor, else its result. -/
def State.divide (s : State) (o : R3) (f : Word → Word → Word) : Host.Outcome State Fault Refusal :=
  s.runWord false fun env s =>
    if sget env.s o.b = 0 then .fault s { cause := .intDivzero }
    else .done (s.modTask s.cur.core fun t => t.sset o.d (f (sget env.s o.a) (sget env.s o.b)))

/-- The quotient truncated toward zero; −2^63 by −1 wraps to −2^63 (R204). -/
def divS (a b : Word) : Word := BitVec.ofInt 64 (a.toInt.tdiv b.toInt)
def remS (a b : Word) : Word := BitVec.ofInt 64 (a.toInt.tmod b.toInt)
def execDiv (o : R3) (s : State) : Host.Outcome State Fault Refusal := s.divide o divS
def execDivn (o : R3) (s : State) : Host.Outcome State Fault Refusal := s.divide o fun a b => a / b
def execRem (o : R3) (s : State) : Host.Outcome State Fault Refusal := s.divide o remS
def execRemn (o : R3) (s : State) : Host.Outcome State Fault Refusal := s.divide o fun a b => a % b

def execAnd (o : R3) (s : State) : Host.Outcome State Fault Refusal := s.scalar3 o fun a b => a &&& b
def execOr (o : R3) (s : State) : Host.Outcome State Fault Refusal := s.scalar3 o fun a b => a ||| b
def execXor (o : R3) (s : State) : Host.Outcome State Fault Refusal := s.scalar3 o fun a b => a ^^^ b
def execAndn (o : R3) (s : State) : Host.Outcome State Fault Refusal := s.scalar3 o fun a b => a &&& ~~~ b

/-- The shift amount of R203. -/
def shAmt (b : Word) : Nat := b.toNat % 64
def execShl (o : R3) (s : State) : Host.Outcome State Fault Refusal := s.scalar3 o fun a b => a <<< shAmt b
def execShr (o : R3) (s : State) : Host.Outcome State Fault Refusal := s.scalar3 o fun a b => a >>> shAmt b
def execSra (o : R3) (s : State) : Host.Outcome State Fault Refusal := s.scalar3 o fun a b => a.sshiftRight (shAmt b)
def execRotr (o : R3) (s : State) : Host.Outcome State Fault Refusal := s.scalar3 o fun a b => a.rotateRight (shAmt b)

/-- The conditions of R173. -/
def condHolds (k : Cond) (a b : Word) : Bool :=
  match k with
  | .eq => a == b
  | .ne => a != b
  | .lt => a.slt b
  | .ge => !a.slt b
  | .le => a.sle b
  | .gt => !a.sle b
  | .ltn => a.ult b
  | .gen => !a.ult b
  | .len => a.ule b
  | .gtn => !a.ule b
  | .bs => a &&& b != 0
  | .bc => a &&& b == 0
def execCmp (o : CmpOp) (s : State) : Host.Outcome State Fault Refusal :=
  s.scalar o.d fun r => if condHolds o.cond (sget r o.a) (sget r o.b) then 1 else 0

def execMin (o : R3) (s : State) : Host.Outcome State Fault Refusal := s.scalar3 o fun a b => if a.slt b then a else b
def execMax (o : R3) (s : State) : Host.Outcome State Fault Refusal := s.scalar3 o fun a b => if a.slt b then b else a
def execMinn (o : R3) (s : State) : Host.Outcome State Fault Refusal := s.scalar3 o fun a b => if a.ult b then a else b
def execMaxn (o : R3) (s : State) : Host.Outcome State Fault Refusal := s.scalar3 o fun a b => if a.ult b then b else a
def execSel (o : R4) (s : State) : Host.Outcome State Fault Refusal :=
  s.scalar o.d fun r => if sget r o.c ≠ 0 then sget r o.a else sget r o.b

/-- Leading zeros of the low `n` bits. -/
def clzNat (v : Nat) : Nat → Nat
  | 0 => 0
  | n + 1 => if v.testBit n then 0 else 1 + clzNat v n
/-- Trailing zeros from bit `i` up, of `n` bits. -/
def ctzNat (v : Nat) : Nat → Nat → Nat
  | 0, _ => 0
  | n + 1, i => if v.testBit i then 0 else 1 + ctzNat v n (i + 1)
/-- The count of 1 bits among the low `n`. -/
def popNat (v : Nat) : Nat → Nat
  | 0 => 0
  | n + 1 => (v.testBit n).toNat + popNat v n
def execClz (o : R2) (s : State) : Host.Outcome State Fault Refusal :=
  s.scalar2 o fun a => BitVec.ofNat 64 (clzNat a.toNat 64)
def execCtz (o : R2) (s : State) : Host.Outcome State Fault Refusal :=
  s.scalar2 o fun a => BitVec.ofNat 64 (ctzNat a.toNat 64 0)
def execPopc (o : R2) (s : State) : Host.Outcome State Fault Refusal :=
  s.scalar2 o fun a => BitVec.ofNat 64 (popNat a.toNat 64)
def execBrev (o : R2) (s : State) : Host.Outcome State Fault Refusal := s.scalar2 o BitVec.reverse
/-- Byte i to byte 7 − i (R203). -/
def swapBytes (a : Word) : Word := BitVec.ofNat 64 (leNat (leBytes 8 a.toNat).reverse)
def execBswap (o : R2) (s : State) : Host.Outcome State Fault Refusal := s.scalar2 o swapBytes

/-- The position and width of R204. -/
def bitPos (b : Word) : Nat := b.toNat % 64
def bitWidth (b c : Word) : Nat := min (c.toNat % 128) (64 - bitPos b)
def extractBits (a b c : Word) : Word := BitVec.ofNat 64 (a.toNat / 2 ^ bitPos b % 2 ^ bitWidth b c)
def insertBits (d a b c : Word) : Word :=
  let m : Word := BitVec.ofNat 64 ((2 ^ bitWidth b c - 1) * 2 ^ bitPos b)
  (d &&& ~~~ m) ||| ((a <<< bitPos b) &&& m)
def execExtr (o : R4) (s : State) : Host.Outcome State Fault Refusal :=
  s.scalar o.d fun r => extractBits (sget r o.a) (sget r o.b) (sget r o.c)
def execInsr (o : R4) (s : State) : Host.Outcome State Fault Refusal :=
  s.scalar o.d fun r => insertBits (sget r o.d) (sget r o.a) (sget r o.b) (sget r o.c)

def execMovi (o : DI) (s : State) : Host.Outcome State Fault Refusal := s.scalar o.d fun _ => o.imm
def execMov (o : R2) (s : State) : Host.Outcome State Fault Refusal := s.scalar2 o fun a => a
def execSext (o : ExtOp) (s : State) : Host.Outcome State Fault Refusal :=
  s.scalar o.d fun r => ((sget r o.a).setWidth (8 * o.size.bytes)).signExtend 64
def execZext (o : ExtOp) (s : State) : Host.Outcome State Fault Refusal :=
  s.scalar o.d fun r => ((sget r o.a).setWidth (8 * o.size.bytes)).setWidth 64
/-- GETL: the byte address of this word (R203). -/
def execGetl (o : SReg) (s : State) : Host.Outcome State Fault Refusal :=
  s.runWord false fun env s => .done (s.modTask s.cur.core fun t => t.sset o (env.pc.setWidth 64))

/-! ## Coordinate registers (R222) -/

/-- Four coordinates from two packed pairs: the first coordinate stands in the low 32 bits. -/
def packK (lo hi : Word) : BitVec 128 := hi ++ lo
/-- Element by element, modulo 2^32. -/
def addK (k d : BitVec 128) : BitVec 128 :=
  (k.extractLsb' 96 32 + d.extractLsb' 96 32) ++ (k.extractLsb' 64 32 + d.extractLsb' 64 32) ++
    (k.extractLsb' 32 32 + d.extractLsb' 32 32) ++ (k.extractLsb' 0 32 + d.extractLsb' 0 32)
def execKset (o : KsetOp) (s : State) : Host.Outcome State Fault Refusal :=
  s.runWord false fun env s =>
    .done (s.modTask s.cur.core fun t => t.kset o.d (packK (sget env.s o.a) (sget env.s o.b)))
def execKadd (o : KaddOp) (s : State) : Host.Outcome State Fault Refusal :=
  s.runWord false fun env s =>
    .done (s.modTask s.cur.core fun t =>
      t.kset o.d (addK (kget env.k o.a) (packK (sget env.s o.b) (sget env.s o.c))))
def execKgetLo (o : KgetOp) (s : State) : Host.Outcome State Fault Refusal :=
  s.runWord false fun env s => .done (s.modTask s.cur.core fun t => t.sset o.d ((kget env.k o.a).extractLsb' 0 64))
def execKgetHi (o : KgetOp) (s : State) : Host.Outcome State Fault Refusal :=
  s.runWord false fun env s => .done (s.modTask s.cur.core fun t => t.sset o.d ((kget env.k o.a).extractLsb' 64 64))

end Sys2Proof.Machine
end

