-- ==== Sys2Proof/Machine/ScalarMem.lean ====
section
/-! DEFINITION. Scalar loads and stores, atomics, fences and cache words (08, R205 to R216; 05, R117, R122, R123). -/

namespace Sys2Proof.Machine

/-- A die with 2^30 writes unapplied stalls new ones (R127). (log 7 DEDUCED) -/
def State.stalled (s : State) (c : Nat) : Bool := 2 ^ 30 ≤ (s.flight (dieOf c)).length

/-! ## Loads and stores (R205 to R208) -/

/-- The address of a memory word: s[a] + imm modulo 2^56. -/
def memAddr (r : SMap Word) (a : SReg) (imm : BitVec 64) : Nat := (sget r a + imm).toNat % 2 ^ 56

/-- The S strand has read memory since its last acquire: addresses formed from now on may depend on it (R120).
(log 7 DEDUCED) -/
def Task.readMem (t : Task) : Task := { t with dep := some (t.dep.getD []) }
/-- The registers a load of `n` bytes writes (R206). -/
def Task.loaded (t : Task) (d : SReg) (n v : Nat) : Task :=
  let t := t.readMem.sset d (BitVec.ofNat 64 v)
  if n = 16 then t.sset (d + 1) (BitVec.ofNat 64 (v / 2 ^ 64)) else t

/-- An acquire of a word (R120, R207): none for a relaxed one. -/
def State.acquires (s : State) (c : Nat) (e : Eng) (k : Option Scope) : State :=
  match k with
  | some k => s.acquire (.strand c e) k
  | none => s
/-- After an acquire nothing the strand forms depends on an old read any more. -/
def Task.acquired (t : Task) (k : Option Scope) : Task := if k.isSome then { t with dep := none } else t
/-- The scope at which a word's order is an acquire (R169). -/
def acqScope (o : Ord) (k : Scope) : Option Scope := if o = .acq || o = .ar then some k else none
/-- The scope at which a word's order is a release (R169). -/
def relScope (o : Ord) (k : Scope) : Option Scope := if o = .rel || o = .ar then some k else none
/-- An address that may depend on what the strand has read is read as it is now (R120). (log 7 DEDUCED) -/
def State.heedDep (s : State) (t : Task) (a : SReg) : State :=
  if (t.dep.getD []).contains a.toNat then { s with old := [] } else s

/-- What an LDA does before its read (R207): the strand's earlier STLs are performed first. -/
def State.beforeLda (s : State) (a : Agent) (pre : Option Scope) : State :=
  match pre with
  | some k => s.stlFence a k
  | none => s
/-- A load: `pre` is the scope of an LDA, `k` that of an acquire. (log 27 DEDUCED) -/
def State.loadWord (s : State) (d a : SReg) (imm : BitVec 64) (n : Nat) (pre k : Option Scope) :
    Host.Outcome State Fault Refusal :=
  s.runWord false fun env s =>
    let c := s.cur.core
    if pre.any (s.stlWaits (.strand c .s)) then .wait s
    else
      match s.task c with
      | none => .wait s
      | some t =>
        match ((s.beforeLda (.strand c .s) pre).heedDep t a).readNat (t.whoAs c .s) (memAddr env.s a imm) n with
        | (s, .error e) => Eff.ofStop s e
        | (s, .ok v) => .done ((s.modTask c fun t => (t.loaded d n v).acquired k).acquires c .s k)

/-- The bytes a store of `n` bytes writes (R206). -/
def storeBytes (r : SMap Word) (d : SReg) (n : Nat) : List Byte :=
  leBytes n ((sget r d).toNat + (if n = 16 then (sget r (d + 1)).toNat * 2 ^ 64 else 0))

/-- A store: `rel` is the scope of a release, `stl` that of an STL. -/
def State.storeWord (s : State) (d a : SReg) (imm : BitVec 64) (n : Nat) (rel stl : Option Scope) :
    Host.Outcome State Fault Refusal :=
  s.runWord false fun env s =>
    let c := s.cur.core
    match s.task c with
    | none => .wait s
    | some t =>
      if s.stalled c then .wait s
      else
        match s.writeRun { t.whoAs c .s with rel := rel, stl := stl } .wr (memAddr env.s a imm) (storeBytes env.s d n) with
        | (s, some e) => Eff.ofStop s e
        | (s, none) => .done s

def execLd (o : MemOp) (s : State) : Host.Outcome State Fault Refusal := s.loadWord o.d o.a o.imm o.size.bytes none (acqScope o.ord o.scope)
def execSt (o : MemOp) (s : State) : Host.Outcome State Fault Refusal :=
  s.storeWord o.d o.a o.imm o.size.bytes (relScope o.ord o.scope) none
/-- LDA (R207): an earlier STL of the strand is performed first, for every agent of the scope. -/
def execLda (o : MemFix) (s : State) : Host.Outcome State Fault Refusal :=
  s.loadWord o.d o.a o.imm o.size.bytes (some o.scope) (some o.scope)
def execStl (o : MemFix) (s : State) : Host.Outcome State Fault Refusal :=
  s.storeWord o.d o.a o.imm o.size.bytes (some o.scope) (some o.scope)
def execLdnt (o : MemFix) (s : State) : Host.Outcome State Fault Refusal := s.loadWord o.d o.a o.imm o.size.bytes none none
/-- PREFL (R208): it moves a line between caches and changes no value. -/
def execPrefl (_o : AddrOp) (s : State) : Host.Outcome State Fault Refusal := s.runWord false fun _ s => .done s

/-! ## Atomics (R210 to R213, R130) -/

/-- One atomic at the home of its location: the dirty tile that holds the line is recalled, the old value read, and the new one
written if there is one. -/
def State.atomicAt (s : State) (w : Who) (pa n : Nat) (f : Nat → Option Nat) : State × Nat :=
  match whereIs pa with
  | .hbm | .log =>
    let s := s.recallLine (lineOf pa)
    let v := leNat ((List.range n).map fun i => s.homeByte (pa + i))
    let s := s.noteRead w.agent w.die pa n n []
    ((f v).elim s fun x => s.perform w pa (leBytes n x), v)
  | _ =>
    let v := leNat (s.regBytes pa n)
    ((f v).elim s fun x => s.store w pa (leBytes n x), v)

/-- An atomic at an aligned virtual address: translated, checked for lost data, performed. One on another module's memory leaves
as the operation it is (R431), and what it returns is free. -/
def State.atomic (s : State) (w : Who) (va n : Nat) (op : RemoteOp) (f : Nat → Option Nat) : State × Except XlStop Nat :=
  match s.xl w va .at with
  | (s, .fault c i) => (s, .error (.fault c i va))
  | (s, .refused) => (s, .error (.refused va))
  | (s, .hole p) => (s, .error (.hole p))
  | (s, .remote l) =>
    match s.awayFails .at [.away l va n] with
    | some x => (s, .error x)
    | none =>
      (s.sendAway w l va op (s.stampOut w), .ok (leNat ((List.range n).map fun i => Config.remoteByte s.ctr (va + i))))
  | (s, .ok pa) =>
    if s.mismatch then ({ s with mismatch := false }, .error (.fault .checkMismatch 4 va))
    else if s.lostIn pa n then (s, .error (.fault .uncorrectableData 0 va))
    else if s.atomHeld w.die pa n then (s, .error .held)
    else
      let (s, v) := s.atomicAt w pa n f
      (s, .ok v)

/-- An address with no offset (R210): 56 bits at user level; at kernel level all of it, so that one at or above 2^52 is absent
(R383). -/
def Task.wholeAddr (t : Task) (v : Word) : Nat := if t.kernel then v.toNat else v.toNat % 2 ^ 56

/-- An atomic word with its order and scope; ATOMIC_ALIGN off its size (R117). -/
def State.atomicWord (s : State) (a : SReg) (n : Nat) (o : Ord) (k : Scope) (op : Env → RemoteOp) (f : Env → Nat → Option Nat)
    (land : Task → Nat → Task) : Host.Outcome State Fault Refusal :=
  s.runWord false fun env s =>
    let c := s.cur.core
    match s.task c with
    | none => .wait s
    | some t =>
      let va := t.wholeAddr (sget env.s a)
      if va % n != 0 then .fault s { cause := .atomicAlign, addr := BitVec.ofNat 56 va }
      else
        match s.atomic { t.whoAs c .s with rel := relScope o k } va n (op env) (f env) with
        | (s, .error e) => Eff.ofStop s e
        | (s, .ok v) => .done ((s.modTask c fun t => (land t.readMem v).acquired (acqScope o k)).acquires c .s (acqScope o k))

/-- What an atomic writes over a value: nothing where that stays as it is (R116, R211). -/
def changed (v new : Nat) : Option Nat := if new = v then none else some new
/-- f(v, op) of R210 on `n` bytes. -/
def amoFn (op : AmoOp) (n v x : Nat) : Nat :=
  let w := 8 * n
  match op with
  | .add => (v + x) % 2 ^ w
  | .and => v &&& x
  | .or => v ||| x
  | .xor => v ^^^ x
  | .min => if sval w x < sval w v then x else v
  | .max => if sval w v < sval w x then x else v
  | .minn => Min.min v x
  | .maxn => Max.max v x
  | .swp => x
  | .fadd => addF32 v x

def State.amo (s : State) (o : AmoS) (op : AmoOp) : Host.Outcome State Fault Refusal :=
  let n := o.size.bytes
  s.atomicWord o.a n o.ord o.scope (fun env => .amo op n (sget env.s o.b))
    (fun env v => changed v (amoFn op n v ((sget env.s o.b).toNat % 2 ^ (8 * n)))) fun t v => t.sset o.d (BitVec.ofNat 64 v)

def execAmoadd (o : AmoS) (s : State) : Host.Outcome State Fault Refusal := s.amo o .add
def execAmoand (o : AmoS) (s : State) : Host.Outcome State Fault Refusal := s.amo o .and
def execAmoor (o : AmoS) (s : State) : Host.Outcome State Fault Refusal := s.amo o .or
def execAmoxor (o : AmoS) (s : State) : Host.Outcome State Fault Refusal := s.amo o .xor
def execAmomin (o : AmoS) (s : State) : Host.Outcome State Fault Refusal := s.amo o .min
def execAmomax (o : AmoS) (s : State) : Host.Outcome State Fault Refusal := s.amo o .max
def execAmominn (o : AmoS) (s : State) : Host.Outcome State Fault Refusal := s.amo o .minn
def execAmomaxn (o : AmoS) (s : State) : Host.Outcome State Fault Refusal := s.amo o .maxn
def execAmoswp (o : AmoS) (s : State) : Host.Outcome State Fault Refusal := s.amo o .swp
/-- AMOFADD (R212): the f32 sum, nearest-even, subnormals kept. -/
def execAmofadd (o : AmoS) (s : State) : Host.Outcome State Fault Refusal := s.amo o .fadd

/-- A compare and swap writes where the value is the compared one (R211). -/
def casFn (cmp new v : Nat) : Option Nat := changed v (if v = cmp then new else v)
def execCas (o : CasS) (s : State) : Host.Outcome State Fault Refusal :=
  let n := o.size.bytes
  let of (r : SMap Word) (a : SReg) : Nat := (sget r a).toNat % 2 ^ (8 * n)
  s.atomicWord o.a n o.ord o.scope (fun env => .cas n (BitVec.ofNat 128 (of env.s o.b)) (BitVec.ofNat 128 (of env.s o.c)))
    (fun env => casFn (of env.s o.b) (of env.s o.c)) fun t v => t.sset o.d (BitVec.ofNat 64 v)

/-- The 128-bit value of a register pair (R195). -/
def pairVal (r : SMap Word) (a : SReg) : Nat := (sget r a).toNat + 2 ^ 64 * (sget r (a + 1)).toNat
def execCas2 (o : Cas2S) (s : State) : Host.Outcome State Fault Refusal :=
  s.atomicWord o.a 16 o.ord o.scope
    (fun env => .cas 16 (BitVec.ofNat 128 (pairVal env.s o.b)) (BitVec.ofNat 128 (pairVal env.s o.c)))
    (fun env => casFn (pairVal env.s o.b) (pairVal env.s o.c)) fun t v => t.loaded o.d 16 v

/-! ## Fences (R122, R123) -/

/-- A fence at a scope (R122, R123); after one that orders reads before later reads nothing depends on an old read.
(log 7 DEDUCED) -/
def State.fence (s : State) (f : FenceKind) (k : Scope) : Host.Outcome State Fault Refusal :=
  s.runWord false fun _ s =>
    let a : Agent := .strand s.cur.core .s
    if s.fenceWaits a f k then .wait s
    else .done ((s.fenceOrder a f k).modTask s.cur.core fun t => t.acquired (if f = .rel then none else some k))
def execFenceAcq (o : Scope) (s : State) : Host.Outcome State Fault Refusal := s.fence .acq o
def execFenceRel (o : Scope) (s : State) : Host.Outcome State Fault Refusal := s.fence .rel o
def execFenceFull (o : Scope) (s : State) : Host.Outcome State Fault Refusal := s.fence .full o
def execFenceMca (o : Scope) (s : State) : Host.Outcome State Fault Refusal := s.fence .mca o

/-! ## Cache words (R214, R215) -/

/-- The physical lines of a range, first and last of each page's run; a page with no translation is passed over. -/
def State.linesFrom (s : State) (w : Who) : Nat → Nat → Nat → List (Nat × Nat)
  | 0, _, _ => []
  | fuel + 1, va, end_ =>
    if end_ ≤ va then []
    else
      let k := min end_ (va - va % 4096 + 4096)
      let rest := s.linesFrom w fuel k end_
      match (s.xl w va .rd).2, (s.xl w va .ex).2, (s.xl w va .wb).2 with
      | .ok pa, _, _ | _, .ok pa, _ | _, _, .ok pa => (pa / 64, (pa + (k - va) - 1) / 64) :: rest
      | _, _, _ => rest

/-- Whether a byte lies in a line of the ranges. -/
def inRanges (l : List (Nat × Nat)) (pa : Nat) : Bool := l.any fun x => x.1 ≤ pa / 64 && pa / 64 ≤ x.2

/-- Run a cache word over the lines of [s[a], s[a] + s[b]), cut at 2^56; `arrive`: it waits until the die's writes in flight to them
have arrived. (log 18 DEDUCED) -/
def State.cacheWord (s : State) (o : RangeOp) (arrive : Bool) (f : CodeCell → CodeCell) :
    Host.Outcome State Fault Refusal :=
  s.runWord false fun env s =>
    let c := s.cur.core
    match s.task c with
    | none => .wait s
    | some t =>
      let base := (sget env.s o.a).toNat
      let end_ := min (base + (sget env.s o.b).toNat) (2 ^ 56)
      let l := s.linesFrom (t.whoAs c .s) ((end_ - base) / 4096 + 2) base end_
      if arrive && (s.flight (dieOf c)).any fun w => (linesOf w.addr w.bytes.length).any fun x => inRanges l (64 * x) then .wait s
      else .done { s with code := s.code.map fun x => if inRanges l x.addr then f x else x }

/-- DCWB and DCINV act on the core's own L1D (R215): what it holds reaches the L2. -/
def CodeCell.writeBack (core : Nat) (v : BitVec 128) (c : CodeCell) : CodeCell :=
  if c.dirty == some core then { c with vers := c.vers ++ [v], clean := c.vers.length, dirty := none } else c
def execDcwb (o : RangeOp) (s : State) : Host.Outcome State Fault Refusal :=
  s.cacheWord o true fun x => x.writeBack s.cur.core (s.wordAt (dieOf s.cur.core) x.addr)
def execDcinv (o : RangeOp) (s : State) : Host.Outcome State Fault Refusal :=
  s.cacheWord o true fun x => x.writeBack s.cur.core (s.wordAt (dieOf s.cur.core) x.addr)
/-- IINV: what the instruction caches of its scope fetch from then on has come from the L2. -/
def execIinv (o : IinvOp) (s : State) : Host.Outcome State Fault Refusal :=
  let die := dieOf s.cur.core
  let cores := (List.range 194).filter fun k => o.wide || dieOf k == die
  s.cacheWord ⟨o.a, o.b⟩ false fun x => { x with inv := cores.foldl (fun m k => SMap.put 0 m k x.clean) x.inv }

/-- Cores that fetch every word again (FETCHB, and the start of a launch, R216). (log 18 DEDUCED) -/
def State.fetchAgain (s : State) (cores : List Nat) : State :=
  { s with code := s.code.map fun x =>
      { x with floor := cores.foldl (fun m k => SMap.put 0 m k (SMap.look 0 x.inv k)) x.floor } }
/-- FETCHB (R215): the other strands do not pass it before the S strand has (State.skipWord). -/
def execFetchb (s : State) : Host.Outcome State Fault Refusal :=
  s.runWord false fun _ s => .done (s.fetchAgain [s.cur.core])

end Sys2Proof.Machine
end

