-- ==== Sys2Proof/Machine/Teams.lean ====
section
/-! DEFINITION. Teams as the Pilot keeps them: the event vector (08, R217, R218), launch records (20, R403), safe points
and live masks (07, R191, R192), stop requests (20, R420), save images (22, R450 to R454), barriers given up (19, R394),
and the end of a team. -/

namespace Sys2Proof.Machine

/-! ## Events -/

/-- The event vector of a context (R389). -/
def State.events (s : State) (n : Nat) : Nat := s.physNat (s.ctx n).evaddr 32
/-- One atomic on the event vector: every change of it takes its place in one order (R218). -/
def State.changeEvents (s : State) (w : Who) (n : Nat) (f : Nat → Option Nat) : State := (s.atomicAt w (s.ctx n).evaddr 32 f).1
/-- The event vector stands in a lost line (R112). -/
def State.eventsLost (s : State) (n : Nat) : Bool := s.lostIn (s.ctx n).evaddr 32
/-- The part's own engines set events (R131, R407), and record it when the vector is lost (R112). -/
def State.setEvents (s : State) (n mask : Nat) : State :=
  let a := (s.ctx n).evaddr
  if s.eventsLost n then
    { s with records := s.records ++ [⟨some n, servedBy a, { cause := .uncorrectableData, origin := 7, addr := BitVec.ofNat 56 a },
        1, false, true, 0xffffffff, 0xff, (s.ctx n).asid⟩] }
  else s.changeEvents { die := servedBy a, ctx := none, asid := 0 } n fun v => some (v ||| mask)

/-! ## Launch records (R403) -/

structure Launch where
  mst : BitVec 32
  vst : BitVec 32
  grid : BitVec 32
  dcount : Nat
  crec : Nat
  entry : Va
  safeAddr : Nat
  safeCnt : Nat
  lmAddr : Nat
  lmCnt : Nat
  fpAddr : Nat
  bindAddr : Nat
  nz : Nat
  ny : Nat
  nx : Nat
  team : Nat
  dies : Nat
  cores : Bool
  seeden : Bool
  deriving DecidableEq, Repr

def launchOf (r : BitVec 1024) : Launch where
  mst := r.extractLsb' 480 32
  vst := r.extractLsb' 448 32
  grid := r.extractLsb' 416 32
  dcount := bits r 415 403
  crec := bits r 402 352 * 32
  entry := BitVec.ofNat 56 (bits r 351 300 * 16)
  safeAddr := bits r 299 248 * 16
  safeCnt := bits r 247 236
  lmAddr := bits r 235 187 * 128
  lmCnt := bits r 186 171
  fpAddr := bits r 170 122 * 128
  bindAddr := bits r 121 72 * 64
  nz := bits r 71 56
  ny := bits r 55 40
  nx := bits r 39 24
  team := bits r 23 22
  dies := bits r 21 20
  cores := r.getLsbD 19
  seeden := r.getLsbD 18

/-- Tasks of a team by its code. -/
def teamSize (code : Nat) : Nat := if code = 0 then 1 else if code = 1 then 2 else 4
def Launch.teams (l : Launch) : Nat := l.nx * l.ny * l.nz
def recKind (r : BitVec 1024) : Nat := bits r 7 0

def State.node (s : State) (id : Nat) : Option Node := s.nodes.find? fun n => n.id == id
def State.setNode (s : State) (n : Node) : State :=
  { s with nodes := s.nodes.map fun x => if x.id == n.id then n else x }
def State.launchOfNode (s : State) (id : Nat) : Option Launch := (s.node id).map fun n => launchOf n.record

/-- The Pilot's accesses for a context (R113, R398, R423). -/
def State.pilotWho (s : State) (die ctx : Nat) : Who :=
  { die := die, ctx := some ctx, asid := (s.ctx ctx).asid, agent := some (.pilot die) }
/-- The same to look, which changes no order. -/
def State.pilotLook (s : State) (die ctx : Nat) : Who := { s.pilotWho die ctx with agent := none }

/-- Write a record of class kernel and signal the kernel core of the die (R437). -/
def State.kernelRecord (s : State) (r : RecordOut) : State := (s.writeRecord r).kernelSignal r.die

/-! ## Safe points (R191, R192) -/

/-- The safe-point records of a launch as the part reads them, when it can: offset, live mask, reserved bits. -/
def State.safeRecords (s : State) (w : Who) (l : Launch) : Option (List (Nat × Nat × Nat)) :=
  if l.safeCnt = 0 then none
  else
    match (s.readRun w .rd l.safeAddr (16 * l.safeCnt)).2 with
    | .error _ => none
    | .ok b => some ((List.range l.safeCnt).map fun i =>
        let r := leNat ((b.drop (16 * i)).take 16)
        (field r 31 0, field r 95 64, field r 63 32))
/-- A record with a reserved bit (R2): its address. (log 59 DEDUCED) -/
def State.safeBroken (s : State) (w : Who) (l : Launch) : Option Nat :=
  (s.safeRecords w l).bind fun rs => (rs.findIdx? fun x => x.2.2 != 0).map fun i => l.safeAddr + 16 * i
/-- The safe points of a launch as (word address, live-mask record), or none when the part ignores them: absent, unreadable, not
ascending or naming a live mask beyond the table (R191). -/
def State.safePoints (s : State) (w : Who) (l : Launch) : Option (List (Va × Nat)) :=
  (s.safeRecords w l).bind fun rs =>
    if (rs.zip rs.tail).all (fun x => x.1.1 < x.2.1) && rs.all (fun x => x.2.1 < l.lmCnt && x.2.2 == 0) then
      some (rs.map fun x => (l.entry + BitVec.ofNat 56 (16 * x.1), x.2.1))
    else none

/-- (log 23 DEDUCED) -/
def State.taskSafePoints (s : State) (c : Nat) (t : Task) : Option (List (Va × Nat)) :=
  (s.launchOfNode t.node).bind fun l => s.safePoints (t.who c) l

/-- The address of a live-mask record (R192, R403). -/
def Launch.maskAddr (l : Launch) (i : Nat) : Nat := l.lmAddr + 128 * i
/-- A live-mask record of a launch, when it can be read. -/
def State.liveMask (s : State) (w : Who) (l : Launch) (i : Nat) : Option (BitVec 1024) :=
  match (s.readRun w .rd (l.maskAddr i) 128).2 with
  | .ok b => some (BitVec.ofNat 1024 (leNat b))
  | .error _ => none
/-- A live-mask record has a reserved bit (R2). (log 59 DEDUCED) -/
def maskBroken (m : BitVec 1024) : Bool := bits m 1023 972 != 0

/-- A strand that stands at a safe-point word which no strand had passed when the stop was asked for fixes where the task
stops (R420). (log 23 DEDUCED) -/
def State.meetSafePoint (s : State) (c : Nat) (e : Eng) (t : Task) : State :=
  let x := t.strand e
  if t.stop.isNone || t.stopAt.isSome ||
      ((strandsOf t.kernel).map t.strand).any fun y => before x.epoch x.path y.epoch y.path then s
  else
    match (s.taskSafePoints c t).bind fun l => l.find? fun r => r.1 == x.pc with
    | none => s
    | some r => s.setTask c { t with stopAt := some (x.epoch, x.path), stopLive := some r.2 }

/-! ## Teams -/

def Team.cores (t : Team) : List Nat := (List.range t.size).map (· + t.base)
def State.teamOf (s : State) (t : Task) : Option Team := s.teams.find? fun x => x.node == t.node && x.num == t.team
def State.setTeam (s : State) (t : Team) : State :=
  { s with teams := s.teams.map fun x => if x.node == t.node && x.num == t.num then t else x }
/-- The team, or the whole grid if co-residence was granted (R41, R437). -/
def State.gang (s : State) (t : Team) : List Team :=
  match s.launchOfNode t.node with
  | some l => if l.cores then s.teams.filter fun x => x.node == t.node else [t]
  | none => [t]
/-- The cores on which a team's tasks stand now. -/
def State.teamTasks (s : State) (t : Team) : List (Nat × Task) :=
  t.cores.filterMap fun c => (s.task c).bind fun k =>
    if k.node == t.node && k.team == t.num && !k.kernel then some (c, k) else none

/-- Ask one task to stop (R420); its safe-point records are read at the stop, and one with a reserved bit faults then (R2).
(log 23 DEDUCED, 59 DEDUCED) -/
def State.askTask (s : State) (c : Nat) (k : Task) : State :=
  if k.stop.isSome then s
  else
    let s := s.setTask c { k with stop := some (s.now (dieOf c)) }
    match (s.launchOfNode k.node).bind fun l => s.safeBroken (k.who c) l with
    | some a => s.taskFault c { cause := .reservedField, addr := BitVec.ofNat 56 a }
    | none => s
/-- Ask a team to stop (R420). -/
def State.askStop (s : State) (t : Team) : State :=
  let s := (s.teamTasks t).foldl (fun s x => s.askTask x.1 x.2) s
  if t.st = .running then s.setTeam { t with st := .stopping, asked := some (s.now (dieOf t.base)) } else s
def State.askGang (s : State) (t : Team) : State := (s.gang t).foldl State.askStop s

/-! ## Who waits for cores (R414) -/

def State.levelOf (s : State) (n : Node) : Nat := (s.queue n.queue).level.toNat
/-- An earlier record that holds back every later one of its queue: an incomplete fence or signal, an unsatisfied wait. -/
def Node.holdsBack (n : Node) : Bool :=
  !n.device && (recKind n.record = 5 || recKind n.record = 4 || (recKind n.record = 3 && !n.satisfied))
/-- A node that waits for units only (R408); a device-side launch stands behind no record of the queue (R221).
(log 42 DEDUCED) -/
def State.nodeReady (s : State) (n : Node) : Bool :=
  n.evOk && n.edges.isEmpty && n.st != .done &&
    (n.device || !(s.nodes.any fun m => m.queue == n.queue && m.id < n.id && m.holdsBack))
/-- The die that completes the record of a grid split by the loss of the die-to-die link (R419). -/
def State.recordDie (s : State) (n : Node) : Nat :=
  let a := (launchOf n.record).crec
  if a = 0 then 0
  else match s.homeOf n.die n.ctx a with
    | some pa => servedBy pa
    | none => 0
def State.hasSaved (s : State) (n : Node) : Bool := s.teams.any fun t => t.node == n.id && t.st == .saved
/-- A grid with a saved team to resume or a team not yet placed. -/
def State.wantsCores (s : State) (n : Node) : Bool :=
  recKind n.record = 1 && s.nodeReady n &&
    (((n.status = 0 || n.status = 7) && (n.nextTeam < (launchOf n.record).teams || s.hasSaved n)) ||
      ((n.status = 6 || n.status = 2) && s.hasSaved n))
/-- A node with work that has not been dispatched. -/
def State.idle (s : State) (n : Node) : Bool :=
  if recKind n.record = 1 then s.wantsCores n else n.st == .pool && s.nodeReady n
/-- A queue's level and timer as its ready nodes stand: the timer starts with one that waits, and stops with none. -/
def State.retime (s : State) (q : Nat) : State :=
  let x := s.queue q
  if s.nodes.any fun n => n.queue == q && s.idle n then
    if x.timer.isNone then s.setQueue q { x with timer := some (s.now (q / 128)) } else s
  else
    let prio := BitVec.ofNat 3 (s.ctx (bits x.qcfg 43 32)).prio
    s.setQueue q { x with timer := none, level := if x.timer.isNone then x.level else prio }
/-- The level and timer of a grid's queue follow a change of its teams (R413). -/
def State.retimeNode (s : State) (node : Nat) : State :=
  match s.node node with
  | some n => s.retime n.queue
  | none => s
/-- Whether a node may use the cluster of a core (R40, R387, R403). -/
def State.mayUse (s : State) (n : Node) (core : Nat) : Bool :=
  (s.part (s.ctx n.ctx).part).pclu.getLsbD (clusterOf core) && (launchOf n.record).dies.testBit (dieOf core) &&
    (n.status != 6 || dieOf core == s.recordDie n)
/-- Work of at least a team's priority waits for its cores (R219). -/
def State.rivals (s : State) (t : Team) : Bool :=
  match s.node t.node with
  | none => false
  | some own => s.nodes.any fun n =>
      s.wantsCores n && s.levelOf own ≤ s.levelOf n && (s.gang t).any fun g => s.mayUse n g.base

/-! ## The control registers of a task (R223) -/

/-- MSTAT (R285). -/
def State.mstat (s : State) (c : Nat) (t : Task) : Word :=
  let set (i : Nat) : AccSet := SMap.look {} t.accs i
  let code (a : AccSet) : Nat := match a.st with
    | .empty => 0 | .resident => 1 | .spilled => 2
  let cl : Cluster := SMap.look {} s.clusters (clusterOf c)
  BitVec.ofNat 64 (t.spills.toNat * 2 ^ 32 + code (set 1) * 2 ^ 20 + code (set 0) * 2 ^ 18 +
    (set 1).tri.isSome.toNat * 2 ^ 17 + (set 0).tri.isSome.toNat * 2 ^ 16 +
    (cl.holder == some c).toNat * 2 ^ 9 + (cl.reqs.contains c).toNat * 2 ^ 8 + t.sticky.toNat)

/-- A control register as it stands. -/
def State.csrVal (s : State) (c : Nat) (t : Task) (r : Csr) : Word :=
  match r with
  | .fpctl => t.fpctl
  | .fpstat => t.fpstat
  | .lseed => t.lseed
  | .rrb => t.rrb.setWidth 64
  | .prb => t.prb.setWidth 64
  | .win => t.win.setWidth 64
  | .taskid => t.taskid
  | .teaminfo => t.teaminfo
  | .gridinfo => t.gridinfo
  | .domain => t.domain
  | .mstat => s.mstat c t
  | .ufentry => t.ufentry
  | .chrono => s.now (dieOf c)

/-- The numbers of R223. -/
def csrNumbers : List (Csr × Nat) :=
  [(.fpctl, 0), (.fpstat, 1), (.lseed, 2), (.rrb, 3), (.prb, 4), (.win, 5), (.taskid, 16), (.teaminfo, 17),
   (.gridinfo, 18), (.domain, 19), (.mstat, 32), (.ufentry, 33), (.chrono, 48)]

/-! ## Save images (R450 to R454) -/

def State.imageAddr (s : State) (ctx i : Nat) : Nat := (s.ctx ctx).save + i * 2 ^ 20
def State.extAddr (s : State) (ctx i : Nat) : Nat := (s.ctx ctx).save + (s.ctx ctx).saveslots * 2 ^ 20 + i * 2 ^ 21

/-- Where the save area keeps the cells of a set (R264, R451). -/
def State.setAddr (s : State) (ctx image i : Nat) : Nat := s.imageAddr ctx image + 0x80000 + i * 0x40000
def AccSet.bytes (a : AccSet) : List Byte := (SMap.vals 0 65536 a.cells).flatMap fun x => leBytes 4 x.toNat
/-- The numbers of `k` bytes each from an address up. -/
def State.physList (s : State) (a k n : Nat) : List Nat := (List.range n).map fun i => s.physNat (a + k * i) k

/-- Keep what a live mask marks (R192): s, V, P, K, I, G and the queues; names under RRB and PRB. (log 22 DEDUCED) -/
def Task.masked (t : Task) (m : BitVec 1024) : Task :=
  let keep {α : Type} (l : SMap α) (f : Nat → Nat) : SMap α := l.filter fun x => m.getLsbD (f x.1)
  let vName (x : Nat) : Nat := if x < 128 then x else 128 + (x - 128 + (640 - t.rrb.toNat)) % 640
  let pName (x : Nat) : Nat := if x < 32 then x else 32 + (x - 32 + (32 - t.prb.toNat)) % 32
  { t with
    s := keep t.s id
    v := keep t.v fun x => 64 + vName x
    p := keep t.p fun x => 832 + pName x
    k := keep t.k (896 + ·)
    i := keep t.i (928 + ·)
    g := keep t.g (944 + ·)
    q := keep t.q (960 + ·) }

/-- The sections of an image that kernel software may rewrite, as (offset, bytes) (R451, R452). The layout within an index
register's 1,280 bytes is the model's. (log 21 DESIGN CHOICE, 22 DEDUCED) -/
def State.sections (s : State) (c : Nat) (t : Task) : List (Nat × List Byte) :=
  [(0x2000, (List.range 64).flatMap fun n => leBytes 8 (SMap.look 0 t.s n).toNat),
   (0x2200, (List.range 32).flatMap fun n => leBytes 16 (SMap.look 0 t.k n).toNat),
   (0x2400, (List.range 64).flatMap fun n => leBytes 16 (t.pphys n).toNat),
   (0x2800, (List.range 16).flatMap fun n => leBytes 32 (SMap.look 0 t.g n).toNat),
   (0x2a00, (List.range 256).flatMap fun n =>
      let x : Sem := SMap.look {} t.sem n
      leBytes 4 (x.val.toNat + x.floor.toNat * 2 ^ 16))] ++
  (csrNumbers.map fun x => (0x2e00 + 8 * x.2, leBytes 8 (s.csrVal c t x.1).toNat)) ++
  (List.range 16).map (fun n =>
    let x : IndexReg := SMap.look {} t.i n
    (0x3000 + 1280 * n, ((List.range 256).flatMap fun e => leBytes 4 (SMap.look 0 x.ent e).toNat) ++ leBytes 4 x.len ++
      leBytes 4 x.bound.toNat ++
      match x.mark with
      | none => leBytes 16 0
      | some (a, v) => leBytes 8 (2 ^ 63 + a.toNat) ++ leBytes 8 v.toNat)) ++
  [(0x35000, (List.range 768).flatMap fun n => leBytes 256 (SMap.look 0 t.v n).toNat)]

/-- The cells of the sets that are not in the save area already (R264, R451). -/
def Task.cellSections (t : Task) : List (Nat × List Byte) :=
  ([0, 1].map fun i => (i, (SMap.look {} t.accs i : AccSet))).filterMap fun x =>
    if x.2.st = .spilled then none else some (0x80000 + x.1 * 0x40000, x.2.bytes)

/-- The part's own sections of an image and of its extension: offset and size (R451). -/
def opaqueSections : List (Nat × Nat) :=
  [(0x100, 0x1f00), (0x8000, 0x2d000), (0x65000, 0x5000)]
def opaqueExt : List (Nat × Nat) := [(0, 0x43000)]

/-- A write that every agent sees at once, whatever it has read (R134). -/
def State.quietStore (s : State) (pa : Nat) (b : List Byte) : State :=
  (s.homeStore pa b).mapSides fun x => { x with cells := x.cells.filter fun c => !(pa ≤ c.1 && c.1 < pa + b.length) }
/-- The part writes an area of its own. (log 22 DEDUCED) -/
def State.putOpaque (base : Nat) (s : State) (x : Nat × Nat) : State :=
  s.quietStore (base + x.1) ((List.range x.2).map fun i => Config.opaqueByte s.ctr (base + x.1 + i))

/-- The reserved areas of an image and of its extension (R451), which the part writes as zero (R2). -/
def reservedSections : List (Nat × Nat) := [(0x2e00, 0x200), (0x6a000, 0x16000)]
def reservedExt : List (Nat × Nat) := [(0x43000, 0x3d000)]

/-- The data of a held tile, 4 KiB: its elements in row order, each of its type's width (R451). (log 22 DEDUCED) -/
def Tile.image (t : Tile) : List Byte :=
  let n := t.bind.d.shape.1 * t.bind.d.shape.2
  if t.bind.d.ty.width = 4 then
    (List.range (n / 2)).map fun i => BitVec.ofNat 8 ((t.elem (2 * i)).toNat % 16 + (t.elem (2 * i + 1)).toNat % 16 * 16)
  else (List.range n).flatMap fun i => leBytes (t.bind.d.ty.width / 8) (t.elem i).toNat

/-- One byte of a CRC-32 (IEEE 802.3). (log 73 PRESUMED) -/
def crcByte (c : BitVec 32) (b : Byte) : BitVec 32 :=
  (List.range 8).foldl (fun x _ => if x.getLsbD 0 then (x >>> 1) ^^^ 0xedb88320 else x >>> 1) (c ^^^ b.setWidth 32)
def crc32 (l : List Byte) : BitVec 32 := ~~~ (l.foldl crcByte 0xffffffff)
/-- CHECK (R452): the CRC-32 over the opaque sections of an image and then of its extension, in the order of their offsets.
(log 73 PRESUMED) -/
def State.imageCheck (s : State) (addr ext : Nat) : BitVec 32 :=
  let read (base : Nat) (x : Nat × Nat) : List Byte := (List.range x.2).map fun i => s.homeByte (base + x.1 + i)
  crc32 (opaqueSections.flatMap (read addr) ++ opaqueExt.flatMap (read ext))

/-- The cells of memory in the parts of a saved image that only the part reads, with the header (R452). (log 22 DEDUCED) -/
def State.opaqueCellsOf (s : State) (addr ext : Nat) : List Host.Cell :=
  s.mem.filter fun x =>
    (addr ≤ x.1 && x.1 < addr + 0x2000) || (addr + 0x8000 ≤ x.1 && x.1 < addr + 0x35000) ||
      (addr + 0x65000 ≤ x.1 && x.1 < addr + 0x80000) || (ext ≤ x.1 && x.1 < ext + 0x200000)

/-- Why a task was saved (R452). -/
inductive StopKind where
  | safe | immediate | fault (c : Cause) | killed
  deriving DecidableEq, Repr
def StopKind.code : StopKind → Nat
  | .safe => 1 | .immediate => 2 | .fault _ => 3 | .killed => 4
def StopKind.cause : StopKind → Nat
  | .fault c => c.code
  | _ => 0

/-- The header of R452, with its CHECK. -/
def State.header (s : State) (c : Nat) (t : Task) (k : StopKind) (held : Nat) (check : BitVec 32) : Nat :=
  let cl : Cluster := SMap.look {} s.clusters (clusterOf c)
  (s.now (dieOf c)).toNat * 2 ^ 448 + check.toNat * 2 ^ 416 + held % 512 * 2 ^ 407 + k.cause * 2 ^ 392 + k.code * 2 ^ 384 +
    t.teaminfo.toNat * 2 ^ 320 + t.gridinfo.toNat * 2 ^ 256 + t.taskid.toNat * 2 ^ 192 +
    (cl.reqs.contains c).toNat * 2 ^ 166 + (cl.holder == some c).toNat * 2 ^ 165 +
    (t.groups.any fun g => g.2.st == .busy).toNat * 2 ^ 164 + (!t.defer.isEmpty).toNat * 2 ^ 163 +
    (t.gens.any fun g => g.2.mode == .halted).toNat * 2 ^ 162 + t.ufBusy.toNat * 2 ^ 161 +
    (t.faults.any fun f => f.cause.isUser).toNat * 2 ^ 160

/-- Write back a core's dirty tiles of one task; those that fault are held (R43, R102). -/
def State.writeBackTask (s : State) (c uid : Nat) : State :=
  ((s.core c).tiles.filter fun t => t.owner == uid && t.dirty).foldl (fun s t => (s.writeBack c t).1) s

/-- The tiles that a core's task holds (R102). -/
def Core.heldBy (k : Core) (uid : Nat) : List Tile := k.tiles.filter fun t => t.owner == uid && t.held.isSome
/-- Every pin on a core ends with its task's stay there (R25, R43, R92). -/
def State.unpinAll (s : State) (c : Nat) : State :=
  s.setCore c { s.core c with tiles := (s.core c).tiles.map fun t => { t with pinned := false } }
/-- Take a task's held tiles out of its core and release its pins (R43, R92, R102). -/
def State.takeHeld (s : State) (c uid : Nat) : State × List Tile :=
  let held := (s.core c).heldBy uid
  let s := held.foldl (fun s t => s.unregister c t.name) (s.unpinAll c)
  (s.setCore c { s.core c with tiles := (s.core c).tiles.filter fun t => !(t.owner == uid && t.held.isSome) },
    held.map fun t => { t with pinned := false })
/-- The faults a saved task takes for its tiles at resume (R102, R107, R453): of those that the save's own write-back has left
held, and of recalls that no word has taken yet. -/
def savedFaults (t : Task) (was held : List Tile) : List FaultInfo :=
  ((held.filter fun x => !(was.any fun y => y.name == x.name)).filterMap (·.held) ++ t.recalls).map
    fun f => { f with origin := 8, strand := none, pc := 0 }

/-- Release the lease and the tenancies of a core (R43, R263, R265). -/
def State.leaveArray (s : State) (c : Nat) : State :=
  let cl : Cluster := SMap.look {} s.clusters (clusterOf c)
  { s with clusters := SMap.put {} s.clusters (clusterOf c) { cl with
      holder := if cl.holder == some c then none else cl.holder
      last := if cl.holder == some c then c else cl.last
      reqs := cl.reqs.filter (· != c)
      sets := cl.sets.filter fun x => x.1 != c
      bursts := cl.bursts.filter fun x => x.1 != c } }

/-- A task's resident sets are spilled and counted (R265, R285); their cells go to the image. -/
def Task.spillAll (t : Task) : Task :=
  let n := (t.accs.filter fun a => a.2.st == .resident).length
  { t with
    accs := t.accs.map fun a => (a.1, if a.2.st = .resident then { a.2 with st := .spilled, cells := [] } else a.2)
    spills := BitVec.ofNat 16 (min 65535 (t.spills.toNat + n)) }

/-- A parked word's tiles by the ranks of their cores in the team, as a saved task keeps them, and back (R98, R354). -/
def Task.ranked (t : Task) (c : Nat) : Task :=
  { t with replay := t.replay.map fun w => { w with uses := w.uses.map fun u => { u with core := u.core + t.rank - c } } }
def Task.placedAt (t : Task) (c : Nat) : Task :=
  { t with replay := t.replay.map fun w => { w with uses := w.uses.map fun u => { u with core := u.core + c - t.rank } } }

/-- Save the task of a core and free the core (R43, R450 to R452). -/
def State.saveTask (s : State) (c : Nat) (k : StopKind) (mask : Option (BitVec 1024)) : State :=
  match s.task c with
  | none => s
  | some t =>
    match t.ctx with
    | none => s
    | some ctx =>
      let addr := s.imageAddr ctx t.image
      let ext := s.extAddr ctx t.image
      let was := (s.core c).heldBy t.uid
      let (s, held) := (s.writeBackTask c t.uid).takeHeld c t.uid
      let t := match s.task c with
        | some t => t
        | none => t
      let cl : Cluster := SMap.look {} s.clusters (clusterOf c)
      let t := { t with leaseHeld := cl.holder == some c, leaseReq := cl.reqs.contains c }
      let cells := t.cellSections
      let pending := savedFaults t was held
      let t := { (t.ranked c).spillAll with
        fills := [], itins := [], stop := none, stopAt := none, stopLive := none, recalls := [], dep := none }
      let t := match mask with
        | some m => t.masked m
        | none => t
      let secs := s.sections c t ++ cells
      let zero (base : Nat) (s : State) (x : Nat × Nat) : State := s.quietStore (base + x.1) (List.replicate x.2 0)
      let s := reservedExt.foldl (zero ext) (reservedSections.foldl (zero addr) s)
      let s := secs.foldl (fun s x => s.quietStore (addr + x.1) x.2) s
      let s := opaqueSections.foldl (State.putOpaque addr) s
      let s := opaqueExt.foldl (State.putOpaque ext) s
      let s := s.quietStore (ext + 0x80000) (held.flatMap Tile.image)
      let head := s.header c t k held.length (s.imageCheck addr ext)
      let s := s.quietStore addr (leBytes 64 head ++ List.replicate 192 0)
      let img : SavedTask := ⟨addr, ext, t, held, s.opaqueCellsOf addr ext, pending⟩
      let s := s.leaveArray c
      let s := (s.setCore c { s.core c with task := none }).freshCore c
      { s with images := s.images ++ [img] }

/-- Change a task wherever it stands, by its context and image. -/
def State.onImage (s : State) (ctx image : Nat) (f : Task → Task) : State :=
  { s with
    cores := s.cores.map fun x =>
      (x.1, { x.2 with task := x.2.task.map fun t => if t.ctx == some ctx && t.image == image then f t else t })
    images := s.images.map fun x =>
      if x.task.ctx == some ctx && x.task.image == image then { x with task := f x.task } else x }
/-- The core on which a task stands. -/
def State.coreOfImage (s : State) (ctx image : Nat) : Option Nat :=
  (s.cores.find? fun x => match x.2.task with
    | some t => t.ctx == some ctx && t.image == image
    | none => false).map (·.1)
def State.savedImage (s : State) (ctx image : Nat) : Option SavedTask :=
  s.images.find? fun x => x.task.ctx == some ctx && x.task.image == image

/-- A signal to a saved task is applied to its image (R35, R454): the image's semaphore, or a SEM_OVERFLOW to be taken at
resume. -/
def State.signalImage (s : State) (m : SavedTask) (sem : BitVec 8) (n : BitVec 16) (f : FaultInfo) : State :=
  let a := m.addr + 0x2a00 + 4 * sem.toNat
  let v := s.physNat a 4
  let x : Sem := ⟨BitVec.ofNat 16 (field v 15 0), BitVec.ofNat 8 (field v 23 16)⟩
  match x.signalled n with
  | some y => s.quietStore a (leBytes 4 (y.val.toNat + y.floor.toNat * 2 ^ 16))
  | none =>
    { s with images := s.images.map fun x =>
        if x.addr == m.addr then { x with pending := x.pending ++ [{ f with origin := 5, strand := none, pc := 0 }] } else x }

/-- The COLL and DEFER flags of a task (R452). -/
def Task.collDefer (t : Task) : Nat :=
  (t.groups.any fun g => g.2.st == .busy).toNat * 16 + (!t.defer.isEmpty).toNat * 8
/-- An image whose contribution has ended shows it in its header (R335, R454); only a header as the part left it is kept
as the part's own. -/
def State.syncHeader (s : State) (m : SavedTask) : State :=
  let v := s.physNat (m.addr + 20) 1
  let new := v - v / 8 % 4 * 8 + m.task.collDefer
  if new = v then s
  else
    let whole := s.opaqueCellsOf m.addr m.ext == m.opaqueCells
    let s := s.quietStore (m.addr + 20) (leBytes 1 new)
    if whole then
      let cells := s.opaqueCellsOf m.addr m.ext
      { s with images := s.images.map fun x => if x.addr == m.addr then { x with opaqueCells := cells } else x }
    else s
def State.syncHeaders (s : State) : State := s.images.foldl State.syncHeader s

/-! ## Barriers (R37 to R39) -/

/-- What a barrier joins: the team, or the grid id of DOMAIN.GRID, which its context's launches share, and across modules
the contexts of one fabric identity. (log 28 DEDUCED) -/
def State.barKey (s : State) (t : Task) (level : Nat) : Nat :=
  let grid := bits t.domain 31 0
  match level, t.ctx with
  | 0, _ => t.node * 2 ^ 48 + t.team
  | 3, some n => grid + (s.ctx n).fid.toNat * 2 ^ 32
  | _, some n => grid + n * 2 ^ 32
  | _, none => grid + 2 ^ 48

/-- The episode of an open barrier. -/
def State.openEpisode (s : State) (n : Nat) : Bool := s.barriers.any fun b => b.episode == n

def Task.unbar (t : Task) : Task :=
  let x := t.strand .s
  match x.phase with
  | .barred _ => t.setStrand .s { x with phase := .fresh }
  | _ => t

/-- What giving up barriers does to one task: a waiting participant faults at its BAR. -/
def Task.giveUp (t : Task) (gone : List Barrier) (c : Cause) (now : Word) : Task :=
  if gone.any fun b => b.arrived.contains t.uid && (t.strand .s).phase == .barred b.episode then
    { t.unbar with faults := t.faults ++ [{ cause := c, strand := some .s, pc := (t.strand .s).pc, stamp := now }] }
  else t

/-- Abandon open barriers (R39, R394). -/
def State.abandon (s : State) (c : Cause) (p : Barrier → Bool) : State :=
  let g (t : Task) (now : Word) : Task := t.giveUp (s.barriers.filter p) c now
  { s with
    barriers := s.barriers.filter fun b => !p b
    cores := s.cores.map fun x => (x.1, { x.2 with task := x.2.task.map fun t => g t (s.now (dieOf x.1)) })
    images := s.images.map fun x => { x with task := g x.task 0 } }

/-! ## The end of a team -/

def Node.endTeam (n : Node) (num : Nat) : Node := { n with ended := n.ended ++ [num] }
/-- Take a team off the Pilot's books: its images are released and its node counts it (R25, R391, R394). -/
def State.dropTeam (s : State) (t : Team) (ok : Bool) (c : Cause) : State :=
  let s := { s with
    teams := s.teams.filter fun x => !(x.node == t.node && x.num == t.num)
    images := s.images.filter fun x => !(x.task.node == t.node && x.task.team == t.num)
    reservedImages := s.reservedImages.filter fun x => !(x.1 == t.ctx && t.images.contains x.2) }
  match s.node t.node with
  | none => s
  | some n => s.setNode (if ok then n.endTeam t.num
      else { (n.endTeam t.num).spoil c with failed := n.failed ++ [t.num] })

/-- Group slots of a task are released with their reservations (R394, R474). -/
def State.freeGroups (s : State) (uid : Nat) : State :=
  { s with routers := s.routers.map fun r =>
      (r.1, { r.2 with reserved := r.2.reserved.filter fun x => x.1 != uid }) }

/-- A killed team's image shows it (R452). -/
def State.markKilled (s : State) (m : SavedTask) : State := s.quietStore (m.addr + 48) [4]

/-- End a team at once (R394): its running tasks are stopped by immediate save, barriers that count them are given up, and
its images are released with what they hold. -/
def State.killTeam (s : State) (t : Team) (c : Cause) : State :=
  let die := dieOf t.base
  let s := (s.teamTasks t).foldl (fun s x => s.saveTask x.1 .killed none) s
  let imgs := s.images.filter fun x => x.task.node == t.node && x.task.team == t.num
  let s := imgs.foldl State.markKilled s
  let s := imgs.foldl (fun s m => s.freeGroups m.task.uid) s
  let s := s.abandon .barAbandoned fun b => imgs.any fun m => b.key == s.barKey m.task b.level && (b.level != 1 || b.die == die)
  (s.dropTeam t false c).retimeNode t.node

/-! ## Saving a team (R43, R420, R437) -/

/-- A team whose tasks have all left their cores is saved. -/
def State.noteSaved (s : State) (t : Team) (k : StopKind) : State :=
  let st : TeamState := match k with
    | .fault _ => .faulted
    | _ => .saved
  if (s.teamTasks t).isEmpty then (s.setTeam { t with st := st, asked := none }).retimeNode t.node else s

/-- Every access that a core's task has issued has been performed at module scope, its fabric requests among them (R134).
(log 30 DEDUCED) -/
def State.coreDrained (s : State) (c : Nat) (t : Task) : Bool :=
  !s.coreFlight c && s.reqs.all fun r => !(some r.ctx == t.ctx && r.image == t.image)
def State.gangDrained (s : State) (l : List Team) : Bool :=
  l.all fun t => (s.teamTasks t).all fun x => s.coreDrained x.1 x.2

/-- The cells of a task's spilled sets, which stay in the save area, are lost in part: its save meets an uncorrectable error
(R112, R264, R454). -/
def State.saveLost (s : State) (t : Task) : Bool :=
  match t.ctx with
  | none => false
  | some n => t.accs.any fun a => a.2.st == .spilled && s.lostIn (s.setAddr n t.image a.1) 0x40000
/-- SAVE_FAILED (R454): a record of class kernel, and the team ends. -/
def State.saveFails (s : State) (t : Team) (c : Nat) (k : Task) : State :=
  (s.kernelRecord (taskRecord c k { cause := .saveFailed } 1 false true)).killTeam t .saveFailed

/-- Save a team, each task as `how` says: its stop and the mask it stopped under (R43, R420, R437). -/
def State.saveTeam (how : Nat → Task → StopKind × Option (BitVec 1024)) (k : StopKind) (s : State) (t : Team) : State :=
  match (s.teamTasks t).find? fun x => s.saveLost x.2 with
  | some x => s.saveFails t x.1 x.2
  | none =>
    let s := (s.teamTasks t).foldl (fun s x => s.saveTask x.1 (how x.1 x.2).1 (how x.1 x.2).2) s
    (s.setTeam { t with asked := none }).noteSaved t k
def State.saveGang (s : State) (t : Team) (k : StopKind) : State :=
  (s.gang t).foldl (State.saveTeam (fun _ _ => (k, none)) k) s

end Sys2Proof.Machine
end

