-- ==== Sys2Proof/Machine/Tiling.lean ====
section
/-! DEFINITION. Words with tile operands: looking tiles up, parking and the replay queue (04, R89, R95 to R98), installing
and evicting (R91), what a completed word does to its tiles (R93, R98), slabs (10, R268, R269) and writing them (R100). -/

namespace Sys2Proof.Machine

/-! ## Looking up -/

def TileUse.name (u : TileUse) (t : Task) : TileName := ⟨t.asid, u.slot, u.k⟩
/-- The binding of the named slot in the task whose cache is looked up. -/
def State.useBinding (s : State) (u : TileUse) : Option Binding := (s.task u.core).bind (·.binding u.slot)
/-- The resident tile a use hits: tagged no older than the slot's acquired version (R89). -/
def State.hitTile (s : State) (t : Task) (u : TileUse) : Option Tile :=
  match (s.core u.core).tile (u.name t), s.useBinding u with
  | some x, some b => if olderVer x.ver b.av then none else some x
  | _, _ => none

/-- The tasks that run. -/
def State.running (s : State) : List Task := s.cores.filterMap fun x => x.2.task
/-- The tiles of a core's cache that parked words name, its own task's and its team peers', or that a fill is on its way to
(R91). -/
def State.busyNames (s : State) (core : Nat) : List TileName :=
  s.running.flatMap fun t =>
    (t.replay.flatMap fun w => (w.uses.filter fun u => u.core == core).map fun u => u.name t) ++
      (t.fills.filter fun f => f.core == core).map fun f => ⟨t.asid, f.slot, f.k⟩

/-! ## Installing (R91) -/

inductive Room where
  | ok (s : State) (way : Nat) (pinned : Bool)
  | wait
  | full
  | fault (s : State) (f : FaultInfo)

/-- Evict a tile: a dirty one is written back first; one whose task has ended is dropped when that fails (R25). -/
def State.evict (s : State) (core : Nat) (v : Tile) : State × Option FaultInfo :=
  let out (s : State) : State := s.setCore core ((s.core core).dropTile v.name)
  if !v.dirty then (out s, none)
  else
    match s.writeBack core v with
    | (s, none) => (out s, none)
    | (s, some f) => if s.ownerRuns core v then (s, some f) else (s.dropEnded core v f, none)

/-- A way for a tile: that of a stale tile of the same name, else the victim of R91; `keep` are tiles of an executing word,
which are no victims either (R269). (log 19 DEDUCED) -/
def State.makeRoom (s : State) (core : Nat) (n : TileName) (keep : List TileName) : Room :=
  match (s.core core).tile n with
  | some old =>
    match s.evict core old with
    | (s, none) => .ok s old.way old.pinned
    | (s, some f) => .fault s f
  | none =>
    match chooseWay ((s.core core).inSet (tileSet n.slot n.k)) (s.busyNames core ++ keep) with
    | .way w none => .ok s w false
    | .way w (some v) =>
      match s.evict core v with
      | (s, none) => .ok s w false
      | (s, some f) => .fault s f
    | .wait => .wait
    | .full => .full

/-- A tile as installed. A tile installed without a fill starts from zeros; the spec gives its MX scales no value.
(log 19 DEDUCED) -/
def State.newTile (s : State) (t : Task) (slot : BitVec 10) (k : BitVec 128) (b : Binding) (av : BitVec 32) (way : Nat)
    (pinned : Bool) (f : Option Filled) : Tile :=
  let free : SMap (BitVec 8) := SMap.ofVals 0x7f
    ((List.range (b.d.shape.1 * 2)).map fun i => Config.opaqueByte s.ctr (2 ^ 61 + i))
  { name := ⟨t.asid, slot, k⟩, ver := av, mask := (f.map (·.mask)).getD fullMask, first := (f.map (·.first)).getD 0
    pageFrame := (f.map (·.frame)).getD 0, bind := b, ctx := t.ctx.getD 0, owner := t.uid, node := t.node, way := way, age := 0
    class0 := false, strm := b.strm, pinned := pinned, dirty := false, fwd := [], held := none, fromRow := 0, passed := []
    data := SMap.ofVals 0 ((f.map (·.data)).getD [])
    scales := match f with
      | some x => SMap.ofVals 0x7f x.scales
      | none => if b.d.layout = 4 then free else []
    scaleBind := match f with
      | some x => x.scaleBind
      | none => if b.d.layout = 4 then (t.companion b.d).toOption else none }

def State.installTile (s : State) (core : Nat) (x : Tile) : State :=
  s.setCore core (((s.core core).putTile x).touch x.name)

/-! ## What a completed word does to the tiles it read (R93, R98) -/

/-- The cores of a task's team (R40). -/
def teamCores (c : Nat) (t : Task) : List Nat :=
  (List.range (teamSize (bits t.teaminfo 51 50))).map (· + (c - t.rank))

/-- A multicast operand's clean copies: a cache that has no eligible way, or whose victim cannot be written back, skips. The
spec gives a copy of a stream-through or last-use tile no class; the model gives it that of the tile copied, class 0, before any
word of that cache has read it. (log 61 DESIGN CHOICE) -/
def State.copyTo (x : Tile) (s : State) (core : Nat) : State :=
  match s.task core with
  | none => s
  | some t =>
    if (s.hitTile t ⟨core, x.name.slot, x.name.k, false, true, false, false⟩).isSome then s
    else
      match s.makeRoom core x.name [] with
      | .ok s way p =>
        s.installTile core { x with
          owner := t.uid, way := way, age := 0, pinned := p, dirty := false, fwd := [], held := none, fromRow := 0, passed := [] }
      | .fault s _ => s
      | _ => s

/-- One use completes: age, class and copies. -/
def State.finishUse (c : Nat) (t : Task) (s : State) (u : TileUse) : State :=
  match (s.core u.core).tile (u.name t) with
  | none => s
  | some x =>
    let x := if u.lu || (x.strm && !u.write) then { x with class0 := true } else x
    let s := s.installTile u.core x
    if u.mc then ((teamCores c t).filter (· != u.core)).foldl (State.copyTo x) s else s
def State.finishUses (s : State) (c : Nat) (t : Task) (l : List TileUse) : State :=
  l.foldl (State.finishUse c t) s

/-! ## Running a word with tile operands -/

inductive Named where
  | uses (l : List TileUse)
  | wait
  | fault (f : FaultInfo)
inductive Acted where
  | done (s : State)
  | wait
  | refused (s : State)
  | fault (s : State) (f : FaultInfo)

/-- A word with tile operands: its checks at issue and the tiles it names, and what it does once they are resident. -/
structure TileWord where
  check : Env → State → Nat → Task → State × Named
  act : Env → State → Nat → Task → List TileUse → Acted

/-- The accumulator set a word names (R96). -/
def accOf : Instr → Option (BitVec 1)
  | .accz o => some o.acc
  | .accld o => some o.acc
  | .accst o => some o.acc
  | .mma o => some o.acc
  | .attq o => some o.acc
  | .attkv o => some o.acc
  | .attfin o => some o.acc
  | .attst o => some o.acc
  | .attmrg o => some o.acc
  | _ => none

def sameTile (u v : TileUse) : Bool := u.core == v.core && u.slot == v.slot && u.k == v.k
/-- R96: a word may not pass a parked word of its strand that shares its set, names a tile it writes, or writes a tile it
reads. -/
def Task.clash (t : Task) (e : Eng) (acc : Option (BitVec 1)) (l : List TileUse) : Bool :=
  t.replay.any fun p => p.env.eng == e &&
    ((acc.isSome && accOf p.instr == acc) ||
      l.any fun u => p.uses.any fun v => sameTile u v && (u.write || v.write))
/-- Parked words of a strand (R96: the words that pass none). -/
def Task.anyParked (t : Task) (e : Eng) : Bool := t.replay.any fun p => p.env.eng == e

/-- Every tile that must be filled is resident. -/
def State.allHit (s : State) (t : Task) (l : List TileUse) : Bool :=
  l.all fun u => !u.fill || (s.hitTile t u).isSome

/-- R269: in some set of some cache the word's tiles need more ways than are neither pinned nor held; the tile it fails
at. Tiles resident in a pinned or held way need no other. (log 19 DEDUCED) -/
def State.setFull (s : State) (t : Task) (l : List TileUse) : Option TileUse :=
  l.find? fun u =>
    let set := tileSet u.slot u.k
    let ts := (s.core u.core).inSet set
    let fixed := ts.filter fun x => x.pinned || x.held.isSome
    let names := ((l.filter fun v => v.core == u.core && tileSet v.slot v.k == set).map fun v => v.name t).eraseDups
    16 < fixed.length + (names.filter fun n => !(fixed.any fun x => x.name == n)).length

/-- Every named tile is resident, those that need no fill among them. -/
def State.allIn (s : State) (t : Task) (l : List TileUse) : Bool := l.all fun u => (s.hitTile t u).isSome
/-- A tile to be installed without a fill has an element outside the address space (R83). -/
def State.unreached (s : State) (t : Task) (l : List TileUse) : Option TileUse :=
  l.find? fun u => !u.fill && (s.hitTile t u).isNone &&
    match s.useBinding u with
    | none => false
    | some b => !tileReach b.d u.k ||
        (b.d.layout = 4 && match t.companion b.d with
          | .ok cb => scalesOut (scaleList b.d cb.d u.k)
          | .error _ => false)
/-- Stale dirty tiles of the names given are written back before they are filled again (R89). -/
def State.flushStale (s : State) (t : Task) : List TileUse → State × Option FaultInfo
  | [] => (s, none)
  | u :: l =>
    match (s.core u.core).tile (u.name t), s.hitTile t u with
    | some x, none =>
      if x.dirty then
        match s.writeBack u.core x with
        | (s, none) => s.flushStale t l
        | (s, some f) => if s.ownerRuns u.core x then (s, some f) else (s.dropEnded u.core x f).flushStale t l
      else s.flushStale t l
    | _, _ => s.flushStale t l

/-- Start the fills of the tiles that miss (R95), each under the version current now (R104). -/
def State.startFills (s : State) (c : Nat) (e : Eng) (epoch path runs : Nat) (t : Task) (l : List TileUse) : State :=
  let miss := l.filter fun u => u.fill && (s.hitTile t u).isNone &&
    !(t.fills.any fun f => f.core == u.core && f.slot == u.slot && f.k == u.k)
  let new := miss.map fun u => (⟨u.core, u.slot, u.k, ((s.useBinding u).map (·.av)).getD 0, e, epoch, path, runs⟩ : Fill)
  s.setTask c { t with fills := t.fills ++ new }

/-- A parked word keeps its `done` and `vis` signals; its `issue` signal is applied as it parks (R95). -/
def State.keepSignal (s : State) : State :=
  match s.cur.clauses.sig with
  | some g =>
    if g.pt = .issue then s else { s with cur := { s.cur with clauses := { s.cur.clauses with sig := none } } }
  | none => s

/-- Park a word (R95). -/
def State.park (s : State) (c : Nat) (t : Task) (i : Instr) (env : Env) (l : List TileUse) : Eff :=
  let x := t.strand env.eng
  let t := { t with replay := t.replay ++ [⟨i, s.cur.clauses, env, x.epoch, x.path, l, none⟩] }
  .pend ((s.startFills c env.eng x.epoch x.path env.runs t l).keepSignal) []

/-- Why a word whose tiles are not all resident may not begin: a tile it installs without a fill lies outside the address
space (R83), or a set has not the ways (R269). -/
def State.stopped (s : State) (t : Task) (l : List TileUse) : Option FaultInfo :=
  if s.allIn t l then none
  else
    match s.unreached t l, s.setFull t l with
    | some u, _ => some (tileFault .tileBounds u.slot u.k)
    | none, some u => some (tileFault .tileSetFull u.slot u.k)
    | none, none => none

/-- Run a word with tile operands in its strand's turn. -/
def State.runTiles (s : State) (i : Instr) (w : TileWord) : Host.Outcome State Fault Refusal :=
  s.runWord true fun env s =>
    let c := s.cur.core
    match (s.task c).map fun t => (t, t.clash env.eng (accOf i) []) with
    | none | some (_, true) => .wait s
    | some (t, false) =>
      match w.check env s c t with
      | (s, .fault f) => .fault s f
      | (s, .wait) => .wait s
      | (s, .uses l) =>
        if t.clash env.eng none l then .wait s
        else
          match s.stopped t l with
          | some f => .fault s f
          | none =>
            if s.allHit t l then
              match w.act env s c t l with
              | .done s => .done (s.finishUses c t l)
              | .wait => .wait s
              | .refused s => .refused s
              | .fault s f => .fault (if f.after then s.finishUses c t l else s) f
            else if 32 ≤ t.replay.length then .wait s
            else
              match s.flushStale t l with
              | (s, some f) => .fault s f
              | (s, none) =>
                match s.task c with
                | none => .wait s
                | some t => s.park c t i env l

/-! ## Slabs (R268) -/

/-- Coordinates moved by whole tiles along dimensions 0 and 1. -/
def moveK (k : BitVec 128) (d0 d1 : Nat) : BitVec 128 :=
  (k.extractLsb' 64 64) ++ (k.extractLsb' 32 32 + BitVec.ofNat 32 d1) ++ (k.extractLsb' 0 32 + BitVec.ofNat 32 d0)

/-- The extents a tile's slot is read under; a KV-paged slot's block count is read from its sequence descriptor (R87). -/
def State.extentsOf (s : State) (w : Who) (d : TDesc) : State × Except FaultInfo (List Nat) :=
  if d.layout = 3 then
    match s.readRun w .rd d.seq 64 with
    | (s, .error e) => (s, .error e.info)
    | (s, .ok l) => (s, .ok (d.extents (field (leNat l) 127 96)))
  else (s, .ok (d.extents 0))

/-- A slab: slot, origin and size in elements. -/
structure Slab where
  slot : BitVec 10
  k : BitVec 128
  rows : Nat
  cols : Nat

/-- The tiles of a slab as offsets (along dimension 0, along dimension 1), row by row: those whose origin lies within the
extents. -/
def slabTiles (d : TDesc) (ext : List Nat) (b : Slab) : List (Nat × Nat) :=
  ((List.range (ceilDiv b.rows d.shape.1)).flatMap fun j1 =>
    (List.range (ceilDiv b.cols d.shape.2)).map fun j0 => (j0, j1)).filter fun x =>
      inExt d ext b.k (x.2 * d.shape.1) (x.1 * d.shape.2)

/-- The offsets of the tiles a slab names, after the whole-tile check of its origin (R83). -/
def State.slabNames (s : State) (w : Who) (d : TDesc) (b : Slab) : State × Except FaultInfo (List Nat × List (Nat × Nat)) :=
  match s.extentsOf w d with
  | (s, .error e) => (s, .error (e.atTile b.slot b.k))
  | (s, .ok ext) =>
    if tileOut d ext b.k then (s, .error (tileFault .tileBounds b.slot b.k))
    else (s, .ok (ext, slabTiles d ext b))

/-- One resident tile of a slab, unpacked for reading. -/
structure TileView where
  mask : BitVec 128
  first : BitVec 32
  data : Array (BitVec 32)
  scales : Array (BitVec 8)

/-- A slab as a word reads it: `get` gives an element's bits and its scale, or none outside. -/
structure SlabView where
  tiles : Array (Option TileView)
  across : Nat
  h : Nat
  w : Nat
  d : TDesc
  k : BitVec 128
  rows : Nat
  cols : Nat

def viewTile (d : TDesc) (t : Tile) : TileView :=
  ⟨t.mask, t.first, (SMap.vals 0 (d.shape.1 * d.shape.2) t.data).toArray,
    (if d.layout = 4 then SMap.vals 0x7f (d.shape.1 * 2) t.scales else []).toArray⟩

/-- The view of a slab whose tiles stand in a core's cache among a word's uses. -/
def State.view (s : State) (t : Task) (core : Nat) (d : TDesc) (b : Slab) (l : List TileUse) : SlabView :=
  let across := ceilDiv b.cols d.shape.2
  let cells := (List.range (ceilDiv b.rows d.shape.1)).flatMap fun j1 => (List.range across).map fun j0 =>
    let k := moveK b.k j0 j1
    if l.any fun u => u.core == core && u.slot == b.slot && u.k == k then
      ((s.core core).tile ⟨t.asid, b.slot, k⟩).map (viewTile d)
    else none
  ⟨cells.toArray, across, d.shape.1, d.shape.2, d, b.k, b.rows, b.cols⟩

def SlabView.tile (v : SlabView) (row col : Nat) : Option TileView :=
  (v.tiles[row / v.h * v.across + col / v.w]?).join

/-- Whether an element lies inside: within the slab and the extents, and in a present row (R268). -/
def SlabView.inside (v : SlabView) (row col : Nat) : Bool :=
  row < v.rows && col < v.cols &&
    match v.tile row col with
    | none => false
    | some t => t.mask.getLsbD (row % v.h) && inExt v.d (if v.d.layout = 3 then v.d.extents (2 ^ 32) else v.d.extents 0) v.k row col

def SlabView.get (v : SlabView) (row col : Nat) : Option (BitVec 32 × BitVec 8) :=
  if v.inside row col then
    (v.tile row col).map fun t =>
      (t.data.getD (row % v.h * v.w + col % v.w) 0,
       if v.d.layout = 4 then t.scales.getD (row % v.h * 2 + col % v.w / 32) 0x7f else 0x7f)
  else none
/-- The bits of an element, zero outside. -/
def SlabView.bits (v : SlabView) (row col : Nat) : Nat := ((v.get row col).map fun x => x.1.toNat).getD 0

/-- Whether a slab covers every in-extent element of one of its tiles (R273). -/
def coversTile (d : TDesc) (ext : List Nat) (b : Slab) (j0 j1 : Nat) : Bool :=
  d.layout != 3 &&
    (List.range d.shape.1).all fun r => (List.range d.shape.2).all fun c =>
      let row := j1 * d.shape.1 + r
      let col := j0 * d.shape.2 + c
      !inExt d ext b.k row col || (row < b.rows && col < b.cols)

/-- The uses of a slab that is written in the task's own cache (R273). -/
def writeUses (core : Nat) (d : TDesc) (ext : List Nat) (b : Slab) (l : List (Nat × Nat)) : List TileUse :=
  l.map fun x => { core := core, slot := b.slot, k := moveK b.k x.1 x.2, write := true
                   fill := !coversTile d ext b x.1 x.2 }
/-- The uses of a slab that is read. -/
def readUses (core : Nat) (slot : BitVec 10) (k : BitVec 128) (lu mc : Bool) (l : List (Nat × Nat)) : List TileUse :=
  l.map fun x => { core := core, slot := slot, k := moveK k x.1 x.2, lu := lu, mc := mc }

/-! ## Writing tiles (R100) -/

/-- Make every named tile of one slot resident: those that need no fill are installed blank. `keep` are the word's tiles. -/
def State.prepare (s : State) (core : Nat) (t : Task) (b : Binding) (keep : List TileName) : List TileUse → Acted
  | [] => .done s
  | u :: l =>
    match s.hitTile t u with
    | some _ => s.prepare core t b keep l
    | none =>
      match s.makeRoom core (u.name t) keep with
      | .ok s w p => (s.installTile core (s.newTile t u.slot u.k b b.av w p none)).prepare core t b keep l
      | .wait => .wait
      | .full => .fault s (tileFault .tileSetFull u.slot u.k)
      | .fault s f => .fault s f

/-- Take out again the tiles that were not resident before. -/
def State.unprepare (s : State) (before_ : State) (core : Nat) (t : Task) (l : List TileUse) : State :=
  (l.filter fun u => (before_.hitTile t u).isNone).foldl
    (fun s u => s.setCore core ((s.core core).dropTile (u.name t))) s

/-- Write elements of one tile: `f` gives the new bits of an element by its row and column in the tile, none where it is
left as it is. -/
def Tile.rewrite (x : Tile) (f : Nat → Nat → Option Nat) : Tile :=
  let d := x.bind.d
  let old := (SMap.vals 0 (d.shape.1 * d.shape.2) x.data).toArray
  { x with data := SMap.ofVals 0 ((List.range (d.shape.1 * d.shape.2)).map fun i =>
      let row := i / d.shape.2
      let col := i % d.shape.2
      if x.mask.getLsbD row && inExt d (tileExt x) x.name.k row col then
        match f row col with
        | some v => BitVec.ofNat 32 v
        | none => old.getD i 0
      else old.getD i 0) }

/-- A tile that an earlier task left becomes the writing task's, under its binding, once what it held dirty is written back
under the binding it had (R25); none when that fails and the tile is dropped. -/
def State.adopt (s : State) (core : Nat) (t : Task) (x : Tile) : State × Option Tile :=
  if x.owner = t.uid then (s, some x)
  else
    let mine (x : Tile) : Tile := { x with
      owner := t.uid, node := t.node, ctx := t.ctx.getD x.ctx, bind := (t.binding x.name.slot).getD x.bind
      dirty := false, held := none, fwd := [], scaleBind := (t.companion ((t.binding x.name.slot).getD x.bind).d).toOption }
    if !x.dirty then (s, some (mine x))
    else
      match s.writeBack core x with
      | (s, none) => (s, some (mine x))
      | (s, some f) => (s.dropEnded core x f, none)

/-- Write one resident tile and register its lines. -/
def State.writeTile (s : State) (core : Nat) (t : Task) (u : TileUse) (f : Nat → Nat → Option Nat) : Acted :=
  match (s.core core).tile (u.name t) with
  | none => .wait
  | some x =>
    match s.adopt core t x with
    | (_, none) => .wait
    | (s, some x) =>
      match s.dirtyTile core (x.rewrite f) with
      | (s, none) => .done s
      | (s, some (.refused va)) => .refused (s.refusedAt va)
      | (s, some e) => .fault s (e.info.atTile u.slot u.k)

/-- Write tiles in order; `f` gives the elements of each by its coordinates. -/
def State.writeEach (s : State) (core : Nat) (t : Task) (f : BitVec 128 → Nat → Nat → Option Nat) :
    List TileUse → Acted
  | [] => .done s
  | u :: l =>
    match s.writeTile core t u (f u.k) with
    | .done s => s.writeEach core t f l
    | r => r

/-- Write the named tiles of one slot; when one cannot be, none is. -/
def State.writeTiles (s : State) (core : Nat) (t : Task) (b : Binding) (l : List TileUse)
    (f : BitVec 128 → Nat → Nat → Option Nat) : Acted :=
  match s.prepare core t b (l.map fun u => u.name t) l with
  | .done s1 =>
    match s1.writeEach core t f l with
    | .done s2 => .done s2
    | .refused x => .refused { s1.unprepare s core t l with cur := x.cur }
    | .fault _ g => .fault (s1.unprepare s core t l) g
    | _ => .wait
  | .fault s1 g => .fault (s1.unprepare s core t l) g
  | _ => .wait

/-- The elements of a slab as `writeTiles` takes them. -/
def slabElem (d : TDesc) (b : Slab) (f : Nat → Nat → Nat) (k : BitVec 128) (r c : Nat) : Option Nat :=
  let row := (coord k 1 - coord b.k 1).toNat * d.shape.1 + r
  let col := (coord k 0 - coord b.k 0).toNat * d.shape.2 + c
  if row < b.rows && col < b.cols then some (f row col) else none

end Sys2Proof.Machine
end

