-- ==== Sys2Proof/Machine/Matrix.lean ====
section
/-! DEFINITION. The M words that drive the array (10, R260 to R275, R283 to R286): the lease, the accumulator sets, loading,
storing and multiplying; the block sums of 03, R72 and R73. -/

namespace Sys2Proof.Machine

/-! ## The lease (R260 to R263) -/

def State.cluster (s : State) (c : Nat) : Cluster := SMap.look {} s.clusters (clusterOf c)
def State.setCluster (s : State) (c : Nat) (x : Cluster) : State :=
  { s with clusters := SMap.put {} s.clusters (clusterOf c) x }

/-- The quantum that a core's partition gives: array words, and cycles of 1.05 GHz as ticks (R262, R386, R12). -/
def State.quantum (s : State) (c : Nat) : Nat × Nat :=
  match (s.task c).bind (·.ctx) with
  | some n =>
    let p := (s.part (s.ctx n).part).pfab
    (max 1 (bits p 31 24), max 256 (bits p 55 32) * 20 / 21)
  | none => (64, 16384 * 20 / 21)

/-- A quantum opens now with the bounds of its partition as they stand (R262, R388). -/
def State.openQuantum (s : State) (c : Nat) (cl : Cluster) : Cluster :=
  { cl with words := 0, since := s.now (dieOf c), qcmd := (s.quantum c).1, qcyc := (s.quantum c).2 }
/-- The open quantum has reached a bound. -/
def State.quantumOver (s : State) (cl : Cluster) : Bool :=
  cl.qcmd ≤ cl.words || cl.holder.any fun c => cl.qcyc ≤ (s.now (dieOf c) - cl.since).toNat
/-- The holder's quantum is over and another core requests (R262). (log 48 DEDUCED) -/
def State.mustPass (s : State) (cl : Cluster) : Bool := cl.holder.isSome && !cl.reqs.isEmpty && s.quantumOver cl

/-- What an array word meets before its other checks (R20, R262, R263): a wait, LEASE_NOT_HELD, or none. -/
def State.arrayGate (s : State) (c : Nat) : Option Named :=
  let cl := s.cluster c
  if cl.holder == some c then if s.mustPass cl then some .wait else none
  else if cl.reqs.contains c then some .wait else some (.fault { cause := .leaseNotHeld })

/-- An array word does its work: it counts in the quantum, which restarts at its bound when no other core requests, keeps the burst
declaration alive, and ends a ramp-down (R262, R283). -/
def State.noteWork (s : State) (c : Nat) : State :=
  let cl := s.cluster c
  let cl := if cl.reqs.isEmpty && cl.qcmd ≤ cl.words + 1 then s.openQuantum c cl else { cl with words := cl.words + 1 }
  s.setCluster c { cl with
    lastWork := s.now (dieOf c), falling := false
    bursts := cl.bursts.map fun b => if b.1 = c then (c, s.now (dieOf c)) else b }

/-- LEASE (R261): it waits for the earlier words that parked (R96). -/
def execLease (s : State) : Host.Outcome State Fault Refusal :=
  s.runWord false fun _ s =>
    let c := s.cur.core
    let cl := s.cluster c
    match (s.task c).map fun t => t.anyParked .m with
    | some false =>
      if cl.holder == some c then .done s
      else if cl.reqs.contains c then .wait s
      else .wait (s.setCluster c { cl with reqs := cl.reqs ++ [c] })
    | _ => .wait s

/-- LREL (R261). -/
def State.giveUpLease (s : State) (c : Nat) : State :=
  let cl := s.cluster c
  s.setCluster c { cl with
    holder := if cl.holder == some c then none else cl.holder
    last := if cl.holder == some c then c else cl.last
    reqs := cl.reqs.filter (· != c) }
def execLrel (s : State) : Host.Outcome State Fault Refusal :=
  s.runWord false fun _ s =>
    match (s.task s.cur.core).map fun t => t.anyParked .m with
    | some false => .done (s.giveUpLease s.cur.core)
    | _ => .wait s

def execSyncM (s : State) : Host.Outcome State Fault Refusal := s.runWord false fun _ s => .done s

/-! ## Accumulator sets (R264, R265) -/

def Task.acc (t : Task) (i : BitVec 1) : AccSet := SMap.look {} t.accs i.toNat
def Task.setAcc (t : Task) (i : BitVec 1) (a : AccSet) : Task := { t with accs := SMap.put {} t.accs i.toNat a }

/-- A tenancy is spilled: its cells go to its owner's save area, with its triple in the part's own sections there, and its
owner's set is marked and counted (R265, R285, R451). -/
def State.spillOf (s : State) (x : Nat × Nat) : State :=
  match s.task x.1 with
  | none => s
  | some t =>
    let i := BitVec.ofNat 1 x.2
    let a := t.acc i
    let s := match t.ctx with
      | none => s
      | some n =>
        let s := s.quietStore (s.setAddr n t.image x.2) a.bytes
        if a.tri.isNone then s
        else
          let s := [(0x65000, 0x1000), (0x69000, 0x1000)].foldl (State.putOpaque (s.imageAddr n t.image)) s
          s.putOpaque (s.extAddr n t.image) (0, 0x40000)
    s.setTask x.1 { t.setAcc i { a with st := .spilled, cells := [] } with
      spills := BitVec.ofNat 16 (min 65535 (t.spills.toNat + 1)) }

/-- A set as it is in its physical set: a spilled one is reloaded from the save area, an empty one is zeros (R265). -/
def State.filledSet (s : State) (t : Task) (i : BitVec 1) : AccSet :=
  let a := t.acc i
  match a.st, t.ctx with
  | .spilled, some n =>
    { a with
      st := .resident
      cells := SMap.ofVals 0 ((s.physList (s.setAddr n t.image i.toNat) 4 65536).map (BitVec.ofNat 32)) }
  | _, _ => { a with st := .resident }

/-- Place a set in a physical set: a free one, else that of the tenancy least recently named (R265). -/
def State.placeSet (s : State) (c : Nat) (i : BitVec 1) : State :=
  let cl := s.cluster c
  let me := (c, i.toNat)
  let s := if cl.sets.contains me then s.setCluster c { cl with sets := cl.sets.filter (· != me) ++ [me] }
    else match cl.sets with
      | a :: b :: l => (s.spillOf a).setCluster c { cl with sets := b :: l ++ [me] }
      | l => s.setCluster c { cl with sets := l ++ [me] }
  s.modTask c fun t => t.setAcc i (s.filledSet t i)

/-- A set becomes empty and its physical set free (R271). -/
def State.emptySet (s : State) (c : Nat) (i : BitVec 1) : State :=
  let cl := s.cluster c
  (s.setCluster c { cl with sets := cl.sets.filter (· != (c, i.toNat)) }).modTask c fun t => t.setAcc i {}

/-- Change a set's contents. -/
def State.modAcc (s : State) (c : Nat) (i : BitVec 1) (f : AccSet → AccSet) : State :=
  s.modTask c fun t => t.setAcc i (f (t.acc i))
def State.accNow (s : State) (c : Nat) (i : BitVec 1) : AccSet :=
  match s.task c with
  | some t => t.acc i
  | none => {}
def AccSet.array (a : AccSet) : Array (BitVec 32) := (SMap.vals 0 65536 a.cells).toArray
/-- The store of a set's cells, row by row. -/
def cellsOfFn (f : Nat → Nat → Nat) : SMap (BitVec 32) :=
  SMap.ofVals 0 ((List.range 65536).map fun i => BitVec.ofNat 32 (f (i / 256) (i % 256)))

def Task.stick (t : Task) (x : BitVec 6) : Task := { t with sticky := t.sticky ||| x }
def stNAN : BitVec 6 := 32
def stINF : BitVec 6 := 16
def stIWRAP : BitVec 6 := 8
def stOVF : BitVec 6 := 4
def stNX : BitVec 6 := 2
def stEMPTY : BitVec 6 := 1
/-- The sticky bits of an f32 value (R285). -/
def stOf (b : Nat) : BitVec 6 :=
  match f32Val b with
  | .nan _ => stNAN
  | .inf _ => stINF
  | .fin _ => 0

/-! ## Operands (R267, R268, R270) -/

/-- The core whose cache an operand is looked up in (R98, R40). -/
def mCore (m : MTile) (c : Nat) (t : Task) : Nat :=
  match m.peer with
  | some r => c - t.rank + r.toNat
  | none => c
/-- A peer rank at or above the team size faults RESERVED_FIELD (R167). -/
def Task.peerBad (t : Task) (p : Option (BitVec 2)) : Bool :=
  match p with
  | some r => teamSize (bits t.teaminfo 51 50) ≤ r.toNat
  | none => false
/-- The peer's slot is bound to the same descriptor (R98). -/
def State.peerBound (s : State) (c core : Nat) (slot : BitVec 10) (b : Binding) : Bool :=
  core == c || match (s.task core).bind (·.binding slot) with
    | some x => x.addr == b.addr
    | none => false

/-- The uses of a slab that is read, after the tile checks of R270, item 6. -/
def State.nameRead (s : State) (c : Nat) (t : Task) (core : Nat) (b : Binding) (x : Slab) (lu mc : Bool) :
    State × Except FaultInfo (List TileUse) :=
  if !s.peerBound c core x.slot b then (s, .error (tileFault .peerSlotMismatch x.slot x.k))
  else
    match s.slabNames (t.whoMap c .m) b.d x with
    | (s, .error f) => (s, .error f)
    | (s, .ok (_, l)) => (s, .ok (readUses core x.slot x.k lu mc l))
/-- The uses of a slab that is written. -/
def State.nameWrite (s : State) (c : Nat) (t : Task) (b : Binding) (x : Slab) : State × Except FaultInfo (List TileUse) :=
  match s.slabNames (t.whoMap c .m) b.d x with
  | (s, .error f) => (s, .error f)
  | (s, .ok (ext, l)) => (s, .ok (writeUses c b.d ext x l))

/-- The uses of two operands in turn. -/
def bothUses (s : State) (a : State → State × Except FaultInfo (List TileUse))
    (b : State → State × Except FaultInfo (List TileUse)) : State × Named :=
  match a s with
  | (s, .error f) => (s, .fault f)
  | (s, .ok l) =>
    match b s with
    | (s, .error f) => (s, .fault f)
    | (s, .ok r) => (s, .uses (l ++ r))
def oneUses (x : State × Except FaultInfo (List TileUse)) : State × Named :=
  match x with
  | (s, .error f) => (s, .fault f)
  | (s, .ok l) => (s, .uses l)

def mSlab (m : MTile) (env : Env) (rows cols : Nat) : Slab := ⟨m.slot, kget env.k m.k, rows, cols⟩
def rowsOf (kb : BitVec 5) : Nat := 8 * (kb.toNat + 1)
def blocksOf (kb : BitVec 5) : Nat := kb.toNat + 1

/-- The view of an operand when its word executes. -/
def State.viewOf (s : State) (t : Task) (core : Nat) (x : Slab) (l : List TileUse) : Option SlabView :=
  (t.binding x.slot).map fun b => s.view t core b.d x l

/-- An array word without tiles. -/
def arrayPlain (f : Env → State → Nat → Task → Acted) (pre : Env → Task → Option Cause) : TileWord where
  check := fun env s c t =>
    match s.arrayGate c with
    | some r => (s, r)
    | none =>
      match pre env t with
      | some k => (s, .fault { cause := k })
      | none => (s, .uses [])
  act := fun env s c t _ => f env s c t

/-! ## ACCZ, ACCLD, ACCST (R271 to R273) -/

/-- ACCZ: the set is placed first, as any array word's (R265). -/
def acczWord (o : AccOp) : TileWord :=
  arrayPlain (fun _ s c _ => .done (((s.noteWork c).placeSet c o.acc).emptySet c o.acc)) fun _ _ => none
def execAccz (o : AccOp) (s : State) : Host.Outcome State Fault Refusal := s.runTiles (.accz o) (acczWord o)

/-- The cell that an element gives (R272): a NaN that reaches a cell is the f32 default NaN (R72). -/
def loadCell (src : ETy) (b : Nat) : Nat :=
  match src with
  | .f32 => match f32Val b with
    | .nan _ => defaultNaN .f32
    | _ => b
  | .i32 => b
  | t => (convert .f32 t .rne false false b).1
def accldWord (o : AccldOp) : TileWord where
  check := fun env s c t =>
    if t.peerBad o.t.peer then (s, .fault { cause := .reservedField })
    else
      match s.arrayGate c, t.binding o.t.slot with
      | some r, _ => (s, r)
      | none, none => (s, .fault (tileFault .slotUnbound o.t.slot (kget env.k o.t.k)))
      | none, some b =>
        if b.d.ty != o.src then (s, .fault { cause := .operandType })
        else oneUses (s.nameRead c t (mCore o.t c t) b (mSlab o.t env (rowsOf o.kb) 256) o.t.lu o.t.mc)
  act := fun env s c t l =>
    match s.viewOf t (mCore o.t c t) (mSlab o.t env (rowsOf o.kb) 256) l with
    | none => .wait
    | some v =>
      let s := (s.noteWork c).placeSet c o.acc
      let old := (s.accNow c o.acc).array
      let cell (r col : Nat) : Nat :=
        if r < rowsOf o.kb then
          match v.get r col with
          | some x => loadCell o.src x.1.toNat
          | none => 0
        else (old.getD (256 * r + col) 0).toNat
      let st := if o.cell = .f32 then
          (List.range (rowsOf o.kb * 256)).foldl (fun x i => x ||| stOf (cell (i / 256) (i % 256))) 0
        else 0
      .done ((s.modAcc c o.acc fun a => { a with cells := cellsOfFn cell, tri := none }).modTask c fun t => t.stick st)
def execAccld (o : AccldOp) (s : State) : Host.Outcome State Fault Refusal := s.runTiles (.accld o) (accldWord o)

/-- One element of a drain (R273): its bits and the sticky bits. Of an i32 cell that does not fit i8 the rule does not say whether
dropped high bits, with SAT 0, count as an overflow, nor whether the drain is inexact: OVF is set with either SAT, NX with neither.
(log 75 DESIGN CHOICE) -/
def drain (dst cell : ETy) (m : Mode) (sat : Bool) (b : Nat) : Nat × BitVec 6 :=
  if dst = cell then (b, if cell = .f32 then stOf b &&& stNAN else 0)
  else
    let (v, fl) := convert dst cell m sat false b
    let st : BitVec 6 := (if fl &&& flOF != 0 then stOVF else 0) ||| (if fl &&& flNX != 0 then stNX else 0)
    if dst.isInt then (v, if intVal dst v = intVal cell b then st else st ||| stOVF)
    else (v, if (unpack dst false v).isNaN then st ||| stNAN else st)

/-- The M strand's LFSR state (R60). -/
def Task.mlfsr (t : Task) : BitVec 32 := t.lseed.extractLsb' 32 32
def Task.setMlfsr (t : Task) (x : BitVec 32) : Task := { t with lseed := lfsrFix x ++ t.lseed.extractLsb' 0 32 }
/-- Whether a drain rounds (R54). -/
def drainRounds (dst cell : ETy) : Bool := dst != cell && !dst.isInt

/-- Drain a view's elements: what to write, the sticky bits of the inside elements, and the LFSR's new state. -/
structure Drained where
  out : Nat → Nat → Nat
  st : BitVec 6
  lfsr : Option (BitVec 32)
def drainAll (t : Task) (env : Env) (rm : Rnd) (sat : Bool) (dst cell : ETy) (a : Array (BitVec 32)) (rows : Nat)
    (inside : Nat → Nat → Bool) : Drained :=
  let r := roundAt rm env.fpctl t.mlfsr
  let res := ((List.range (rows * 256)).map fun i =>
    if inside (i / 256) (i % 256) then drain dst cell (r.mode i) sat (a.getD i 0).toNat else (0, 0)).toArray
  ⟨fun row col => (res.getD (256 * row + col) (0, 0)).1, res.foldl (fun x y => x ||| y.2) 0,
    if r.code = 4 && drainRounds dst cell then some r.lfsr else none⟩

/-- Which elements of a written slab lie inside, once its tiles are resident or blank (R268). -/
def State.insideOf (s : State) (c : Nat) (t : Task) (d : TDesc) (b : Slab) (l : List TileUse) (row col : Nat) : Bool :=
  let k := moveK b.k (col / d.shape.2) (row / d.shape.1)
  match l.find? fun u => u.slot == b.slot && u.k == k with
  | none => false
  | some u =>
    let mask := match s.hitTile t u with
      | some x => x.mask
      | none => fullMask
    mask.getLsbD (row % d.shape.1) && inExt d (if d.layout = 3 then d.extents (2 ^ 32) else d.extents 0) b.k row col &&
      c == u.core

/-- Keep a drain's side effects (R54, R273). -/
def State.keepDrain (s : State) (c : Nat) (x : Drained) : State :=
  s.modTask c fun t =>
    let t := t.stick x.st
    match x.lfsr with
    | some y => t.setMlfsr y
    | none => t

def accstSlab (o : AccstOp) (env : Env) : Slab := ⟨o.slot, kget env.k o.k, rowsOf o.kb, 256⟩
def accstWord (o : AccstOp) : TileWord where
  check := fun env s c t =>
    match s.arrayGate c, t.binding o.slot with
    | some r, _ => (s, r)
    | none, none => (s, .fault (tileFault .slotUnbound o.slot (kget env.k o.k)))
    | none, some b =>
      if b.d.ty != o.dst then (s, .fault { cause := .operandType }) else oneUses (s.nameWrite c t b (accstSlab o env))
  act := fun env s c t l =>
    match t.binding o.slot with
    | none => .wait
    | some b =>
      let s1 := (s.noteWork c).placeSet c o.acc
      let x := drainAll t env o.rm o.sat o.dst o.cell (s1.accNow c o.acc).array (rowsOf o.kb)
        (s.insideOf c t b.d (accstSlab o env) l)
      match s1.writeTiles c t b l (slabElem b.d (accstSlab o env) x.out) with
      | .done s => .done ((if o.fin then s.emptySet c o.acc else s).keepDrain c x)
      | .fault _ f => .fault s f
      | .refused x => .refused { s with cur := x.cur }
      | r => r
def execAccst (o : AccstOp) (s : State) : Host.Outcome State Fault Refusal := s.runTiles (.accst o) (accstWord o)

/-! ## Block sums (R72, R73) -/

/-- An element with its scale (R49); scale 0xff makes it NaN. -/
def scaled (ty : ETy) (x : BitVec 32 × BitVec 8) : FVal :=
  if x.2 = 0xff then .nan false
  else
    match unpack ty false x.1.toNat with
    | .fin y => .fin { y with exp := y.exp + ((x.2.toNat : Int) - 127) }
    | v => v

def topExp (x : Exact) : Int := (x.mant.log2 : Int) + x.exp
/-- |P| in whole units of 2^q, signed (R72: truncation toward zero). -/
def unitsOf (q : Int) (x : Exact) : Int :=
  let n : Nat := if q ≤ x.exp then x.mant * 2 ^ (x.exp - q).toNat else x.mant / 2 ^ (q - x.exp).toNat
  if x.neg then -(n : Int) else n

/-- A block's sum in f32 bits (R72). -/
def blockSum (l : List FVal) : Nat :=
  if l.any FVal.isNaN || (l.contains (.inf true) && l.contains (.inf false)) then defaultNaN .f32
  else if l.contains (.inf true) then infBits .f32 true
  else if l.contains (.inf false) then infBits .f32 false
  else
    let fs := l.filterMap fun v => match v with
      | .fin x => if x.mant = 0 then none else some x
      | _ => none
    match fs with
    | [] => 0
    | x :: t =>
      let q := (t.foldl (fun e y => max e (topExp y)) (topExp x)) - 48
      let v := (fs.map (unitsOf q)).sum
      if v = 0 then 0 else (⟨.fin ⟨v < 0, v.natAbs, q, false⟩, 0⟩ : Res).f32
/-- One step of R72 on a cell. -/
def blockStep (acc : Nat) (l : List FVal) : Nat := addF32 acc (blockSum l)

/-! ## MMA (R274, R275) -/

/-- Elements of a K block (R72). -/
def kbOf (ty : ETy) : Nat := if ty.width = 16 then 32 else if ty.width = 8 then 64 else 128

/-- The elements of a view's row in columns `from_` up, `n` of them. -/
def SlabView.run {α : Type} (v : SlabView) (f : BitVec 32 × BitVec 8 → α) (row from_ n : Nat) : List (Option α) :=
  (List.range n).map fun i => (v.get row (from_ + i)).map f
/-- The pairs whose both elements lie inside. -/
def pairsOf {α : Type} (a b : List (Option α)) : List (α × α) :=
  (a.zip b).filterMap fun x => match x with
    | (some p, some q) => some (p, q)
    | _ => none

/-- One cell through all K blocks in f32: its bits and what reached it (R72). -/
def mmaCell (a b : List (List (Option FVal))) (acc : Nat) : Nat × BitVec 6 :=
  (a.zip b).foldl (fun x ab =>
    let v := blockStep x.1 ((pairsOf ab.1 ab.2).map fun p => (mulVal p.1 p.2).val)
    (v, x.2 ||| stOf v)) (acc, 0)
/-- One cell in i32 (R73). -/
def mmaCellInt (a b : List (List (Option Int))) (acc : Nat) : Nat × BitVec 6 :=
  (a.zip b).foldl (fun x ab =>
    let v := intVal .i32 x.1 + ((pairsOf ab.1 ab.2).map fun p => p.1 * p.2).sum
    (wrapInt 32 v, x.2 ||| if v = intVal .i32 (wrapInt 32 v) then 0 else stIWRAP)) (acc, 0)

/-- Every row of a view cut into K blocks. -/
def SlabView.blocks {α : Type} (v : SlabView) (f : BitVec 32 × BitVec 8 → α) (nb kb : Nat) :
    Array (List (List (Option α))) :=
  ((List.range 256).map fun r => (List.range nb).map fun b => v.run f r (b * kb) kb).toArray

/-- All cells of an MMA. -/
def mmaAll {α : Type} (step : List (List (Option α)) → List (List (Option α)) → Nat → Nat × BitVec 6)
    (a b : Array (List (List (Option α)))) (old : Array (BitVec 32)) : Array (Nat × BitVec 6) :=
  ((List.range 65536).map fun i =>
    step (a.getD (i / 256) []) (b.getD (i % 256) []) (old.getD i 0).toNat).toArray

def mmaWord (o : MmaOp) : TileWord where
  check := fun env s c t =>
    let cols := blocksOf o.kb * kbOf o.aty
    if t.peerBad o.ta.peer || t.peerBad o.tb.peer then (s, .fault { cause := .reservedField })
    else
      match s.arrayGate c, t.binding o.ta.slot, t.binding o.tb.slot with
      | some r, _, _ => (s, r)
      | none, none, _ => (s, .fault (tileFault .slotUnbound o.ta.slot (kget env.k o.ta.k)))
      | none, _, none => (s, .fault (tileFault .slotUnbound o.tb.slot (kget env.k o.tb.k)))
      | none, some a, some b =>
        if a.d.ty != o.aty || b.d.ty != o.bty then (s, .fault { cause := .operandType })
        else bothUses s
          (fun s => s.nameRead c t (mCore o.ta c t) a (mSlab o.ta env 256 cols) o.ta.lu o.ta.mc)
          (fun s => s.nameRead c t (mCore o.tb c t) b (mSlab o.tb env 256 cols) o.tb.lu o.tb.mc)
  act := fun env s c t l =>
    let nb := blocksOf o.kb
    let kb := kbOf o.aty
    match s.viewOf t (mCore o.ta c t) (mSlab o.ta env 256 (nb * kb)) l,
      s.viewOf t (mCore o.tb c t) (mSlab o.tb env 256 (nb * kb)) l with
    | some a, some b =>
      let s := (s.noteWork c).placeSet c o.acc
      let old := (s.accNow c o.acc).array
      let r := if o.aty = .i8 then
          mmaAll mmaCellInt (a.blocks (fun x => intVal .i8 x.1.toNat) nb kb) (b.blocks (fun x => intVal .i8 x.1.toNat) nb kb) old
        else mmaAll mmaCell (a.blocks (scaled o.aty) nb kb) (b.blocks (scaled o.bty) nb kb) old
      let s := s.modAcc c o.acc fun x =>
        { x with cells := cellsOfFn fun i j => (r.getD (256 * i + j) (0, 0)).1, tri := none }
      .done (s.modTask c fun t => t.stick (r.foldl (fun x y => x ||| y.2) 0))
    | _, _ => .wait
def execMma (o : MmaOp) (s : State) : Host.Outcome State Fault Refusal := s.runTiles (.mma o) (mmaWord o)

/-! ## MBURST and MSTAT (R283, R284) -/

def execMburstStart (s : State) : Host.Outcome State Fault Refusal :=
  s.runWord false fun _ s =>
    let c := s.cur.core
    let cl := s.cluster c
    .done (s.setCluster c { cl with
      bursts := cl.bursts.filter (·.1 != c) ++ [(c, s.now (dieOf c))], falling := false, soon := false })
/-- An array word of a cluster's holder is ready to execute. -/
def State.workPending (s : State) (cl : Cluster) : Bool :=
  match cl.holder.bind fun c => s.task c with
  | none => false
  | some t => t.replay.any fun p => (accOf p.instr).isSome && s.allHit t p.uses
/-- MBURST.end: when no other declaration stands, ramp-down begins as soon as array work ends. -/
def execMburstEnd (s : State) : Host.Outcome State Fault Refusal :=
  s.runWord false fun _ s =>
    let c := s.cur.core
    let cl := s.cluster c
    let left := cl.bursts.filter (·.1 != c)
    let work := s.workPending cl
    .done (s.setCluster c { cl with
      bursts := left, falling := cl.falling || left.isEmpty && !work, soon := left.isEmpty && work })

/-- MSTAT.clr (R284): the control writes of MSTAT before it come first (R285). -/
def execMstat (o : MstatOp) (s : State) : Host.Outcome State Fault Refusal :=
  s.runWord true fun _ s =>
    match (s.task s.cur.core).map fun t => t.anyParked .m with
    | some false => .done (s.modTask s.cur.core fun t => { t with sticky := t.sticky &&& ~~~ o.mask })
    | _ => .wait s

end Sys2Proof.Machine
end

