-- ==== Sys2Proof/Machine/Transcend.lean ====
section
/-! DEFINITION. The transcendental functions by the algorithms of 03, R65 to R71. -/

namespace Sys2Proof.Machine

/-! ## Tables (R66) -/

/-- Nearest integer to n/d, ties to even. -/
def roundDiv (n d : Nat) : Nat :=
  let k := n / d
  let r := 2 * (n % d)
  if d < r || (r = d && k % 2 = 1) then k + 1 else k

def iterSqrt : Nat → Nat → Nat
  | 0, n => n
  | k + 1, n => iterSqrt k (isqrt n)
/-- T[j]: the 64th root of 2^j in units of 2^-30, to nearest. -/
def tabT : List Nat := (List.range 64).map fun j => (iterSqrt 6 (2 ^ (j + 31 * 64)) + 1) / 2
def tabRc : List Nat := (List.range 64).map fun j => roundDiv (2 ^ 36) (64 + j)
/-- Lg[j], computed from R66 in exact arithmetic outside the model. (log 16 DEDUCED) -/
def tabLg : List Nat :=
  [0, 201471349029178, 399866678422151, 595278505524908, 787795241553138, 977501412075500, 1164477887448073, 1348802143580376] ++
  [1530548344840283, 1709787625464726, 1886588191988580, 2061015535857951, 2233132518100789, 2402999528063783, 2570674645851786, 2736213730476432] ++
  [2899670499375188, 3061096687789596, 3220542152930896, 3378054884068246, 3533681194292818, 3687465737902775, 3839451580496894, 3989680324755551] ++
  [4138192128455985, 4285025806368688, 4430218834382431, 4573807504948264, 4715826861920238, 4856310836115489, 4995292294165835, 5132803010857585] ++
  [5268873794495923, 5403534500897314, 5536814056603944, 5668740472728977, 5799340999506764, 5928641972554700, 6056669042100163, 6183447032663850] ++
  [6309000114795313, 6433351694613491, 6556524582659861, 6678540894134949, 6799422152194797, 6919189277823540, 7037862624805623, 7155461999532191] ++
  [7272006643192071, 7387515344693227, 7502006304276448, 7615497362619105, 7728005784433328, 7839548453773591, 7950141814523324, 8059801900251156] ++
  [8168544299922213, 8276384261450297, 8383336664223666, 8489415945724947, 8594636284447451, 8699011486401556, 8802554986897772, 8905279974246277]
def tabPr : List Nat := (List.range 128).map fun j => roundDiv (2 ^ 38) (257 + 2 * j)
/-- Qr[c][j]: 2^30 / sqrt((1 + c)(129 + 2j)/128), to nearest. -/
def tabQr (c : Nat) : List Nat :=
  (List.range 64).map fun j => (isqrt (2 ^ 69 / ((1 + c) * (129 + 2 * j))) + 1) / 2
def factorial : Nat → Nat
  | 0 => 1
  | n + 1 => (n + 1) * factorial n
def cf (n : Nat) : Int := (2 ^ 62 / factorial n : Nat)
def twoOverPi : Nat := 0xa2f9836e4e441529fc2757d1f534ddc0db6295993c439041

/-! ## Pieces (R65) -/

/-- a >> n, the floor for negative a too. -/
def shr (a : Int) (n : Nat) : Int := a / (2 ^ n : Nat)

/-- decompose: mant in [2^23, 2^24) and e. -/
def decompose (x : Exact) : Nat × Int :=
  let l := x.mant.log2
  ((if l ≤ 23 then x.mant * 2 ^ (23 - l) else x.mant / 2 ^ (l - 23)), (l : Int) + x.exp)

/-- An exact integer over 2^p. -/
def overPow (v : Int) (p : Int) : Exact := ⟨v < 0, v.natAbs, p, false⟩

/-- What a function gives before the last rounding, the flags its algorithm marks, and whether NX stays clear (R65). -/
structure TRes where
  val : FVal
  fl : FFlags
  exact : Bool

def tExact (v : FVal) : TRes := ⟨v, 0, true⟩
def tNaN (a : FVal) : TRes := ⟨.nan false, if a.isSNaN then flIV else 0, true⟩
def tInvalid : TRes := ⟨.nan false, flIV, true⟩
def tRound (x : Exact) (exact : Bool) : TRes := ⟨.fin x, 0, exact⟩

/-- The bits delivered to a type, with the flags of R65. -/
def TRes.to (r : TRes) (t : ETy) (ftz : Bool) : Nat × FFlags :=
  let (b, fl) := Res.to ⟨r.val, 0⟩ t .rne false ftz
  (b, r.fl ||| fl ||| (if r.exact then 0 else flNX))

/-! ## The functions -/

/-- exp2_core (R67). -/
def exp2Core (x : Int) : Nat × Int :=
  let n := shr x 24
  let f := (x - n * 2 ^ 24).toNat
  let j := f / 2 ^ 18
  let g := f % 2 ^ 18
  let h := 0x038d611b * g / 2 ^ 24
  let h := (0x0f5fdf00 + h) * g / 2 ^ 24
  let h := (0x2c5c85fe + h) * g / 2 ^ 24
  let t := tabT.getD j 0
  (t + t * h / 2 ^ 30, n)

/-- Nearest integer to x × 2^24, ties to even. -/
def toQ24 (x : Exact) : Int :=
  let (k, _) := roundUnits .rne x (-24)
  if x.neg then -(k : Int) else k

/-- The value of x against a power of two: |x| < 2^p. -/
def Exact.below (x : Exact) (p : Int) : Bool := x.mant == 0 || (x.mant.log2 : Int) + x.exp < p

def isInteger (x : Exact) : Bool := 0 ≤ x.exp || x.mant % 2 ^ (-x.exp).toNat = 0

def exp2T (a : FVal) : TRes :=
  match a with
  | .nan _ => tNaN a
  | .inf n => tExact (if n then .fin ⟨false, 0, 0, false⟩ else .inf false)
  | .fin x =>
    if !x.neg && !x.below 7 then ⟨.inf false, flOF ||| flNX, false⟩
    else if x.neg && cmpExact x ⟨true, 152, 0, false⟩ == .lt then
      ⟨.fin ⟨false, 0, 0, false⟩, flUF ||| flNX, false⟩
    else
      let (m, n) := exp2Core (toQ24 x)
      tRound ⟨false, m, n - 30, false⟩ (isInteger x)

def log2T (a : FVal) : TRes :=
  match a with
  | .nan _ => tNaN a
  | .inf n => if n then tInvalid else tExact (.inf false)
  | .fin x =>
    if x.isZero then ⟨.inf true, flDZ, true⟩
    else if x.neg then tInvalid
    else
      let (mant, e) := decompose x
      let j := field mant 22 17
      let z : Int := (mant * tabRc.getD j 0 : Nat) - (2 ^ 53 : Nat)
      let h := 0xaaaaaaaaaaaab - shr z 2
      let h := 0x10000000000000 - shr (z * h) 53
      let h := 0x20000000000000 - shr (z * h) 53
      let h := shr (z * h) 53
      let h := shr (h * 0x2e2a8eca5705fc) 53
      tRound (overPow (e * 2 ^ 53 + (tabLg.getD j 0 : Nat) + h) (-53)) (mant = 2 ^ 23)

/-- One Newton step of rcp (R69), repeated. -/
def rcpIter (mant : Int) : Nat → Int → Int
  | 0, y => y
  | n + 1, y => rcpIter mant n (y + shr (y * (2 ^ 53 - mant * y)) 53)

def rcpT (a : FVal) : TRes :=
  match a with
  | .nan _ => tNaN a
  | .inf n => tExact (.fin ⟨n, 0, 0, false⟩)
  | .fin x =>
    if x.isZero then ⟨.inf x.neg, flDZ, true⟩
    else
      let (mant, e) := decompose x
      if mant = 2 ^ 23 then tRound ⟨x.neg, 1, -e, false⟩ true
      else
        let y := rcpIter mant 2 (tabPr.getD (field mant 22 16) 0 : Nat)
        tRound ⟨x.neg, y.toNat, -e - 30, false⟩ false

/-- One Newton step of rsq (R69), repeated. -/
def rsqIter (mm : Int) : Nat → Int → Int
  | 0, y => y
  | n + 1, y => rsqIter mm n (shr (y * (3 * 2 ^ 30 - shr (mm * y * y) 53)) 31)

def rsqT (a : FVal) : TRes :=
  match a with
  | .nan _ => tNaN a
  | .inf n => if n then tInvalid else tExact (.fin ⟨false, 0, 0, false⟩)
  | .fin x =>
    if x.isZero then ⟨.inf x.neg, flDZ, true⟩
    else if x.neg then tInvalid
    else
      let (mant, e) := decompose x
      let c := (e % 2).toNat
      let ee := e - c
      if mant = 2 ^ 23 && c = 0 then tRound ⟨false, 1, -ee / 2, false⟩ true
      else
        let y := rsqIter ((mant * 2 ^ c : Nat)) 2 ((tabQr c).getD (field mant 22 17) 0 : Nat)
        tRound ⟨false, y.toNat, -ee / 2 - 30, false⟩ false

def tanhT (a : FVal) : TRes :=
  match a with
  | .nan _ => tNaN a
  | .inf n => tExact (.fin ⟨n, 1, 0, false⟩)
  | .fin x =>
    let p : Exact := { x with neg := false }
    if cmpExact p ⟨false, 10, 0, false⟩ != .lt then tRound ⟨x.neg, 1, 0, false⟩ false
    else if p.below (-12) then tRound x x.isZero
    else if p.below (-2) then
      let aa := (roundUnits .rtz p (-35)).1
      let s : Int := shr (aa * aa : Nat) 40
      let h := shr (s * 0x01664f48) 30
      let h := shr (s * (0x03743743 - h)) 30
      let h := shr (s * (0x08888889 - h)) 30
      let h := shr (s * (0x15555555 - h)) 30
      tRound ⟨x.neg, (shr (aa * (2 ^ 30 - h)) 30).toNat, -35, false⟩ false
    else
      let (v, _) := roundUnits .rtz ⟨false, p.mant * 0xb8aa3b29, p.exp - 6, false⟩ 0
      let (m, n) := exp2Core v
      let q := if 0 ≤ n then 2 ^ 62 / (m * 2 ^ n.toNat + 2 ^ 30)
        else 2 ^ (62 + (-n).toNat) / (m + 2 ^ (30 + (-n).toNat))
      tRound ⟨x.neg, 2 ^ 31 - q, -31, false⟩ false

/-- The horner sums of R71 over the coefficients given. -/
def hornerCf (s2 : Int) (h : Int) : List Nat → Int
  | [] => h
  | n :: l => hornerCf s2 (cf n - shr (s2 * h) 62) l

/-- Sine and cosine (R71). -/
def sincosT (a : FVal) : TRes × TRes :=
  match a with
  | .nan _ => (tNaN a, tNaN a)
  | .inf _ => (tInvalid, tInvalid)
  | .fin x =>
    let one : Exact := ⟨false, 1, 0, false⟩
    if !x.below 26 then (⟨.fin ⟨false, 0, 0, false⟩, flRNG, true⟩, ⟨.fin one, flRNG, true⟩)
    else if x.below (-12) then (tRound x x.isZero, tRound one x.isZero)
    else
      let (mant, e) := decompose x
      let t : Int := shr (mant * twoOverPi : Nat) (153 - e).toNat
      let k := shr (t + 2 ^ 61) 62
      let f := t - k * 2 ^ 62
      let y := shr (f * 0x6487ed5110b4611a) 62
      let s2 := shr (y * y) 62
      let h := hornerCf s2 (cf 13) [11, 9, 7, 5, 3]
      let sn := y - shr (y * shr (s2 * h) 62) 62
      let h := hornerCf s2 (cf 12) [10, 8, 6, 4, 2]
      let cn := 2 ^ 62 - shr (s2 * h) 62
      let (ss, cc) := match (k % 4).toNat with
        | 0 => (sn, cn)
        | 1 => (cn, -sn)
        | 2 => (-sn, -cn)
        | _ => (-cn, sn)
      (tRound (overPow (if x.neg then -ss else ss) (-62)) false, tRound (overPow cc (-62)) false)

end Sys2Proof.Machine
end

