-- ==== Sys2Proof/Machine/VFloat.lean ====
section
/-! DEFINITION. The floating words of the V strand (09, R234 to R240). -/

namespace Sys2Proof.Machine

/-- SYNC.v. -/
def execSyncV (s : State) : Host.Outcome State Fault Refusal := s.runWord false fun _ s => .done s

def valAt (ty : ETy) (ftz : Bool) (vals : List Vec) (k i : Nat) : FVal :=
  unpack ty ftz (laneAt ty.width (vals.getD k 0) i)

/-- The arithmetic words (R235): one exact operation, one rounding. -/
def State.arith1 (s : State) (o : VF1) (f : FVal → Res) : Host.Outcome State Fault Refusal :=
  s.floatWord o.ty o.d o.pr [o.a] o.rm fun r z v i =>
    (f (valAt o.ty z v 0 i)).arith o.ty (r.mode i) o.sat z
def State.arith2 (s : State) (o : VF2) (f : Bool → FVal → FVal → Res) : Host.Outcome State Fault Refusal :=
  s.floatWord o.ty o.d o.pr [o.a, o.b] o.rm fun r z v i =>
    (f r.down (valAt o.ty z v 0 i) (valAt o.ty z v 1 i)).arith o.ty (r.mode i) o.sat z
def State.arith3 (s : State) (o : VF3) (f : Bool → FVal → FVal → FVal → Res) : Host.Outcome State Fault Refusal :=
  s.floatWord o.ty o.d o.pr [o.a, o.b, o.c] o.rm fun r z v i =>
    (f r.down (valAt o.ty z v 0 i) (valAt o.ty z v 1 i) (valAt o.ty z v 2 i)).arith o.ty (r.mode i) o.sat z

def execVfadd (o : VF2) (s : State) : Host.Outcome State Fault Refusal := s.arith2 o addVal
def execVfsub (o : VF2) (s : State) : Host.Outcome State Fault Refusal := s.arith2 o fun dn a b => addVal dn a b.neg
def execVfmul (o : VF2) (s : State) : Host.Outcome State Fault Refusal := s.arith2 o fun _ a b => mulVal a b
def execVfmulz (o : VF2) (s : State) : Host.Outcome State Fault Refusal := s.arith2 o fun _ a b => mulzVal a b
def execVfma (o : VF3) (s : State) : Host.Outcome State Fault Refusal :=
  s.arith3 o fun dn a b c => fmaVal dn (mulVal a b) c
def execVfmaz (o : VF3) (s : State) : Host.Outcome State Fault Refusal :=
  s.arith3 o fun dn a b c => fmaVal dn (mulzVal a b) c
def execVfms (o : VF3) (s : State) : Host.Outcome State Fault Refusal :=
  s.arith3 o fun dn a b c => fmaVal dn (mulVal a b) c.neg
def execVfnma (o : VF3) (s : State) : Host.Outcome State Fault Refusal :=
  s.arith3 o fun dn a b c => fmaVal dn (mulVal a.neg b) c
def execVfdiv (o : VF2) (s : State) : Host.Outcome State Fault Refusal := s.arith2 o fun _ a b => divVal a b
def execVfsqrt (o : VF1) (s : State) : Host.Outcome State Fault Refusal := s.arith1 o sqrtVal

/-- −0 ranks below +0 (R236). -/
def rankLt (a b : FVal) : Bool :=
  match cmpVal a b with
  | .lt => true
  | .gt => false
  | .eq => a.sign && !b.sign

/-- The smaller or larger of two values (R236, R74). -/
def pickVal (large : Bool) (a b : FVal) : Res :=
  if a.isNaN || b.isNaN then nanRes [a, b]
  else ⟨if rankLt a b == large then b else a, 0⟩

def State.minmax (s : State) (o : VX2) (large : Bool) : Host.Outcome State Fault Refusal :=
  s.floatWord o.ty o.d o.pr [o.a, o.b] .rne fun _ z v i =>
    (pickVal large (valAt o.ty z v 0 i) (valAt o.ty z v 1 i)).arith o.ty .rne false false
def execVfmin (o : VX2) (s : State) : Host.Outcome State Fault Refusal := s.minmax o false
def execVfmax (o : VX2) (s : State) : Host.Outcome State Fault Refusal := s.minmax o true

/-- Bit operations (R46, R236): no flag, payloads kept. -/
def topBit (ty : ETy) : Nat := 2 ^ (ty.width - 1)
def execVfabs (o : VX1) (s : State) : Host.Outcome State Fault Refusal :=
  s.laneWord o.ty o.d o.pr [o.a] false fun _ _ _ v i => laneAt o.ty.width (v.getD 0 0) i % topBit o.ty
def execVfneg (o : VX1) (s : State) : Host.Outcome State Fault Refusal :=
  s.laneWord o.ty o.d o.pr [o.a] false fun _ _ _ v i => laneAt o.ty.width (v.getD 0 0) i ^^^ topBit o.ty
def execVfcpsgn (o : VX2) (s : State) : Host.Outcome State Fault Refusal :=
  s.laneWord o.ty o.d o.pr [o.a, o.b] false fun _ _ _ v i =>
    laneAt o.ty.width (v.getD 0 0) i % topBit o.ty +
      laneAt o.ty.width (v.getD 1 0) i / topBit o.ty * topBit o.ty

/-- The transcendental words (R65, R237). -/
def State.transcend (s : State) (o : VTr) (f : FVal → TRes) : Host.Outcome State Fault Refusal :=
  s.floatWord o.ty o.d o.pr [o.a] .rne fun _ z v i => (f (valAt o.ty z v 0 i)).to o.ty z
def execVfrcp (o : VTr) (s : State) : Host.Outcome State Fault Refusal := s.transcend o rcpT
def execVfrsq (o : VTr) (s : State) : Host.Outcome State Fault Refusal := s.transcend o rsqT
def execVfexp2 (o : VTr) (s : State) : Host.Outcome State Fault Refusal := s.transcend o exp2T
def execVflog2 (o : VTr) (s : State) : Host.Outcome State Fault Refusal := s.transcend o log2T
def execVfsin (o : VTr) (s : State) : Host.Outcome State Fault Refusal := s.transcend o fun a => (sincosT a).1
def execVfcos (o : VTr) (s : State) : Host.Outcome State Fault Refusal := s.transcend o fun a => (sincosT a).2
def execVftanh (o : VTr) (s : State) : Host.Outcome State Fault Refusal := s.transcend o tanhT

/-- The conditions of R238 with their flags. -/
def fcmpHolds (k : FCmp) (a b : FVal) : Bool × FFlags :=
  if a.isNaN || b.isNaN then
    let sn := a.isSNaN || b.isSNaN
    match k with
    | .ne | .un => (true, if sn then flIV else 0)
    | .eq | .or => (false, if sn then flIV else 0)
    | _ => (false, flIV)
  else
    let o := cmpVal a b
    (match k with
     | .eq => o == .eq
     | .ne => o != .eq
     | .lt => o == .lt
     | .le => o != .gt
     | .gt => o == .gt
     | .ge => o != .lt
     | .un => false
     | .or => true, 0)

/-- VFCMP (R229, R238). -/
def execVfcmp (o : VFCmpOp) (s : State) : Host.Outcome State Fault Refusal :=
  s.runV true [o.a, o.b] none 0 fun env t vals =>
    let p := t.pread env.prb o.pr.p
    let z := ftzOf env.fpctl
    let w := o.ty.width
    let out := (List.range o.ty.lanes).map fun i =>
      if laneActive w p i then fcmpHolds o.cond (valAt o.ty z vals 0 i) (valAt o.ty z vals 1 i) else (false, 0)
    let r := packLanes 1 (out.map fun x => x.1.toNat)
    .ok { pred := some (o.d, mergePred w p o.pr.z (t.pread env.prb o.d) fun i => r.testBit i)
          fl := out.foldl (fun a x => a ||| x.2) 0 }

/-- The class bit of a lane (R239), from its raw bits. -/
def classBit (ty : ETy) (b : Nat) : Nat :=
  match unpack ty false b with
  | .nan sn => if sn then 8 else 9
  | .inf n => if n then 0 else 7
  | .fin x =>
    if x.mant = 0 then if x.neg then 3 else 4
    else if x.mant < 2 ^ (fmtOf ty).fb then if x.neg then 2 else 5
    else if x.neg then 1 else 6
def execVfclass (o : VX1) (s : State) : Host.Outcome State Fault Refusal :=
  s.laneWord o.ty o.d o.pr [o.a] false fun _ _ _ v i => 2 ^ classBit o.ty (laneAt o.ty.width (v.getD 0 0) i)

/-- An integral value of the same type (R240). -/
def roundIntegral (ty : ETy) (m : Mode) (a : FVal) : Nat × FFlags :=
  match a with
  | .nan sn => (defaultNaN ty, if sn then flIV else 0)
  | .inf n => (infBits ty n, 0)
  | .fin x =>
    let (k, _) := roundUnits m x 0
    ((roundTo ty .rne false false ⟨x.neg, k, 0, false⟩).1, 0)
def execVfrnd (o : VRndOp) (s : State) : Host.Outcome State Fault Refusal :=
  s.floatWord o.ty o.d o.pr [o.a] o.rm fun r z v i => roundIntegral o.ty (r.mode i) (valAt o.ty z v 0 i)

end Sys2Proof.Machine
end

