-- ==== Sys2Proof/Machine/VInt.lean ====
section
/-! DEFINITION. The integer words of the V strand (09, R241 to R243). -/

namespace Sys2Proof.Machine

def rawAt (ty : ETy) (v : List Vec) (k i : Nat) : Nat := laneAt ty.width (v.getD k 0) i

/-- Integer words by their lanes' values, signed or natural by ty; the result wraps to the lane (R242). -/
def State.int2 (s : State) (o : VX2) (f : Int → Int → Int) : Host.Outcome State Fault Refusal :=
  s.laneWord o.ty o.d o.pr [o.a, o.b] false fun _ _ _ v i =>
    wrapInt o.ty.width (f (intVal o.ty (rawAt o.ty v 0 i)) (intVal o.ty (rawAt o.ty v 1 i)))
def State.bits2 (s : State) (o : VX2) (f : Nat → Nat → Nat) : Host.Outcome State Fault Refusal :=
  s.laneWord o.ty o.d o.pr [o.a, o.b] false fun _ _ _ v i => f (rawAt o.ty v 0 i) (rawAt o.ty v 1 i)
def State.bits1 (s : State) (o : VX1) (f : Nat → Nat) : Host.Outcome State Fault Refusal :=
  s.laneWord o.ty o.d o.pr [o.a] false fun _ _ _ v i => f (rawAt o.ty v 0 i)

def execVadd (o : VX2) (s : State) : Host.Outcome State Fault Refusal := s.int2 o fun a b => a + b
def execVsub (o : VX2) (s : State) : Host.Outcome State Fault Refusal := s.int2 o fun a b => a - b
def execVadds (o : VX2) (s : State) : Host.Outcome State Fault Refusal :=
  s.int2 o fun a b => clampInt (a + b) (intLo o.ty) (intHi o.ty)
def execVsubs (o : VX2) (s : State) : Host.Outcome State Fault Refusal :=
  s.int2 o fun a b => clampInt (a - b) (intLo o.ty) (intHi o.ty)
def execVmul (o : VX2) (s : State) : Host.Outcome State Fault Refusal := s.int2 o fun a b => a * b
def execVmulh (o : VX2) (s : State) : Host.Outcome State Fault Refusal :=
  s.int2 o fun a b => a * b / (2 ^ o.ty.width : Nat)
def execVmin (o : VX2) (s : State) : Host.Outcome State Fault Refusal := s.int2 o fun a b => if b < a then b else a
def execVmax (o : VX2) (s : State) : Host.Outcome State Fault Refusal := s.int2 o fun a b => if a < b then b else a
def execVand (o : VX2) (s : State) : Host.Outcome State Fault Refusal := s.bits2 o fun a b => a &&& b
def execVor (o : VX2) (s : State) : Host.Outcome State Fault Refusal := s.bits2 o fun a b => a ||| b
def execVxor (o : VX2) (s : State) : Host.Outcome State Fault Refusal := s.bits2 o fun a b => a ^^^ b

/-- The shifts of R242 at width `w`. -/
def laneShl (w a n : Nat) : Nat := a * 2 ^ (n % w) % 2 ^ w
def laneShr (w a n : Nat) : Nat := a / 2 ^ (n % w)
def laneSra (w a n : Nat) : Nat := wrapInt w (sval w a / (2 ^ (n % w) : Nat))

def State.shift1 (s : State) (o : VImm1) (f : Nat → Nat → Nat → Nat) : Host.Outcome State Fault Refusal :=
  s.laneWord o.ty o.d o.pr [o.a] false fun _ _ _ v i => f o.ty.width (rawAt o.ty v 0 i) o.imm.toNat
def execVshl (o : VX2) (s : State) : Host.Outcome State Fault Refusal := s.bits2 o (laneShl o.ty.width)
def execVshlImm (o : VImm1) (s : State) : Host.Outcome State Fault Refusal := s.shift1 o laneShl
def execVshr (o : VX2) (s : State) : Host.Outcome State Fault Refusal := s.bits2 o (laneShr o.ty.width)
def execVshrImm (o : VImm1) (s : State) : Host.Outcome State Fault Refusal := s.shift1 o laneShr
def execVsra (o : VX2) (s : State) : Host.Outcome State Fault Refusal := s.bits2 o (laneSra o.ty.width)
def execVsraImm (o : VImm1) (s : State) : Host.Outcome State Fault Refusal := s.shift1 o laneSra

def icmpHolds (k : ICmp) (a b : Int) : Bool :=
  match k with
  | .eq => a == b
  | .ne => a != b
  | .lt => a < b
  | .le => a ≤ b
  | .gt => b < a
  | .ge => b ≤ a
/-- VCMP (R229, R243). -/
def execVcmp (o : VICmpOp) (s : State) : Host.Outcome State Fault Refusal :=
  s.runV (rotP o.d || rotP o.pr.p || o.a.rot || o.b.rot) [o.a, o.b] none 0 fun env t vals =>
    let p := t.pread env.prb o.pr.p
    .ok { pred := some (o.d, mergePred o.ty.width p o.pr.z (t.pread env.prb o.d) fun i =>
            icmpHolds o.cond (intVal o.ty (rawAt o.ty vals 0 i)) (intVal o.ty (rawAt o.ty vals 1 i))) }

def execVabs (o : VX1) (s : State) : Host.Outcome State Fault Refusal :=
  s.bits1 o fun a => wrapInt o.ty.width (intVal o.ty a).natAbs
def execVclz (o : VX1) (s : State) : Host.Outcome State Fault Refusal := s.bits1 o fun a => clzNat a o.ty.width
def execVpopc (o : VX1) (s : State) : Host.Outcome State Fault Refusal := s.bits1 o fun a => popNat a o.ty.width

end Sys2Proof.Machine
end

