-- ==== Sys2Proof/Machine/VRed.lean ====
section
/-! DEFINITION. Reductions and scans (09, R257, R258; 03, R74). -/

namespace Sys2Proof.Machine

/-- Adjacent pairs. -/
def pairUp {α : Type} (f : α → α → α) : List α → List α
  | a :: b :: l => f a b :: pairUp f l
  | l => l
/-- The tree of R74: levels of adjacent pairs, `k` of them. -/
def treeOf {α : Type} (f : α → α → α) : Nat → List α → List α
  | 0, l => l
  | k + 1, l => treeOf f k (pairUp f l)

/-- One rounded addition of bits with flags carried (R74). -/
def addBits (ty : ETy) (m : Mode) (dn z : Bool) (x y : Nat × FFlags) : Nat × FFlags :=
  let r := (addVal dn (unpack ty z x.1) (unpack ty z y.1)).arith ty m false z
  (r.1, x.2 ||| y.2 ||| r.2)

/-- VRSUM over lanes in order. -/
def treeSum (ty : ETy) (m : Mode) (dn z : Bool) (l : List Nat) : Nat × FFlags :=
  (treeOf (addBits ty m dn z) l.length.log2 (l.map fun b => (b, 0))).headD (0, 0)

/-- A result in lane 0 and zero in the rest (R257). -/
def lane0 (w x : Nat) : Vec := vecOf w [x]

/-- Run a reduction: the predicate selects the contributing lanes of a. -/
def State.reduce (s : State) (o : VRedOp) (w : Nat) (f : RoundAt → Bool → List (Option Nat) → Nat × FFlags) :
    Host.Outcome State Fault Refusal :=
  s.runV (fpTy o.ty || o.d.rot || o.a.rot || rotP o.p) [o.a] (some o.d) 1 fun env t vals =>
    let p := t.pread env.prb o.p
    let l := (List.range o.ty.lanes).map fun i =>
      if laneActive o.ty.width p i then some (rawAt o.ty vals 0 i) else none
    let r := f (roundAt o.rm env.fpctl 0) (ftzOf env.fpctl) l
    .ok { puts := [(o.d, lane0 w r.1)], fl := r.2 }

def execVrsum (o : VRedOp) (s : State) : Host.Outcome State Fault Refusal :=
  s.reduce o o.ty.width fun r z l =>
    if fpTy o.ty then treeSum o.ty r.plain r.down z (l.map fun x => x.getD (topBit o.ty))
    else (wrapInt o.ty.width ((l.map fun x => intVal o.ty (x.getD 0)).sum), 0)

/-- VRSUMW: 16-bit lanes exactly to f32, then the tree in f32 (R74). -/
def execVrsumw (o : VRedOp) (s : State) : Host.Outcome State Fault Refusal :=
  s.reduce o 32 fun r z l =>
    let c := l.map fun x => match x with
      | some b => convert .f32 o.ty .rne false z b
      | none => (topBit .f32, 0)
    let t := treeSum .f32 r.plain r.down z (c.map (·.1))
    (t.1, t.2 ||| c.foldl (fun a x => a ||| x.2) 0)

/-- The largest or smallest of the active values (R258), starting from what no active lane gives. -/
def foldPick (large : Bool) (start : FVal) (l : List FVal) : Res :=
  if l.any FVal.isNaN then nanRes l
  else ⟨l.foldl (fun a x => if rankLt a x == large then x else a) start, 0⟩

def State.redPick (s : State) (o : VRedOp) (large : Bool) : Host.Outcome State Fault Refusal :=
  s.reduce o o.ty.width fun _ z l =>
    let a := l.filterMap id
    if fpTy o.ty then
      (foldPick large (.inf large) (a.map (unpack o.ty z))).arith o.ty .rne false false
    else
      let v := a.map (intVal o.ty)
      (wrapInt o.ty.width (if large then v.foldl max (intLo o.ty) else v.foldl min (intHi o.ty)), 0)
def execVrmax (o : VRedOp) (s : State) : Host.Outcome State Fault Refusal := s.redPick o true
def execVrmin (o : VRedOp) (s : State) : Host.Outcome State Fault Refusal := s.redPick o false

def FVal.abs (x : FVal) : FVal := if x.sign then x.neg else x
def execVramax (o : VRedOp) (s : State) : Host.Outcome State Fault Refusal :=
  s.reduce o o.ty.width fun _ z l =>
    let a := l.filterMap id
    if fpTy o.ty then
      (foldPick true (.fin ⟨false, 0, 0, false⟩) (a.map fun b => FVal.abs (unpack o.ty z b))).arith o.ty .rne false false
    else ((a.map fun b => (intVal o.ty b).natAbs).foldl max 0, 0)

/-- The sequential sums of R74: `acc` is none before the first lane. -/
def scanFloat (ty : ETy) (m : Mode) (dn z : Bool) : Option Nat → List Nat → List (Nat × FFlags)
  | _, [] => []
  | none, b :: l =>
    let v := unpack ty z b
    let r := if v.isNaN then (nanRes [v]).arith ty m false z else (Res.arith ⟨v, 0⟩ ty m false z)
    r :: scanFloat ty m dn z (some r.1) l
  | some a, b :: l =>
    let r := (addVal dn (unpack ty z a) (unpack ty z b)).arith ty m false z
    r :: scanFloat ty m dn z (some r.1) l
def scanInt (ty : ETy) : Int → List Nat → List (Nat × FFlags)
  | _, [] => []
  | a, b :: l =>
    let r := wrapInt ty.width (a + intVal ty b)
    (r, 0) :: scanInt ty (r : Nat) l

/-- VSCAN (R258). -/
def execVscan (o : VScanOp) (s : State) : Host.Outcome State Fault Refusal :=
  s.runV (fpTy o.ty || o.d.rot || o.a.rot || rotP o.pr.p) [o.a] (some o.d) 1 fun env t vals =>
    let p := t.pread env.prb o.pr.p
    let w := o.ty.width
    let r := roundAt o.rm env.fpctl 0
    let l := (List.range o.ty.lanes).map fun i =>
      if laneActive w p i then rawAt o.ty vals 0 i else if fpTy o.ty then topBit o.ty else 0
    let out := if fpTy o.ty then scanFloat o.ty r.plain r.down (ftzOf env.fpctl) none l else scanInt o.ty 0 l
    let res := packLanes w (out.map (·.1))
    .ok { puts := [(o.d, mergeLanes w p o.pr.z o.d.isReg (t.oldOf env.rrb o.d) fun i => res / 2 ^ (w * i) % 2 ^ w)]
          fl := out.foldl (fun a x => a ||| x.2) 0 }

end Sys2Proof.Machine
end

