-- ==== Sys2Proof/Machine/Attention.lean ====
section
/-! DEFINITION. The attention words (10, R276 to R282) with the soft-maximum stage and the merge of 03, R75 and R76. -/

namespace Sys2Proof.Machine

/-! ## f32 pieces of R75 -/

def negInf32 : Nat := 0xff800000
def isNaN32 (b : Nat) : Bool := (f32Val b).isNaN

/-- fmax of R75: NaN if either is; +0 is above −0, as in R74. (log 17 DEDUCED) -/
def fmax32 (a b : Nat) : Nat :=
  if isNaN32 a || isNaN32 b then defaultNaN .f32
  else
    match cmpVal (f32Val a) (f32Val b) with
    | .lt => b
    | .gt => a
    | .eq => if (f32Val a).sign then b else a
def subF32 (a b : Nat) : Nat := (addVal false (f32Val a) (f32Val b).neg).f32
def exp2F32 (a : Nat) : Nat := ((exp2T (f32Val a)).to .f32 false).1
/-- The factor of an old maximum: +0 when it is −inf (R75, R76). -/
def decay (m mn : Nat) : Nat := if m = negInf32 then 0 else exp2F32 (subF32 m mn)
/-- The sticky bits of a maximum: one that stays at −inf has not been reached by an infinity (R276, R285). (log 17 DEDUCED) -/
def stMax (old new : Nat) : BitVec 6 := if new = negInf32 && old = negInf32 then 0 else stOf new

/-! ## Triples (R276) -/

def Triple.mOf (t : Triple) (r : Nat) : Nat := (SMap.look (BitVec.ofNat 32 negInf32) t.m r).toNat
def Triple.lOf (t : Triple) (r : Nat) : Nat := (SMap.look 0 t.l r).toNat
/-- An empty triple (R276, R277). -/
def openTriple (active : Nat) (qb : Option QueryBuf) : Triple := ⟨[], [], active, qb⟩

/-- One row of a triple while a word works on it, with the sticky bits it has met. -/
structure TRow where
  m : Nat
  l : Nat
  o : List Nat
  st : BitVec 6 := 0

/-- Put rows back: the triple's m and l, and the set's cells. -/
def AccSet.putRows (a : AccSet) (t : Triple) (rows : List TRow) : AccSet :=
  { a with
    cells := SMap.ofVals 0 ((rows.flatMap (·.o)).map (BitVec.ofNat 32))
    tri := some { t with
      m := SMap.ofVals (BitVec.ofNat 32 negInf32) (rows.map fun r => BitVec.ofNat 32 r.m)
      l := SMap.ofVals 0 (rows.map fun r => BitVec.ofNat 32 r.l) } }
/-- The 256 rows of a set with a triple. -/
def AccSet.rowsOf (a : AccSet) (t : Triple) : List TRow :=
  let cells := a.array
  (List.range 256).map fun r =>
    { m := t.mOf r, l := t.lOf r, o := (List.range 256).map fun c => (cells.getD (256 * r + c) 0).toNat }
/-- Change the rows of a set's triple and keep their sticky bits. -/
def State.modRows (s : State) (c : Nat) (i : BitVec 1) (t : Triple) (f : Nat → TRow → TRow) : State :=
  let rows := (((s.accNow c i).rowsOf t).zip (List.range 256)).map fun x => f x.2 x.1
  (s.modAcc c i fun a => a.putRows t rows).modTask c fun k => k.stick (rows.foldl (fun x r => x ||| r.st) 0)

/-- A set that holds plain cells (R276). -/
def AccSet.plain (a : AccSet) : Bool := a.st != .empty && a.tri.isNone

/-! ## ATTQ (R277) -/

/-- min(256, EXT0 − j0 × W). -/
def spanCols (d : TDesc) (k : BitVec 128) : Int := min 256 (((d.extents 0).getD 0 0 : Int) - coord k 0 * d.shape.2)

/-- Rows of a view that lie within the extents. -/
def SlabView.rowsIn (v : SlabView) : Nat :=
  ((List.range v.rows).filter fun r => (v.tile r 0).isSome &&
    inExt v.d (if v.d.layout = 3 then v.d.extents (2 ^ 32) else v.d.extents 0) v.k r 0).length

/-- The query buffer a word opens. -/
def queryOf (v : SlabView) (ty : ETy) (kc : BitVec 128) : QueryBuf where
  q := SMap.ofVals none ((List.range (256 * v.rows)).map fun i => v.get (i / 256) (i % 256))
  ty := ty
  d := v.cols
  nq := v.rowsIn
  scale := kc.extractLsb' 0 32
  qpos0 := kc.extractLsb' 32 32
  mode := bits kc 95 64
  window := bits kc 111 96
  group := max 1 (bits kc 127 112)

def attqSlab (o : AttqOp) (env : Env) (b : Binding) : Slab :=
  mSlab o.t env (rowsOf o.kb) (spanCols b.d (kget env.k o.t.k)).toNat

def attqWord (o : AttqOp) : TileWord where
  check := fun env s c t =>
    let kc := kget env.k o.kc
    if t.peerBad o.t.peer then (s, .fault { cause := .reservedField })
    else
      match s.arrayGate c, t.binding o.t.slot with
      | some r, _ => (s, r)
      | none, none => (s, .fault (tileFault .slotUnbound o.t.slot (kget env.k o.t.k)))
      | none, some b =>
        if b.d.ty != o.qty then (s, .fault { cause := .operandType })
        else if 2 < bits kc 95 64 || (bits kc 95 64 = 2 && bits kc 111 96 = 0) then (s, .fault { cause := .attShape })
        else oneUses (s.nameRead c t (mCore o.t c t) b (attqSlab o env b) o.t.lu o.t.mc)
  act := fun env s c t l =>
    match t.binding o.t.slot with
    | none => .wait
    | some b =>
      let v := s.view t (mCore o.t c t) b.d (attqSlab o env b) l
      let qb := queryOf v o.qty (kget env.k o.kc)
      .done (((s.noteWork c).placeSet c o.acc).modAcc c o.acc fun a =>
        { a with cells := [], tri := some (openTriple qb.nq (some qb)) })
def execAttq (o : AttqOp) (s : State) : Host.Outcome State Fault Refusal := s.runTiles (.attq o) (attqWord o)

/-! ## ATTKV (R278, R279, R75) -/

/-- The position of the key in a row of the K slab (R279). -/
def keyPos (v : SlabView) (row : Nat) : Int :=
  let c1 := coord v.k 1 * v.h + row
  if v.d.layout = 3 then (((v.tile row 0).map fun t => (t.first.toNat : Int)).getD 0) + c1 % 64 else c1

/-- The mask of R277. -/
def QueryBuf.passes (q : QueryBuf) (r : Nat) (p : Int) : Bool :=
  let pos : Int := q.qpos0.toInt + r / q.group
  match q.mode with
  | 0 => true
  | 1 => p ≤ pos
  | _ => pos - q.window < p && p ≤ pos

/-- A list in runs of `n`. -/
def runsOf {α : Type} (n : Nat) (l : List α) : List (List α) :=
  (List.range (ceilDiv l.length n)).map fun i => (l.drop (i * n)).take n

/-- A score: the R72 steps over the runs of the head dimension. -/
def scoreOf (kq : Nat) (q k : List (Option FVal)) : Nat :=
  (runsOf kq (q.zip k)).foldl (fun s l => blockStep s ((pairsOf (l.map (·.1)) (l.map (·.2))).map
    fun p => (mulVal p.1 p.2).val)) 0

/-- One key of a score block: its slot, its score's t, and the row of V it weighs. -/
structure Key where
  slot : Nat
  t : Nat
  v : List (Option FVal)

/-- The probability of a key, in bf16 bits. -/
def probOf (mn t : Nat) : Nat := (convert .bf16 .f32 .rne false false (exp2F32 (subF32 t mn))).1

/-- One column of O through the four K blocks of 32 positions: its bits and the sticky bits. -/
def weigh (keys : List (Key × Nat)) (col o : Nat) : Nat × BitVec 6 :=
  (List.range 4).foldl (fun x b =>
    let ps := keys.filterMap fun k =>
      if k.1.slot / 32 = b then (k.1.v.getD col none).map fun y => (mulVal (unpack .bf16 false k.2) y).val else none
    let n := blockStep x.1 ps
    (n, x.2 ||| stOf n)) (o, stOf o)

/-- The step of R75 on one row with the present keys of a block. -/
def TRow.attend (r : TRow) (dv : Nat) (keys : List Key) : TRow :=
  match keys with
  | [] => r
  | k :: l =>
    let mn := fmax32 r.m (l.foldl (fun a x => fmax32 a x.t) k.t)
    let al := decay r.m mn
    let ps := keys.map fun k => (k, probOf mn k.t)
    let slots := (List.range 128).map fun j => ((ps.find? fun x => x.1.slot == j).map (·.2)).getD 0x8000
    let sum := (treeSum .f32 .rne false false (slots.map fun p => p * 2 ^ 16)).1
    let ln := addF32 (mulF32 r.l al) sum
    let os := (r.o.zip (List.range 256)).map fun x =>
      if x.2 < dv then weigh ps x.2 (mulF32 x.1 al) else (x.1, 0)
    { m := mn, l := ln, o := os.map (·.1),
      st := r.st ||| stMax r.m mn ||| stOf ln ||| os.foldl (fun a x => a ||| x.2) 0 }

/-- A row is present in every tile of it that a slab holds (R279). -/
def SlabView.rowPresent (v : SlabView) (row : Nat) : Bool := (List.range v.across).all fun j => v.inside row (j * v.w)

/-- What ATTKV does to one row: the score blocks in order. -/
def attendAll (q : QueryBuf) (kty vty : ETy) (k v : SlabView) (nb row : Nat) (r : TRow) : TRow :=
  let kq := if q.ty.width = 16 then 32 else 64
  let qr := (List.range q.d).map fun d => (SMap.look none q.q (256 * row + d)).map (scaled q.ty)
  (List.range nb).foldl (fun r b =>
    let slots := (List.range 128).filter fun j =>
      k.rowPresent (128 * b + j) && v.rowPresent (128 * b + j) && q.passes row (keyPos k (128 * b + j))
    r.attend v.cols (slots.map fun j =>
      let kr := k.run (scaled kty) (128 * b + j) 0 q.d
      ⟨j, mulF32 (scoreOf kq qr kr) q.scale.toNat, v.run (scaled vty) (128 * b + j) 0 v.cols⟩)) r

def kvSlab (m : MTile) (kb : BitVec 5) (env : Env) (b : Binding) : Slab :=
  mSlab m env (128 * blocksOf kb) (spanCols b.d (kget env.k m.k)).toNat

/-- The shapes that R278 refuses. -/
def kvBad (q : QueryBuf) (aty : ETy) (a b : Binding) (ka kb : BitVec 128) : Bool :=
  spanCols a.d ka != (q.d : Int) || aty.width != q.ty.width || coord ka 1 * a.d.shape.1 != coord kb 1 * b.d.shape.1 ||
    ka.extractLsb' 64 64 != kb.extractLsb' 64 64

def attkvWord (o : MmaOp) : TileWord where
  check := fun env s c t =>
    if t.peerBad o.ta.peer || t.peerBad o.tb.peer then (s, .fault { cause := .reservedField })
    else
      match s.arrayGate c, (t.acc o.acc).tri.bind (·.qb), t.binding o.ta.slot, t.binding o.tb.slot with
      | some r, _, _, _ => (s, r)
      | none, none, _, _ => (s, .fault { cause := .attState })
      | none, some _, none, _ => (s, .fault (tileFault .slotUnbound o.ta.slot (kget env.k o.ta.k)))
      | none, some _, _, none => (s, .fault (tileFault .slotUnbound o.tb.slot (kget env.k o.tb.k)))
      | none, some q, some a, some b =>
        if a.d.ty != o.aty || b.d.ty != o.bty then (s, .fault { cause := .operandType })
        else if kvBad q o.aty a b (kget env.k o.ta.k) (kget env.k o.tb.k) then (s, .fault { cause := .attShape })
        else bothUses s
          (fun s => s.nameRead c t (mCore o.ta c t) a (kvSlab o.ta o.kb env a) o.ta.lu o.ta.mc)
          (fun s => s.nameRead c t (mCore o.tb c t) b (kvSlab o.tb o.kb env b) o.tb.lu o.tb.mc)
  act := fun env s c t l =>
    match t.binding o.ta.slot, t.binding o.tb.slot, (t.acc o.acc).tri with
    | some a, some b, some tri =>
      match tri.qb with
      | none => .wait
      | some q =>
        let k := s.view t (mCore o.ta c t) a.d (kvSlab o.ta o.kb env a) l
        let v := s.view t (mCore o.tb c t) b.d (kvSlab o.tb o.kb env b) l
        .done (((s.noteWork c).placeSet c o.acc).modRows c o.acc tri fun r x =>
          if r < tri.active then attendAll q o.aty o.bty k v (blocksOf o.kb) r x else x)
    | _, _, _ => .wait
def execAttkv (o : MmaOp) (s : State) : Host.Outcome State Fault Refusal := s.runTiles (.attkv o) (attkvWord o)

/-! ## ATTFIN (R280) -/

/-- What ATTFIN leaves of a row. -/
def TRow.close (active : Nat) (r : Nat) (x : TRow) : TRow :=
  if r < active then
    if x.m = negInf32 && x.l = 0 then { x with o := x.o.map fun _ => 0, st := stEMPTY }
    else
      let o := x.o.map fun b => divF32 b x.l
      { x with o := o, st := o.foldl (fun a b => a ||| stOf b) 0 }
  else { x with o := x.o.map fun _ => 0 }

/-- An empty set has no active row: it is placed, and every cell is +0 (R265). -/
def attfinWord (o : AccOp) : TileWord :=
  arrayPlain (fun _ s c t =>
    match (t.acc o.acc).tri with
    | none => .done ((s.noteWork c).placeSet c o.acc)
    | some tri =>
      let s := ((s.noteWork c).placeSet c o.acc).modRows c o.acc tri (TRow.close tri.active)
      .done (s.modAcc c o.acc fun a => { a with tri := none }))
    fun _ t => if (t.acc o.acc).plain then some .attState else none
/-- (log 17 DEDUCED) -/
def execAttfin (o : AccOp) (s : State) : Host.Outcome State Fault Refusal := s.runTiles (.attfin o) (attfinWord o)

/-! ## ATTST (R281) -/

def attstO (o : AttstOp) (env : Env) : Slab := ⟨o.oslot, kget env.k o.ko, rowsOf o.kb, 256⟩
def attstM (o : AttstOp) (env : Env) : Slab := ⟨o.mslot, kget env.k o.km, rowsOf o.kb, 2⟩
/-- Whether a use is a tile of a slab. -/
def Slab.has (b : Slab) (d : TDesc) (u : TileUse) : Bool :=
  let j (i : Nat) : Int := coord u.k i - coord b.k i
  u.slot == b.slot && u.k.extractLsb' 64 64 == b.k.extractLsb' 64 64 &&
    0 ≤ j 0 && j 0 < (ceilDiv b.cols d.shape.2 : Nat) && 0 ≤ j 1 && j 1 < (ceilDiv b.rows d.shape.1 : Nat)

/-- Write two slabs of the task's own cache; when one tile cannot be written, none is. (log 17 DEDUCED) -/
def State.writeBoth (s : State) (c : Nat) (t : Task) (a b : Binding) (la lb : List TileUse)
    (f g : BitVec 128 → Nat → Nat → Option Nat) : Acted :=
  let keep := (la ++ lb).map fun u => u.name t
  let undo (x : State) : State := x.unprepare s c t (la ++ lb)
  match s.prepare c t a keep la with
  | .done s1 =>
    match s1.prepare c t b keep lb with
    | .done s2 =>
      match s2.writeEach c t f la with
      | .done s3 =>
        match s3.writeEach c t g lb with
        | .done s4 => .done s4
        | .refused x => .refused { undo s2 with cur := x.cur }
        | .fault _ e => .fault (undo s2) e
        | _ => .wait
      | .refused x => .refused { undo s2 with cur := x.cur }
      | .fault _ e => .fault (undo s2) e
      | _ => .wait
    | .fault s2 e => .fault (undo s2) e
    | _ => .wait
  | .fault s1 e => .fault (undo s1) e
  | _ => .wait

/-- ATTST (R281). An empty set that it names becomes resident with zero cells and no triple, since R276 names no word but ATTQ and
ATTMRG that opens one: from then on it holds plain cells. (log 76 DESIGN CHOICE) -/
def attstWord (o : AttstOp) : TileWord where
  check := fun env s c t =>
    match s.arrayGate c, t.binding o.oslot, t.binding o.mslot with
    | some r, _, _ => (s, r)
    | none, a, b =>
      if (t.acc o.acc).plain then (s, .fault { cause := .attState })
      else
        match a, b with
        | none, _ => (s, .fault (tileFault .slotUnbound o.oslot (kget env.k o.ko)))
        | _, none => (s, .fault (tileFault .slotUnbound o.mslot (kget env.k o.km)))
        | some a, some b =>
          if a.d.ty != o.oty || b.d.ty != .f32 then (s, .fault { cause := .operandType })
          else bothUses s (fun s => s.nameWrite c t a (attstO o env)) (fun s => s.nameWrite c t b (attstM o env))
  act := fun env s c t l =>
    match t.binding o.oslot, t.binding o.mslot with
    | some a, some b =>
      let s1 := (s.noteWork c).placeSet c o.acc
      let set := s1.accNow c o.acc
      let tri := set.tri.getD (openTriple 0 none)
      let x := drainAll t env o.rm o.sat o.oty .f32 set.array (rowsOf o.kb) (s.insideOf c t a.d (attstO o env) l)
      let ml (row col : Nat) : Nat := if col = 0 then tri.mOf row else tri.lOf row
      match s1.writeBoth c t a b (l.filter ((attstO o env).has a.d)) (l.filter ((attstM o env).has b.d))
          (slabElem a.d (attstO o env) x.out) (slabElem b.d (attstM o env) ml) with
      | .done s => .done (s.keepDrain c x)
      | .fault _ f => .fault s f
      | .refused x => .refused { s with cur := x.cur }
      | r => r
    | _, _ => .wait
def execAttst (o : AttstOp) (s : State) : Host.Outcome State Fault Refusal := s.runTiles (.attst o) (attstWord o)

/-! ## ATTMRG (R282, R76) -/

/-- The merge of R76 of a row with another's m, l and O. -/
def TRow.merge (x : TRow) (m2 l2 : Nat) (o2 : Nat → Nat) : TRow :=
  let m := fmax32 x.m m2
  let a1 := decay x.m m
  let a2 := decay m2 m
  let l := addF32 (mulF32 x.l a1) (mulF32 l2 a2)
  let o := (x.o.zip (List.range 256)).map fun y => addF32 (mulF32 y.1 a1) (mulF32 (o2 y.2) a2)
  { m := m, l := l, o := o, st := stMax x.m m ||| stOf l ||| o.foldl (fun a b => a ||| stOf b) 0 }

/-- A row of the stored triple: empty where an element of the B slab is outside; an outside O2 counts as +0. -/
def TRow.mergeRow (x : TRow) (ty : ETy) (va vb : SlabView) (r : Nat) : TRow :=
  match vb.get r 0, vb.get r 1 with
  | some m2, some l2 =>
    x.merge m2.1.toNat l2.1.toNat fun c =>
      if ty = .f32 then va.bits r c else if va.inside r c then (convert .f32 ty .rne false false (va.bits r c)).1 else 0
  | _, _ => x.merge negInf32 0 fun _ => 0

def attmrgWord (o : AttmrgOp) : TileWord where
  check := fun env s c t =>
    if t.peerBad o.ta.peer || t.peerBad o.tb.peer then (s, .fault { cause := .reservedField })
    else
      match s.arrayGate c, t.binding o.ta.slot, t.binding o.tb.slot with
      | some r, _, _ => (s, r)
      | none, a, b =>
        if (t.acc o.acc).plain then (s, .fault { cause := .attState })
        else
          match a, b with
          | none, _ => (s, .fault (tileFault .slotUnbound o.ta.slot (kget env.k o.ta.k)))
          | _, none => (s, .fault (tileFault .slotUnbound o.tb.slot (kget env.k o.tb.k)))
          | some a, some b =>
            if a.d.ty != o.oty || b.d.ty != .f32 then (s, .fault { cause := .operandType })
            else bothUses s
              (fun s => s.nameRead c t (mCore o.ta c t) a (mSlab o.ta env (rowsOf o.kb) 256) o.ta.lu o.ta.mc)
              (fun s => s.nameRead c t (mCore o.tb c t) b (mSlab o.tb env (rowsOf o.kb) 2) o.tb.lu o.tb.mc)
  act := fun env s c t l =>
    match s.viewOf t (mCore o.ta c t) (mSlab o.ta env (rowsOf o.kb) 256) l,
      s.viewOf t (mCore o.tb c t) (mSlab o.tb env (rowsOf o.kb) 2) l with
    | some va, some vb =>
      let tri := (t.acc o.acc).tri.getD (openTriple 0 none)
      let n := rowsOf o.kb
      let last := if tri.qb.isSome then min n tri.active else n
      let tri' := if tri.qb.isSome then tri else { tri with active := max tri.active n }
      .done (((s.noteWork c).placeSet c o.acc).modRows c o.acc tri' fun r x =>
        if r < last then x.mergeRow o.oty va vb r else x)
    | _, _ => .wait
/-- (log 17 DEDUCED) -/
def execAttmrg (o : AttmrgOp) (s : State) : Host.Outcome State Fault Refusal := s.runTiles (.attmrg o) (attmrgWord o)

end Sys2Proof.Machine
end

