-- ==== Sys2Proof/Machine/Fabric.lean ====
section
/-! DEFINITION. The F words (12, R318 to R335): requests to other dies, signals, bulk transfers and collective groups. -/

namespace Sys2Proof.Machine

/-! ## Requests of a task -/

/-- The requests that a task has sent and that have not ended. -/
def State.ownReqs (s : State) (n image : Nat) : List FReq := s.reqs.filter fun r => r.ctx == n && r.image == image

/-- Writes, atomics, puts and signals: what RFENCE and a release wait for (R136, R323). -/
def opWrites (x : RemoteOp) : Bool :=
  match x with
  | .write _ | .amo .. | .cas .. | .put _ | .sig _ | .barArrive _ | .writeBack _ => true
  | .read _ | .get _ | .fetch _ => false
/-- Bytes a request touches at its destination. -/
def opSize (x : RemoteOp) : Nat :=
  match x with
  | .read n | .get n | .fetch n => n
  | .write b | .put b | .writeBack b => b.length
  | .amo _ n _ | .cas n _ _ => n
  | .sig _ | .barArrive _ => 0

/-- Two ranges of bytes share one. -/
def overlaps (a n b m : Nat) : Bool := n != 0 && m != 0 && a < b + m && b < a + n

/-- A landing of an earlier F word, or an output of its episode, is still to reach these bytes (R118). (log 30 DEDUCED) -/
def State.landBusy (s : State) (t : Task) (n : Nat) (va len : Nat) : Bool :=
  (s.ownReqs n t.image).any (fun r => match r.land with
    | some a => overlaps a.toNat r.landSize va len
    | none => false) ||
    t.groups.any fun g => g.2.st == .busy &&
      match g.2.desc with
      | some d => overlaps g.2.out.toNat (d.count * (d.oty.width / 8)) va len
      | none => false

/-- What an F word sends. -/
structure Send where
  dst : BitVec 14
  adp : Bool
  va : Nat
  op : RemoteOp
  land : Option Nat := none
  landSize : Nat := 0
  acq : Option Scope := none
  rel : Option Scope := none

/-- The module of a label: the two dies of one stand at physical labels that differ in bit 0 (R457). -/
def Router.moduleOf (r : Router) (bank : Bool) (l : BitVec 14) : BitVec 13 := (r.label bank l).extractLsb' 1 13

/-- The earlier requests of the task that must be acknowledged before one leaves: all its writes for a release (R323, R325),
and those to the same location of the same module where one of the two writes. -/
def Send.waits (x : Send) (near : BitVec 14 → Bool) (l : List FReq) : List Nat :=
  (l.filter fun r => (x.rel.isSome && opWrites r.op) ||
    (near r.dst && (opWrites r.op || opWrites x.op) && overlaps r.va.toNat (opSize r.op) x.va (opSize x.op))).map (·.id)

/-- The partition registers of a context. -/
def State.fabOf (s : State) (n : Nat) : Word := (s.part (s.ctx n).part).pfab

/-- What happens before a release or a signal of the F strand, within its module, is visible at its scope before it leaves
(R323, R325). (log 7 DEDUCED) -/
def State.leaveOrdered (s : State) (c : Nat) (rel : Option Scope) : State :=
  match rel with
  | none => s
  | some k =>
    let a : Agent := .strand c .f
    let ids := s.happened a k
    (if k.wide then s.drain ids else s).showIn a k ids

/-- Send a request: it carries the partition's key, the context's identity and the next number of its pair of dies, and the
adaptive class only where the partition permits it (R318, R319, R388, R464). -/
def State.sendF (s : State) (c : Nat) (t : Task) (n : Nat) (pc : Va) (x : Send) : State × Nat :=
  let s := s.leaveOrdered c x.rel
  let id := s.nextReq
  let fab := s.fabOf n
  let router := s.router (dieOf c)
  let seq := SMap.look 0 router.next x.dst.toNat
  let near (l : BitVec 14) : Bool := l == x.dst || router.moduleOf router.inj l == router.moduleOf router.inj x.dst
  let r : FReq := {
    id := id, core := c, image := t.image, ctx := n, order := t.fseq, pc := pc, die := dieOf c, dst := x.dst
    key := fab.extractLsb' 0 16, fid := (s.ctx n).fid, adp := x.adp && fab.getLsbD 16, bank := router.inj
    va := BitVec.ofNat 56 x.va, op := x.op, land := x.land.map (BitVec.ofNat 56), landSize := x.landSize
    sent := s.now (dieOf c), waits := x.waits near (s.ownReqs n t.image), acq := x.acq, rel := x.rel, performed := false
    seq := seq }
  ({ s.setRouter (dieOf c) { router with next := SMap.put 0 router.next x.dst.toNat (seq + 1) } with
      reqs := s.reqs ++ [r], nextReq := id + 1 }, id)

/-- The next F word (R320). -/
def State.nextF (s : State) (c : Nat) : State := s.modTask c fun t => { t with fseq := t.fseq + 1 }
/-- A failure is recorded against the strand (R320). -/
def Task.addDefer (t : Task) (d : Deferred) : Task := { t with defer := t.defer ++ [d] }
/-- A word that has failed applies no signal (R320). -/
def State.muted (s : State) : State := { s with cur := { s.cur with clauses := { s.cur.clauses with sig := none } } }
/-- A word whose failure is known at once: recorded, to be taken by a later word. -/
def State.failF (s : State) (c : Nat) (env : Env) (x : Cause) (addr : Va) (label : Option (BitVec 14)) (g : BitVec 4) : Eff :=
  .done ((s.modTask c fun t => t.addDefer ⟨t.fseq, x, env.pc, addr, label, g⟩).nextF c).muted
/-- A local access of an F word has failed. -/
def State.failLocal (s : State) (c : Nat) (env : Env) (x : XlStop) : Eff :=
  match x with
  | .refused va => .refused (s.refusedAt va)
  | .hole pa => .hole pa
  | x => s.failF c env x.info.cause x.info.addr x.info.label 0

/-- Run an F word: a recorded failure is taken first (R320), and it waits behind an acquire whose value has not landed
(R323). -/
def State.runF (s : State) (needs : Bool) (body : Env → State → Nat → Task → Nat → Eff) :
    Host.Outcome State Fault Refusal :=
  s.runWord needs fun env s =>
    let c := s.cur.core
    match s.task c with
    | none => .wait s
    | some t =>
      match t.takeDeferred env.pc, t.ctx with
      | some (f, t), _ => .fault (s.setTask c t) f
      | none, none => .wait s
      | none, some n =>
        if (s.ownReqs n t.image).any (·.acq.isSome) then .wait s else body env s c t n

/-- Send one request and go on. -/
def State.sendOne (s : State) (c : Nat) (t : Task) (n : Nat) (env : Env) (x : Send) : Eff :=
  match x.land with
  | some a =>
    if s.landBusy t n a x.landSize then .wait s
    else
      let (s, id) := s.sendF c t n env.pc x
      .pend (s.nextF c) [.reqs [id]]
  | none =>
    let (s, id) := s.sendF c t n env.pc x
    .pend (s.nextF c) [.reqs [id]]

def execSyncF (s : State) : Host.Outcome State Fault Refusal := s.runF false fun _ s c _ _ => .done (s.nextF c)

/-! ## Remote memory access (R322, R323) -/

def ordAcq (x : Ord) (k : Scope) : Option Scope :=
  match x with
  | .acq | .ar => some k
  | _ => none
def ordRel (x : Ord) (k : Scope) : Option Scope :=
  match x with
  | .rel | .ar => some k
  | _ => none
/-- (DIE + s[SC]) mod 2^14 (R318). -/
def dieLabel (r : SMap Word) (die : BitVec 14) (sc : SReg) : BitVec 14 := die + (sget r sc).setWidth 14
/-- s[SA] + sext(IMM) modulo 2^56 (R321). -/
def fAddr (r : SMap Word) (a : SReg) (imm : BitVec 24) : Nat := (sget r a + imm.signExtend 64).toNat % 2 ^ 56
def regAddr (r : SMap Word) (a : SReg) : Nat := (sget r a).toNat % 2 ^ 56
/-- The low `n` bytes of a register, or of a pair for 16. -/
def regBytesOf (r : SMap Word) (a : SReg) (n : Nat) : Nat :=
  ((sget r a).toNat + if n = 16 then (sget r (a + 1)).toNat * 2 ^ 64 else 0) % 2 ^ (8 * n)

def execRld (o : RldOp) (s : State) : Host.Outcome State Fault Refusal :=
  s.runF true fun env s c t n =>
    s.sendOne c t n env {
      dst := dieLabel env.s o.die o.sc, adp := o.adp, va := fAddr env.s o.sa o.imm, op := .read o.size.bytes
      land := some (regAddr env.s o.sd), landSize := o.size.bytes, acq := ordAcq o.ord o.scope }

def execRst (o : RstOp) (s : State) : Host.Outcome State Fault Refusal :=
  s.runF true fun env s c t n =>
    s.sendOne c t n env {
      dst := dieLabel env.s o.die o.sc, adp := o.adp, va := fAddr env.s o.sa o.imm
      op := .write (leBytes o.size.bytes (regBytesOf env.s o.sb o.size.bytes)), rel := ordRel o.ord o.scope }

def execRamo (o : RamoOp) (s : State) : Host.Outcome State Fault Refusal :=
  s.runF true fun env s c t n =>
    s.sendOne c t n env {
      dst := dieLabel env.s o.die o.sc, adp := o.adp, va := regAddr env.s o.sa
      op := .amo o.op o.size.bytes (BitVec.ofNat 64 (regBytesOf env.s o.sb o.size.bytes))
      land := some (regAddr env.s o.sd), landSize := o.size.bytes, acq := ordAcq o.ord o.scope, rel := ordRel o.ord o.scope }

def execRcas (o : RcasOp) (s : State) : Host.Outcome State Fault Refusal :=
  s.runF true fun env s c t n =>
    let k := o.size.bytes
    s.sendOne c t n env {
      dst := o.die, adp := o.adp, va := regAddr env.s o.sa
      op := .cas k (BitVec.ofNat 128 (regBytesOf env.s o.sb k)) (BitVec.ofNat 128 (regBytesOf env.s o.sc k))
      land := some (regAddr env.s o.sd), landSize := k, acq := ordAcq o.ord o.scope, rel := ordRel o.ord o.scope }

/-! ## RSIG, RPUT, RGET, MCAST (R325 to R327) -/

def execRsig (o : RsigOp) (s : State) : Host.Outcome State Fault Refusal :=
  s.runF true fun env s c t n =>
    let x := sget env.s o.sa
    if bits x 63 50 != 0 then .fault s { cause := .reservedField }
    else
      let m : RsigMsg := {
        srcLabel := (s.router (dieOf c)).lself, srcCore := BitVec.ofNat 8 c, fid := (s.ctx n).fid
        grid := (sget env.s o.sb).setWidth 32, tx := x.extractLsb' 0 16, ty := x.extractLsb' 16 16
        tz := x.extractLsb' 32 16, rank := x.extractLsb' 48 2, sem := o.sem, inc := o.inc
        key := (s.fabOf n).extractLsb' 0 16, bank := (s.router (dieOf c)).inj }
      s.sendOne c t n env { dst := dieLabel env.s o.die o.sc, adp := o.adp, va := 0, op := .sig m, rel := some .module }

/-- Lengths above 2^32 fault; a length of 0 performs nothing (R326). -/
def State.bulk (s : State) (sd : SReg) (body : Env → State → Nat → Task → Nat → Nat → Eff) :
    Host.Outcome State Fault Refusal :=
  s.runF true fun env s c t n =>
    let len := (sget env.s sd).toNat
    if 2 ^ 32 < len then .fault s { cause := .reservedField }
    else if len = 0 then .done (s.nextF c)
    else body env s c t n len

/-- Read the local source of a put or of a contribution, in units of so many bytes (R326). (log 30 DEDUCED) -/
def State.localSource (s : State) (c : Nat) (t : Task) (n : Nat) (env : Env) (va len unit : Nat)
    (f : State → List Byte → Eff) : Eff :=
  if s.landBusy t n va len then .wait s
  else
    match s.readRun { t.whoMap c .f with unit := unit } .rd va len with
    | (s, .error e) => s.failLocal c env e
    | (s, .ok b) => f s b

/-- The unit of a transfer (R326). -/
def bulkUnit (a b len : Nat) : Nat := if a % 16 = 0 && b % 16 = 0 && len % 16 = 0 then 16 else 1

def execRput (o : RbulkOp) (s : State) : Host.Outcome State Fault Refusal :=
  s.bulk o.sd fun env s c t n len =>
    let unit := bulkUnit (regAddr env.s o.sa) (regAddr env.s o.sb) len
    s.localSource c t n env (regAddr env.s o.sa) len unit fun s b =>
      s.sendOne c t n env { dst := dieLabel env.s o.die o.sc, adp := o.adp, va := regAddr env.s o.sb, op := .put b }

def execRget (o : RbulkOp) (s : State) : Host.Outcome State Fault Refusal :=
  s.bulk o.sd fun env s c t n len =>
    s.sendOne c t n env {
      dst := dieLabel env.s o.die o.sc, adp := o.adp, va := regAddr env.s o.sb, op := .get len
      land := some (regAddr env.s o.sa), landSize := len }

/-! ## Collective groups (R330 to R335) -/

def Task.group (t : Task) (g : BitVec 4) : Group := SMap.look {} t.groups g.toNat
def Task.setGroup (t : Task) (g : Nat) (x : Group) : Task := { t with groups := SMap.put {} t.groups g x }

def reduceTy (c : BitVec 5) : Option ETy :=
  match ETy.ofCode c with
  | some .f32 => some .f32
  | some .bf16 => some .bf16
  | some .f16 => some .f16
  | _ => none

/-- The descriptor's fields, none where a value or a reserved bit is invalid (R330, R331). -/
def groupDesc (d : BitVec 512) : Option GroupDesc :=
  match reduceTy (d.extractLsb' 50 5), reduceTy (d.extractLsb' 55 5) with
  | some ity, some oty =>
    let x : GroupDesc := {
      slots := bits d 143 128, timeout := bits d 127 96, count := bits d 95 64, oty := oty, ity := ity
      op := d.extractLsb' 48 2, gid := d.extractLsb' 32 16, mask := d.extractLsb' 16 14, base := d.extractLsb' 0 14 }
    if bits d 511 144 != 0 || bits d 63 60 != 0 || bits d 31 30 != 0 || bits d 15 14 != 0 || x.slots = 0 || 256 < x.slots ||
        1000000 < x.timeout || x.count = 0 || 2 ^ 20 < x.count || x.op = 3 || x.base &&& x.mask != 0 then none
    else some x
  | _, _ => none

/-- The dimensions of a mask, ascending. -/
def dimsOf (m : BitVec 14) : List Nat := (List.range 14).filter fun i => m.getLsbD i
/-- The member labels, ascending. -/
def GroupDesc.members (d : GroupDesc) : List (BitVec 14) :=
  ((List.range 16384).map (BitVec.ofNat 14)).filter fun l => l &&& ~~~ d.mask == d.base

/-- Every group slot that tasks of a context have joined from a die, with its task (R331). -/
def State.groupsOf (s : State) (n : Nat) (label : BitVec 14) : List (Nat × Nat × Group) :=
  let tasks := (s.cores.filterMap fun x => x.2.task) ++ s.images.map (·.task)
  (tasks.filter fun t => t.ctx == some n).flatMap fun t =>
    (t.groups.filter fun g => g.2.label == label).map fun g => (t.uid, g.1, g.2)

/-- The entry of a key table that holds a key (R465, R466). -/
def Router.keyEntry (r : Router) (bank : Bool) (key : BitVec 16) : Option (BitVec 64) :=
  ((List.range 64).map fun i => SMap.look (0 : BitVec 64) r.keys (bank.toNat * 64 + i)).find? fun e =>
    e.getLsbD 63 && bits e 62 49 == 0 && bits e 35 19 == 0 && e.extractLsb' 0 16 == key

/-- Whether a die's router can reserve slots for a key (R474). -/
def Router.canReserve (r : Router) (key : BitVec 16) (slots : Nat) : Bool :=
  let held := ((r.reserved.filter fun x => x.2.2.1 == key).map fun x => x.2.2.2).sum
  let cap := ((r.keyEntry r.inj key).map fun e => min 4096 (bits e 48 36)).getD 0
  slots ≤ 4096 - r.used && held + slots ≤ cap

/-- The status of a GRPSET whose descriptor has been read (R331). -/
def State.groupStatus (s : State) (c : Nat) (t : Task) (n : Nat) (cg : BitVec 4) (d : Option GroupDesc) : Nat :=
  let r := s.router (dieOf c)
  match d with
  | none => 1
  | some d =>
    if r.lself &&& ~~~ d.mask != d.base then 2
    else if (s.groupsOf n r.lself).any (fun x => !(x.1 == t.uid && x.2.1 == cg.toNat) &&
        (x.2.2.st == .ready || x.2.2.st == .busy) && (x.2.2.desc.map (·.gid)) == some d.gid) then 3
    else if !r.canReserve ((s.fabOf n).extractLsb' 0 16) d.slots then 4 else 0

/-- A router without the reservation of a group slot. -/
def Router.unreserve (uid g : Nat) (r : Router) : Router :=
  { r with reserved := r.reserved.filter fun x => !(x.1 == uid && x.2.1 == g) }
/-- Give up a group slot's reduction slots (R474). -/
def State.unreserve (s : State) (uid g : Nat) : State :=
  { s with routers := s.routers.map fun x => (x.1, Router.unreserve uid g x.2) }
/-- Reserve a group slot's reduction slots in place of those it held (R331, R474). -/
def State.reserve (s : State) (die uid : Nat) (g : BitVec 4) (key : BitVec 16) (slots : Nat) : State :=
  let s := s.unreserve uid g.toNat
  let r := s.router die
  s.setRouter die { r with reserved := r.reserved ++ [(uid, g.toNat, key, slots)] }

/-- Land an 8-byte value of GRPSET or GRPSTAT; SD 0 lands none. -/
def State.land8 (s : State) (c : Nat) (t : Task) (env : Env) (sd : SReg) (v : Nat) : Eff :=
  if sd = 0 then .done (s.nextF c)
  else
    match s.writeRun (t.whoMap c .f) .wr (regAddr env.s sd) (leBytes 8 v) with
    | (s, none) => .done (s.nextF c)
    | (s, some e) => s.failLocal c env e

/-- GRPSET (R331): the descriptor is read as an acquire at module scope. (log 30 DEDUCED) -/
def execGrpset (o : GrpsetOp) (s : State) : Host.Outcome State Fault Refusal :=
  s.runF true fun env s c t n =>
    let a := fAddr env.s o.sa o.imm
    if (t.group o.cg).st = .busy || s.landBusy t n (regAddr env.s o.sd) 8 || s.landBusy t n a 64 then .wait s
    else
      let go (s : State) (d : Option GroupDesc) : Eff :=
        let st := s.groupStatus c t n o.cg d
        let key : BitVec 16 := (s.fabOf n).extractLsb' 0 16
        match st, d with
        | 0, some d =>
          let label := (s.router (dieOf c)).lself
          Eff.whole s (((s.reserve (dieOf c) t.uid o.cg key d.slots).modTask c fun t =>
            t.setGroup o.cg.toNat { st := .ready, desc := some d, label := label }).land8 c t env o.sd st)
        | _, _ => s.land8 c t env o.sd st
      if a % 64 != 0 then go s none
      else
        match s.readNat (t.whoMap c .f) a 64 with
        | (s, .error e) => s.failLocal c env e
        | (s, .ok v) => go (s.acquire (.strand c .f) .module) (groupDesc (BitVec.ofNat 512 v))

def GroupState.code : GroupState → Nat
  | .unset => 0 | .ready => 1 | .busy => 2 | .aborted => 3
/-- The 8 bytes of GRPSTAT (R332). -/
def Group.status (g : Group) : Nat :=
  g.st.code + g.cause.code * 2 ^ 8 + ((g.desc.map fun d => 2 ^ (dimsOf d.mask).length).getD 0) * 2 ^ 16 +
    g.done % 2 ^ 32 * 2 ^ 32

def execGrpstat (o : GrpstatOp) (s : State) : Host.Outcome State Fault Refusal :=
  s.runF true fun env s c t n =>
    if s.landBusy t n (regAddr env.s o.sd) 8 then .wait s else s.land8 c t env o.sd (t.group o.cg).status

/-! ## Absent dies (R319, R460, R470) -/

/-- Whether a physical label has been named by notices: the FAR of a die-lost notice, or all 14 of its links stand reported
down; a later link-up notice ends it. -/
def Router.named (r : Router) (p : BitVec 14) : Bool :=
  let last (d : Nat) : Option Notice :=
    (r.seen.filter fun x => x.kind != 2 && x.dim.toNat == d &&
      (x.near == p || x.far == p)).getLast?
  let lost := r.seen.foldl (fun b x => if x.kind = 2 && x.far == p then true
    else if x.kind = 1 && (x.near == p || x.far == p) then false else b) false
  lost || (List.range 14).all fun d => (last d).any fun x => x.kind == 0
/-- The physical label that carries a logical one, none where the table marks it absent or a notice has named its die. -/
def Router.physOf (r : Router) (bank : Bool) (l : BitVec 14) : Option (BitVec 14) :=
  let e := r.label bank l
  let p : BitVec 14 := e.extractLsb' 0 14
  if bits e 31 30 != 1 || bits e 29 14 != 0 || r.named p then none else some p

/-! ## Contributions and the members of an episode (R333, R334) -/

/-- A port that is up (R469). -/
def Router.up (r : Router) (p : Nat) : Bool := (r.port p).st == 2
def satInc (x : BitVec 16) : BitVec 16 := if x = 0xffff then x else x + 1
def Router.dropped (r : Router) : Router := { r with routedrops := satInc r.routedrops }
def Router.keyMiss (r : Router) : Router := { r with keydrops := satInc r.keydrops }

/-- What an ingress does with a packet before it moves it: the key check and the bank's ACCEPT bit (R466, R467). -/
def Router.admits (r : Router) (bank : Bool) (key : BitVec 16) : Option (Cause × Router) :=
  if !r.accept.getLsbD bank.toNat then some (.linkLost, r.dropped)
  else if (r.keyEntry bank key).isNone then some (.partitionKey, r.keyMiss) else none

/-- Whether a contribution is to the present episode of a group: all that must agree does, and it is of a member (R334). -/
def forEpisode (d : GroupDesc) (g : Group) (fid : BitVec 32) (m : ContribMsg) : Bool :=
  m.fid == fid && m.gid == d.gid && m.mask == d.mask && m.op == d.op && m.ity == d.ity && m.oty == d.oty &&
    m.count == d.count && m.timeout == d.timeout && m.episode == g.done && m.label &&& ~~~ d.mask == d.base
/-- The contributions to an episode that a die's router holds, oldest first. -/
def State.partsAt (s : State) (die : Nat) (d : GroupDesc) (g : Group) (fid : BitVec 32) : List HeldPart :=
  s.contribs.filter fun x => x.die == die && forEpisode d g fid x.msg
/-- The partial merges of an episode are discarded on certain dies (R334). -/
def State.dropParts (s : State) (dies : List Nat) (d : GroupDesc) (g : Group) (fid : BitVec 32) : State :=
  { s with contribs := s.contribs.filter fun x => !(dies.contains x.die && forEpisode d g fid x.msg) }

/-- The die whose router serves a member: that of its label. -/
def State.memberDie (s : State) (x : Group) : Nat := if x.label == (s.router 1).lself then 1 else 0

/-- Every member of this module whose episode is the one given: its task, context, group slot and state. -/
def State.localMembers (s : State) (d : GroupDesc) (done : Nat) (fid : BitVec 32) : List (Task × Nat × Nat × Group) :=
  let tasks := (s.cores.filterMap fun x => x.2.task) ++ s.images.map (·.task)
  tasks.flatMap fun t => match t.ctx with
    | none => []
    | some n =>
      if (s.ctx n).fid == fid then
        (t.groups.filter fun x => (x.2.st == .busy || x.2.st == .ready) && x.2.done == done &&
          (x.2.desc.map fun e => (e.gid, e.mask, e.base)) == some (d.gid, d.mask, d.base)).map fun x => (t, n, x.1, x.2)
      else []

/-- Change a group slot of a task wherever it stands. (log 31 DEDUCED) -/
def State.onGroup (s : State) (ctx image g : Nat) (f : Group → Group) : State :=
  s.onImage ctx image fun t => t.setGroup g (f (SMap.look {} t.groups g))
/-- A failure of a member's episode is kept for its F strand, and its word's signal goes (R320). -/
def Task.failGroup (t : Task) (g : Nat) (x : Group) (c : Cause) (addr : Va) (label : Option (BitVec 14)) : Task :=
  { t.addDefer ⟨x.req, c, x.pc, addr, label, BitVec.ofNat 4 g⟩ with
    sigs := t.sigs.filter fun p => !(p.until_.contains (.reqs [x.reqId])) }

/-- An episode fails for one member: its slot is aborted and freed and the failure deferred (R334, R320). -/
def State.abortMember (s : State) (t : Task) (n g : Nat) (x : Group) (c : Cause) (label : Option (BitVec 14)) : State :=
  let s := (s.unreserve t.uid g).onGroup n t.image g fun y => { y with st := .aborted, cause := c, absent := label, retry := none }
  if x.st = .busy then s.onImage n t.image fun t => t.failGroup g x c 0 label else s

/-- An episode fails for every member: those here, and the others by word (R334). -/
def State.failEpisode (s : State) (d : GroupDesc) (x : Group) (fid : BitVec 32) (c : Cause) (l : Option (BitVec 14)) : State :=
  let s := (s.localMembers d x.done fid).foldl (fun s y => s.abortMember y.1 y.2.1 y.2.2.1 y.2.2.2 c l) s
  let s := s.dropParts [0, 1] d x fid
  { s with outbox := s.outbox ++ [OutMsg.groupAbort fid d.gid c] }.syncHeaders

/-- A contribution reaches the routers of the group's members in this module: its own die's, and over port 0 the other's,
which checks its key at its ingress (R387, R466). The error is the cause of a router that refuses it. -/
def State.contribute (s : State) (die : Nat) (d : GroupDesc) (m : ContribMsg) : Except (State × Cause) State :=
  let own (s : State) : State := { s with contribs := s.contribs ++ [⟨die, s.now die, m⟩] }
  let o := s.router (1 - die)
  if o.lself &&& ~~~ d.mask == d.base && o.lself != m.label && (s.router die).up 0 && o.up 0 then
    match o.admits m.bank m.key with
    | some (c, r) => .error (s.setRouter (1 - die) r, c)
    | none => .ok { own s with contribs := (own s).contribs ++ [⟨1 - die, s.now (1 - die), m⟩] }
  else .ok (own s)

/-! ## MLDRED, MCAST, RFENCE, RWAIT -/

/-- The contribution of a member (R333). (log 31 DEDUCED) -/
def contribOf (d : GroupDesc) (g : Group) (fid : BitVec 32) (key : BitVec 16) (bank : Bool) (b : List Byte) : ContribMsg :=
  let w := d.ity.width / 8
  { label := g.label, fid := fid, key := key, bank := bank, gid := d.gid, mask := d.mask, op := d.op, ity := d.ity, oty := d.oty, count := d.count
    timeout := d.timeout, episode := g.done
    vals := (List.range d.count).map fun i =>
      let x := leNat ((b.drop (i * w)).take w)
      BitVec.ofNat 32 (if d.ity = .f32 then x else (convert .f32 d.ity .rne false false x).1) }

/-- MLDRED (R333, R334). Its contribution carries the partition's key, which the routers of its module check (R387, R466); one
that a router refuses leaves the slot as it was. (log 31 DEDUCED) -/
def execMldred (o : MldredOp) (s : State) : Host.Outcome State Fault Refusal :=
  s.runF true fun env s c t n =>
    let g := t.group o.cg
    match g.st, g.desc with
    | .ready, some d =>
      let r := s.router (dieOf c)
      match d.members.find? fun l => (r.physOf r.inj l).isNone with
      | some l => (s.failEpisode d g (s.ctx n).fid .peerAbsent (some l)).failF c env .peerAbsent 0 (some l) o.cg
      | none =>
        let key : BitVec 16 := (s.fabOf n).extractLsb' 0 16
        if (r.keyEntry r.inj key).isNone then s.failF c env .partitionKey 0 none o.cg else
        let len := d.count * (d.oty.width / 8)
        if s.landBusy t n (regAddr env.s o.sb) len then .wait s
        else
          let size := d.ity.width / 8
          s.localSource c t n env (regAddr env.s o.sa) (d.count * size) size fun s b =>
            let m := contribOf d g (s.ctx n).fid key r.inj b
            match s.contribute (dieOf c) d m with
            | .error (s, x) => s.failF c env x 0 none o.cg
            | .ok s =>
              let id := s.nextReq
              let s := { s with outbox := s.outbox ++ [OutMsg.contribution m], nextReq := id + 1 }
              let s := s.modTask c fun t => t.setGroup o.cg.toNat { t.group o.cg with
                st := .busy, out := BitVec.ofNat 56 (regAddr env.s o.sb), retry := none, req := t.fseq, pc := env.pc, reqId := id }
              .pend (s.nextF c) [.reqs [id]]
    | .busy, _ => .wait s
    | .aborted, _ => s.failF c env g.cause 0 g.absent o.cg
    | _, _ => .fault s { cause := .groupUnset }

/-- Send to several labels. -/
def State.sendAll (s : State) (c : Nat) (t : Task) (n : Nat) (pc : Va) (x : Send) : List (BitVec 14) → State × List Nat
  | [] => (s, [])
  | l :: ls =>
    let (s, i) := s.sendF c t n pc { x with dst := l }
    let (s, is) := s.sendAll c t n pc x ls
    (s, i :: is)

def execMcast (o : McastOp) (s : State) : Host.Outcome State Fault Refusal :=
  s.runF true fun env s c t n =>
    let g := t.group o.cg
    let len := (sget env.s o.sd).toNat
    match g.st = .ready || g.st = .busy, g.desc with
    | true, some d =>
      if 2 ^ 32 < len then .fault s { cause := .reservedField }
      else if len = 0 then .done (s.nextF c)
      else
        let unit := bulkUnit (regAddr env.s o.sa) (regAddr env.s o.sb) len
        s.localSource c t n env (regAddr env.s o.sa) len unit fun s b =>
          let x : Send := { dst := 0, adp := o.adp, va := regAddr env.s o.sb, op := .put b }
          let (s, ids) := s.sendAll c t n env.pc x (d.members.filter (· != (s.router (dieOf c)).lself))
          .pend (s.nextF c) [.reqs ids]
    | _, _ => .fault s { cause := .groupUnset }

/-- RFENCE (R136). R329 gives the point of an `issue` signal of RFENCE and RWAIT no place before or after their wait; the model
applies it when the wait ends, as the word completes. (log 81 DESIGN CHOICE) -/
def execRfence (s : State) : Host.Outcome State Fault Refusal :=
  s.runF false fun _ s c t n =>
    if (s.ownReqs n t.image).any fun r => opWrites r.op then .wait s else .done (s.nextF c)
/-- RWAIT (R328): it waits first, and then takes a recorded failure. Its `issue` signal comes when the wait ends, as RFENCE's.
(log 81 DESIGN CHOICE) -/
def execRwait (s : State) : Host.Outcome State Fault Refusal :=
  s.runWord false fun env s =>
    let c := s.cur.core
    match (s.task c).map fun t => (t, t.ctx) with
    | some (t, some n) =>
      if !(s.ownReqs n t.image).isEmpty || t.groups.any fun g => g.2.st == .busy then .wait s
      else
        match t.takeDeferred env.pc with
        | some (f, t) => .fault (s.setTask c t) f
        | none => .done (s.nextF c)
    | _ => .wait s

end Sys2Proof.Machine
end

