-- ==== Sys2Proof/Machine/Sync.lean ====
section
/-! DEFINITION. Semaphores, events, barriers, YIELD and device-side launches (08, R217 to R221; 02, R31 to R39). -/

namespace Sys2Proof.Machine

/-! ## Semaphores (R217) -/

/-- SEMSIG: s[a] + amount under R34; on overflow the restart point follows the word. -/
def execSemsig (o : SemAmt) (s : State) : Host.Outcome State Fault Refusal :=
  s.runWord false fun env s =>
    let n : BitVec 16 := (sget env.s o.a).setWidth 16 + o.amt
    match s.task s.cur.core with
    | none => .wait s
    | some t =>
      if n = 0 then .done s
      else
        match (t.semOf o.sem).signalled n with
        | some x => .done (s.setTask s.cur.core (t.changeSem o.sem x))
        | none => .fault s { semFault s.cur.core o.sem 0 with after := true }

/-- SEMWAIT: the test of R32 with threshold s[a] + thr, made again after every change to the semaphore. What the signals stand for
has happened before it passes, and through a fence before what follows (R124, R379). -/
def execSemwait (o : SemThr) (s : State) : Host.Outcome State Fault Refusal :=
  s.runWord false fun env s =>
    let c := s.cur.core
    let thr : BitVec 8 := (sget env.s o.a).setWidth 8 + o.thr
    match s.task c with
    | none => .wait s
    | some t =>
      let x := t.strand .s
      if x.phase = .woken then .done (s.meetWait c .s o.sem)
      else
        match t.waitOn o.sem thr with
        | some t => .done ((s.setTask c t).meetWait c .s o.sem)
        | none => .wait (s.setTask c (t.setStrand .s { x with phase := .begun, waiting := some (o.sem, thr) }))

def execSemget (o : SemGetOp) (s : State) : Host.Outcome State Fault Refusal :=
  s.runWord false fun _ s =>
    .done (s.modTask s.cur.core fun t => t.sset o.d ((t.semOf o.sem).val.setWidth 64))

def execSemset (o : SemAmt) (s : State) : Host.Outcome State Fault Refusal :=
  s.runWord false fun env s =>
    let v : BitVec 16 := (sget env.s o.a).setWidth 16 + o.amt
    .done (s.modTask s.cur.core fun t => t.changeSem o.sem ⟨v, v.setWidth 8⟩)

/-! ## Events (R217, R218) -/

/-- The event a word names: (s[a] + imm) mod 256. -/
def eventOf (r : SMap Word) (o : EvOp) : Nat := ((sget r o.a).setWidth 8 + o.ev).toNat

/-- The context of the task that runs. (log 11 DEDUCED) -/
def State.ctxOf (s : State) : Option Nat := (s.task s.cur.core).bind (·.ctx)

/-- An access of a core's S strand to the event vector. -/
def evWho (c : Nat) : Who := { die := dieOf c, ctx := none, asid := 0, agent := some (.strand c .s) }
/-- The events of a context as a core's S strand reads them. -/
def State.eventsSeen (s : State) (c n : Nat) : Nat :=
  leNat ({ s with old := [] }.viewBytes (.strand c .s) (dieOf c) (s.ctx n).evaddr 32 32)
/-- An event word on the vector of its task's context: it waits where an earlier write is still to reach it, and faults where it is
lost (R112). A kernel core's task has no context and no event vector: it sets and clears nothing, and waits. (log 11 DEDUCED) -/
def State.eventWord (s : State) (o : EvOp) (none_ : State → Eff) (f : Nat → Nat → Nat → State → Eff) :
    Host.Outcome State Fault Refusal :=
  s.runWord false fun env s =>
    let c := s.cur.core
    match s.ctxOf with
    | none => none_ s
    | some n =>
      let a := (s.ctx n).evaddr
      if s.eventsLost n then .fault s { cause := .uncorrectableData, addr := BitVec.ofNat 56 a }
      else if s.atomHeld (dieOf c) a 32 then .wait s
      else f c n (eventOf env.s o) s

/-- EVSET: a release at module scope. -/
def execEvset (o : EvOp) (s : State) : Host.Outcome State Fault Refusal :=
  s.eventWord o .done fun c n e s =>
    .done (s.changeEvents { evWho c with rel := some .module } n fun v => some (v ||| 2 ^ e))

def execEvclr (o : EvOp) (s : State) : Host.Outcome State Fault Refusal :=
  s.eventWord o .done fun c n e s =>
    .done (s.changeEvents (evWho c) n fun v => some (if v.testBit e then v - 2 ^ e else v))

/-- EVWAIT: an acquire at module scope of the write that set the bit (R217, R218). -/
def execEvwait (o : EvOp) (s : State) : Host.Outcome State Fault Refusal :=
  s.eventWord o .wait fun c n e s =>
    if (s.eventsSeen c n).testBit e then
      .done ((s.noteRead (some (.strand c .s)) (dieOf c) (s.ctx n).evaddr 32 32 []).acquire (.strand c .s) .module)
    else .wait s

/-! ## Barriers (R37 to R39) -/

/-- The participants a level counts (R37). -/
def Task.barCount (t : Task) (level : Nat) : Nat :=
  match level with
  | 0 => teamSize (bits t.teaminfo 51 50)
  | 1 => bits t.domain 42 36
  | 2 => bits t.domain 50 43
  | _ => bits t.domain 63 51

def Barrier.count (b : Barrier) : Nat := b.arrived.length + b.remote.length

/-- Count an arrival of a task here or of another module's participant: the episode opens with the first, and is over when all have arrived. The number of the episode.
(log 28 DEDUCED) -/
def State.arriveAt (s : State) (level key die count : Nat) (who : Nat ⊕ BitVec 14) : State × Nat :=
  let same (b : Barrier) : Bool := b.level == level && b.key == key && b.die == die
  let b : Barrier := (s.barriers.find? same).getD ⟨level, key, die, s.episodes, [], []⟩
  let b := match who with
    | .inl u => { b with arrived := b.arrived ++ [u] }
    | .inr l => { b with remote := b.remote ++ [l] }
  let rest := s.barriers.filter fun x => !same x
  ({ s with
      barriers := if count ≤ b.count then rest else rest ++ [b]
      episodes := if b.episode = s.episodes then s.episodes + 1 else s.episodes }, b.episode)

/-- A signal at `issue` is applied at the arrival (02, R37) and not again. -/
def State.arriveSignal (s : State) (c : Nat) (e : Eng) (pc : Va) : State :=
  match s.cur.clauses.sig with
  | some g => if g.pt = .issue then s.ownSignal c e pc g [] else s
  | none => s
def State.dropIssueSignal (s : State) : State :=
  match s.cur.clauses.sig with
  | some g => if g.pt = .issue then { s with cur := { s.cur with clauses := { s.cur.clauses with sig := none } } } else s
  | none => s

/-- The scope of a barrier's level (R37). -/
def barScope (level : Nat) : Scope :=
  match level with
  | 0 => .team | 1 => .die | 2 => .module | _ => .domain

/-- BAR: an arrival is a release at the barrier's scope and its completion an acquire (R37, R124); the word completes when its
episode is over. (log 28 DEDUCED) -/
def State.bar (s : State) (level : Nat) : Host.Outcome State Fault Refusal :=
  s.runWord false fun env s =>
    let c := s.cur.core
    let a : Agent := .strand c .s
    let k := barScope level
    match s.task c with
    | none => .wait s
    | some t =>
      match (t.strand .s).phase with
      | .barred n => if s.openEpisode n then .wait s else .done (s.acquireNow a k).dropIssueSignal
      | _ =>
        if 0 < level && (!t.gridinfo.getLsbD 48 || t.barCount level = 0) then .fault s { cause := .barNotCoresident }
        else
          let die := if level = 1 then dieOf c else 0
          let (s, n) := (s.releaseNow a k).arriveAt level (s.barKey t level) die (t.barCount level) (.inl t.uid)
          let s := if level = 3 then
              { s with outbox := s.outbox ++ [.barArrive (t.domain.extractLsb' 0 32)
                (match t.ctx with
                 | some k => (s.ctx k).fid
                 | none => 0)] }
            else s
          if s.openEpisode n then
            let s := s.modTask c fun t => t.setStrand .s { t.strand .s with phase := .barred n }
            .wait (s.arriveSignal c env.eng env.pc)
          else .done (s.acquireNow a k)

def execBarTeam (s : State) : Host.Outcome State Fault Refusal := s.bar 0
def execBarDie (s : State) : Host.Outcome State Fault Refusal := s.bar 1
def execBarModule (s : State) : Host.Outcome State Fault Refusal := s.bar 2
/-- (log 28 DEDUCED) -/
def execBarDomain (s : State) : Host.Outcome State Fault Refusal := s.bar 3

/-! ## YIELD (R219) -/

/-- The task stops after its YIELD with every register live; the rest of its gang is asked to stop. -/
def State.yieldNow (s : State) (c : Nat) (tm : Team) : State :=
  let s := s.askGang tm
  s.modTask c fun t =>
    let x := t.strand .s
    { t with stopAt := some (x.epoch, x.path + 1), stopLive := none }

def execYield (s : State) : Host.Outcome State Fault Refusal :=
  s.runWord false fun _ s =>
    match (s.task s.cur.core).bind s.teamOf with
    | some tm => .done (if s.rivals tm then s.yieldNow s.cur.core tm else s)
    | none => .done s

/-! ## Device-side launches (R220, R221, R416) -/

/-- The pending launches of a die. (log 11 DEDUCED) -/
def State.pending (s : State) (die : Nat) : List PendLaunch := SMap.look [] s.launches die
/-- The state of a launch changes as its node does (R220). -/
def State.noteLaunch (s : State) (ctx : Nat) (h : BitVec 32) (st : Nat) : State :=
  { s with launchLog := s.launchLog.map fun x => if x.ctx == ctx && x.handle == h then { x with st := st } else x }

/-- A handle for a context's next launch: free, but for being none of those that LSTAT knows (R220). (log 12 DESIGN CHOICE) -/
def State.newHandle (s : State) (n : Nat) : BitVec 32 :=
  let fresh (h : BitVec 32) : Bool := !(s.launchLog.any fun x => x.ctx == n && x.handle == h)
  let h := Config.launchHandle n (SMap.look 0 s.launchHandle n)
  if fresh h then h else (((List.range 4097).map (BitVec.ofNat 32)).find? fresh).getD 0

/-- Post a record under a new handle; a context's 4,096 latest are known to LSTAT (R220). (log 12 DESIGN CHOICE) -/
def State.post (s : State) (die n queue uid : Nat) (r : BitVec 1024) : State × BitVec 32 :=
  let h := s.newHandle n
  let seq := SMap.look 0 s.launchHandle n
  let mine := s.launchLog.filter fun x => x.ctx == n
  let log := if mine.length < 4096 then s.launchLog
    else match mine.head? with
      | some old => s.launchLog.erase old
      | none => s.launchLog
  ({ s with
      launches := SMap.put [] s.launches die (s.pending die ++ [⟨n, h, r, queue, uid, seq, !s.ctxValid n⟩])
      launchLog := log ++ [⟨n, h, 0⟩]
      launchHandle := SMap.put 0 s.launchHandle n (seq + 1) }, h)

/-- LAUNCH (R220, R221, R416): the record is read whole, as an acquire at module scope, before it is posted; the word is a release
at module scope. A task of no context has no quota. (log 11 DEDUCED, 12 DESIGN CHOICE) -/
def execLaunch (o : RI) (s : State) : Host.Outcome State Fault Refusal :=
  s.runWord false fun env s =>
    let c := s.cur.core
    let a : Agent := .strand c .s
    let va := memAddr env.s o.a o.imm
    let give (s : State) (v : Word) : Eff := .done (s.modTask c fun t => t.sset o.d v)
    if va % 128 != 0 then give s 3
    else
      match s.task c with
      | none => .wait s
      | some t =>
        match s.readNat (t.whoAs c .s) va 128 with
        | (s, .error e) => Eff.ofStop s e
        | (s, .ok r) =>
          let s := (s.acquire a .module).releaseNow a .module
          match t.ctx with
          | none => give s 2
          | some n =>
            let used := ((s.pending 0 ++ s.pending 1).filter fun x => x.ctx == n).length
            if s.ctxBroken n then .fault s { cause := .reservedField }
            else if 1024 ≤ (s.pending (dieOf c)).length then give s 1
            else if (s.ctx n).lquota ≤ used then give s 2
            else
              let q := match s.node t.node with
                | some k => k.queue
                | none => 0
              let (s, h) := s.post (dieOf c) n q t.uid (BitVec.ofNat 1024 r)
              give s (h ++ 0#32)

/-- LSTAT: an answer that the launch has completed is an acquire at module scope (R221). (log 12 DESIGN CHOICE) -/
def execLstat (o : R2) (s : State) : Host.Outcome State Fault Refusal :=
  s.runWord false fun env s =>
    let h : BitVec 32 := (sget env.s o.a).setWidth 32
    let st := match s.ctxOf with
      | some n => match s.launchLog.find? fun x => x.ctx == n && x.handle == h with
        | some x => x.st
        | none => 4
      | none => 4
    let s := if st = 2 || st = 3 then s.acquireNow (.strand s.cur.core .s) .module else s
    .done (s.modTask s.cur.core fun t => t.sset o.d (BitVec.ofNat 64 st))

end Sys2Proof.Machine
end

