-- ==== Sys2Proof/Machine/FabricSteps.lean ====
section
/-! DEFINITION. What the fabric does by itself (12, R318 to R335; 23, R459 to R467): routing, performing requests, landing
what comes back, deferred failures, and the episodes of collective groups. -/

namespace Sys2Proof.Machine

/-! ## Routing (R461 to R463, R466, R467) -/

/-- What a router does with a packet. -/
inductive Hop where
  | deliver
  | drop
  | out (port : Nat) (cls : BitVec 2)
  deriving DecidableEq, Repr

/-- The main and post rules of R463; `det` says that the DET bits count. A packet that arrived on dimension `a` has
`last = a + 1`. (log 32 DESIGN CHOICE) -/
def Router.mainHop (r : Router) (bank : Bool) (p : BitVec 14) (last : Nat) (det : Bool) : Hop :=
  let e := r.route bank p
  let port := bits e 3 0
  let alt := bits e 7 4
  let go (n : Nat) (d : Bool) : Hop :=
    if n = 14 then .deliver
    else if n = 15 || n < last || !r.up n then .drop
    else .out n (if d then 1 else if det then 0 else 2)
  if bits e 15 11 != 0 then .drop
  else if port = 14 || port = 15 || r.up port then go port (det && e.getLsbD 9)
  else if e.getLsbD 8 then go alt (det && e.getLsbD 10)
  else .drop

/-- The next move of a packet of class 0 main, 1 hop, 2 post, 3 adaptive. An adaptive packet takes a nearer port that is up and
has room, and enters the main class where none has; which of several it takes is open. (log 32 DESIGN CHOICE) -/
def Router.hop (r : Router) (full : Nat → Bool) (bank : Bool) (p : BitVec 14) (cls : BitVec 2) (last : Nat) : Hop :=
  match cls.toNat with
  | 0 => r.mainHop bank p last true
  | 1 => r.mainHop bank p 0 false
  | 2 => r.mainHop bank p last false
  | _ =>
    match (List.range 14).find? fun d => (r.phys ^^^ p).getLsbD d && r.up d && !(full d) with
    | some d => .out d 3
    | none => r.mainHop bank p 0 true

/-- The lane that a packet's key chooses on its next link (R466). -/
def Router.lane (r : Router) (bank : Bool) (key : BitVec 16) : BitVec 3 :=
  ((r.keyEntry bank key).map fun e => e.extractLsb' 16 3).getD 0

inductive Reached where
  | here (die : Nat)
  | left (die port : Nat) (cls : BitVec 2)
  | lost (c : Cause)
  deriving DecidableEq, Repr

/-- Follow a packet through the routers of the module. -/
def State.followPacket (bank : Bool) (key : BitVec 16) (p : BitVec 14) :
    Nat → Nat → BitVec 2 → Nat → State → State × Reached
  | 0, _, _, _, s => (s, .lost .linkLost)
  | fuel + 1, die, cls, last, s =>
    let r := s.router die
    match r.hop (Config.adaptiveFull s.ctr) bank p cls last with
    | .deliver => (s, .here die)
    | .drop => (s.setRouter die r.dropped, .lost .linkLost)
    | .out 0 c =>
      match (s.router (1 - die)).admits bank key with
      | some (x, r') => (s.setRouter (1 - die) r', .lost x)
      | none => State.followPacket bank key p fuel (1 - die) c 1 s
    | .out n c => (s, .left die n c)

/-! ## Performing a request (R319, R322 to R326) -/

inductive Performed where
  | ok (s : State) (bytes : List Byte)
  | fail (s : State) (c : Cause) (info : Nat)
  | refused
  | wait

/-- The context bound to a fabric identity (R319). -/
def State.ctxOfFid (s : State) (fid : BitVec 32) : Option Nat :=
  (List.range 4096).find? fun n => s.ctxValid n && (s.ctx n).fid == fid

def Performed.ofStop (s : State) (x : XlStop) : Performed :=
  match x with
  | .refused _ => .refused
  | .held => .wait
  | x => .fail s x.info.cause x.info.info.toNat

/-- The task a signal names: on a core, or saved (R325). -/
def State.sigTarget (s : State) (n : Nat) (m : RsigMsg) : Option (Nat ⊕ SavedTask) :=
  let is (t : Task) : Bool := t.ctx == some n && t.domain.extractLsb' 0 32 == m.grid &&
    t.teaminfo.extractLsb' 0 50 == m.rank ++ m.tz ++ m.ty ++ m.tx
  match s.cores.find? fun x => (x.2.task.map is).getD false with
  | some x => some (.inl x.1)
  | none => (s.images.find? fun x => is x.task).map .inr

/-- Apply a signal at its target (R34, R35); with the wait that it satisfies it forms a pair (R36, R325). -/
def State.applySig (s : State) (n : Nat) (m : RsigMsg) : Option State :=
  let f : FaultInfo := { cause := .semOverflow, origin := 5, label := some m.srcLabel,
                         info := BitVec.ofNat 64 (m.sem.toNat + m.srcCore.toNat * 256) }
  match s.sigTarget n m with
  | none => none
  | some (.inl c) =>
    match s.task c with
    | none => none
    | some t =>
      match (t.semOf m.sem).signalled m.inc with
      | some x => some ((s.pairAll c m.sem).setTask c (t.changeSem m.sem x))
      | none => some (s.taskFault c f)
  | some (.inr x) => some (s.signalImage x m.sem m.inc f)

/-- The participants a domain barrier counts, as a local task of its grid and identity knows them (R37, R38). -/
def State.domainCount (s : State) (fid grid : BitVec 32) : Nat :=
  let tasks := (s.cores.filterMap fun x => x.2.task) ++ s.images.map (·.task)
  match tasks.find? fun t => t.domain.extractLsb' 0 32 == grid && (t.ctx.map fun n => (s.ctx n).fid) == some fid with
  | some t => t.barCount 3
  | none => 8192

/-- The permission an operation needs. -/
def opAcc (x : RemoteOp) : Acc :=
  match x with
  | .read _ | .get _ => .rd
  | .fetch _ => .ex
  | .amo .. | .cas .. => .at
  | .writeBack _ => .wb
  | _ => .wr

/-- The module to which an access of a context here goes on, and whether its page has moved there (MST 10) rather than having its
home there for good (R431, R432). -/
def State.goesOn (s : State) (w : Who) (n : Nat) (a : Acc) (va len : Nat) : Option (Nat × Bool) :=
  match (s.pieces w a va len).2 with
  | .error _ => none
  | .ok ps => ps.findSome? fun p => match p with
    | .here .. => none
    | .away l v _ => match (s.walk w n v true).out with
      | .ok e => some (l, e.mst == 2)
      | .error _ => some (l, false)

/-- Perform a request of a die label at a die, in the order it asks for (R323). A page whose entry here is itself remote and has
not moved there is TRANSLATION_ABSENT, reason 3 (R431). -/
def State.performOp (s : State) (src : BitVec 14) (die n : Nat) (va : Va) (op : RemoteOp) (acq rel : Option Scope) : Performed :=
  let w := { s.pilotWho die n with rel := rel }
  let a := va.toNat
  let done (s : State) (b : List Byte) : Performed := .ok (acq.elim s fun k => s.acquire (.pilot die) k) b
  let atomically (k : Nat) (f : Nat → Option Nat) : Performed :=
    if a % k != 0 then .fail s .atomicAlign 0
    else
      match s.atomic w a k op f with
      | (s, .ok v) => done s (leBytes k v)
      | (s, .error e) => Performed.ofStop s e
  if s.goesOn w n (opAcc op) a (opSize op) |>.any fun x => !x.2 then .fail s .translationAbsent 3
  else
    match op with
    | .read k | .get k | .fetch k =>
      match s.readRun w (opAcc op) a k with
      | (s, .ok b) => done s b
      | (s, .error e) => Performed.ofStop s e
    | .write b | .put b | .writeBack b =>
      match s.writeRun w (opAcc op) a b with
      | (s, none) => done s []
      | (s, some e) => Performed.ofStop s e
    | .amo o k x => atomically k fun v => changed v (amoFn o k v (x.toNat % 2 ^ (8 * k)))
    | .cas k x y => atomically k (casFn x.toNat y.toNat)
    | .sig m =>
      match s.applySig n m with
      | some s => .ok s []
      | none => .fail s .peerAbsent 0
    | .barArrive g =>
      let fid := (s.ctx n).fid
      .ok (s.arriveAt 3 (g.toNat + fid.toNat * 2 ^ 32) 0 (s.domainCount fid g) (.inr src)).1 []

/-- The checks of a request at the die that carries its label, then the request itself (R319, R460). -/
def State.performAt (s : State) (src : BitVec 14) (die : Nat) (dst : BitVec 14) (fid : BitVec 32) (va : Va) (op : RemoteOp)
    (acq rel : Option Scope) : Performed :=
  if dst != (s.router die).lself then .fail s .peerAbsent 0
  else
    match s.ctxOfFid fid with
    | none => .fail s .remoteContext 0
    | some n => s.performOp src die n va op acq rel

/-! ## What becomes of a request -/

def State.setReq (s : State) (q : FReq) : State := { s with reqs := s.reqs.map fun x => if x.id == q.id then q else x }

/-- A request without one of the earlier ones that it waits for. -/
def FReq.freed (id : Nat) (q : FReq) : FReq := { q with waits := q.waits.filter (· != id) }
/-- Retire a request. -/
def State.retire (s : State) (id : Nat) : State :=
  { s with reqs := (s.reqs.filter fun q => q.id != id).map (FReq.freed id) }

/-- A failure comes back (R319). -/
def FReq.fail (q : FReq) (c : Cause) (addr : Va) (label : Option (BitVec 14)) : FReq :=
  { q with failed := some ⟨q.order, c, q.pc, addr, label, 0⟩, performed := true }
def State.failReq (s : State) (q : FReq) (c : Cause) : State := s.setReq (q.fail c q.va (some q.dst))

/-- A signal that waits for an F request learns what it has written here; at `vis` it waits for those writes too (R329). -/
def PendSig.landed (id : Nat) (ids : List Nat) (toks : List Token) (p : PendSig) : PendSig :=
  let mine := p.until_.any fun k => match k with
    | .reqs l => l.contains id
    | _ => false
  if mine then { p with ids := p.ids ++ ids, until_ := p.until_ ++ if p.clause.pt = .vis then toks else [] } else p
/-- Who writes what comes back to a task: its F strand (R322), or the part where the task is saved. -/
def State.landWho (s : State) (die ctx image : Nat) : Who :=
  match s.coreOfImage ctx image with
  | some c => { s.pilotLook (dieOf c) ctx with near := some (.mapUnit c), agent := some (.strand c .f) }
  | none => s.pilotLook die ctx
/-- What has been written for an F word of a task since a state. -/
def State.noteLanded (s old : State) (w : Who) (ctx image id : Nat) : State :=
  let ids := s.wroteSince old.order.next w.agent
  (s.wroteAs old w.agent).onImage ctx image fun t => { t with sigs := t.sigs.map (PendSig.landed id ids (s.inFlight ids)) }

/-- A page's base and size are not known before the page has been reached: two addresses may be of one page when the largest page
holds both. -/
def maybeSamePage (a b : Va) : Bool := a.toNat / 2 ^ 34 == b.toNat / 2 ^ 34
/-- An earlier request of the task to the same page of the same die has been refused and is still to be performed (R433). -/
def State.reqHeld (s : State) (q : FReq) : Bool :=
  s.reqs.any fun x => x.id < q.id && x.ctx == q.ctx && x.image == q.image && x.dst == q.dst && x.retry.isSome && x.back.isNone &&
    maybeSamePage x.va q.va
/-- An earlier landing of the task in the same page has been refused and is still to be made. -/
def State.landHeld (s : State) (q : FReq) (a : Va) : Bool :=
  s.reqs.any fun x => x.id < q.id && x.ctx == q.ctx && x.image == q.image && x.retry.isSome && x.back.isSome &&
    x.land.any (maybeSamePage a)

/-- What a request asked for has been done: its answer is landed (R322), and the request is over. -/
def State.land (s : State) (q : FReq) (b : List Byte) : State :=
  match q.land with
  | none => s.retire q.id
  | some a =>
    let held := { q with performed := true, back := some b }
    if s.landHeld q a then s.setReq held
    else if Retry.early q.retry (s.now q.die) then s
    else
      let w := s.landWho q.die q.ctx q.image
      match s.writeRun w .wr a.toNat b with
      | (u, none) => (u.retire q.id).noteLanded s w q.ctx q.image q.id
      | (_, some (.refused va)) => s.setReq { held with retry := some (Retry.again q.retry (s.now q.die) (BitVec.ofNat 56 va)) }
      | (u, some e) => u.setReq (q.fail e.info.cause a e.info.label)

/-- Whether a request may leave now: nothing it waits for is left, no earlier one to its page has been refused, and in the
deterministic class every earlier request of its pair has left (R323, R325, R433, R464). (log 52 DEDUCED) -/
def State.mayLeave (s : State) (q : FReq) : Bool :=
  q.waits.isEmpty && !q.performed && q.failed.isNone && !(s.reqHeld q) && !(Retry.early q.retry (s.now q.die)) &&
    (q.adp || s.reqs.all fun x => x.id ≥ q.id || x.die != q.die || x.dst != q.dst || x.performed)

/-- The lowest number of a pair of dies that its source has not retired (R464). -/
def State.oldestSeq (s : State) (q : FReq) : Nat :=
  (s.reqs.filter fun x => x.die == q.die && x.dst == q.dst).foldl (fun m x => min m x.seq) q.seq

/-- A request that has been refused goes again after its gap (R433). -/
def FReq.again (q : FReq) (now : Word) : FReq := { q with performed := false, retry := some (Retry.again q.retry now q.va) }

/-- A request of this module leaves its source: it takes the bank then injected, under which its label is translated once
(R460, R467). -/
def State.inject (s : State) (q : FReq) : FReq :=
  match q.phys with
  | some _ => q
  | none =>
    let r := s.router q.die
    { q with bank := r.inj, phys := r.physOf r.inj q.dst, sent := s.now q.die }

/-- A request of this module is injected and, where its path stays within the module, performed and acknowledged. -/
def State.sendReq (s : State) (q : FReq) : State :=
  let q := s.inject q
  let s := s.setReq q
  let r := s.router q.die
  if (r.keyEntry q.bank q.key).isNone then s.failReq q .partitionKey
  else
    match q.phys with
    | none => s.failReq q .peerAbsent
    | some p =>
      match r.admits q.bank q.key with
      | some (c, r) => (s.setRouter q.die r).failReq q c
      | none =>
        match State.followPacket q.bank q.key p 4 q.die (if q.adp then 3 else 0) 0 s with
        | (s, .lost c) => s.failReq q c
        | (s, .left die port cls) =>
          let chan := cls ++ 0#1 ++ (s.router die).lane q.bank q.key
          { s.setReq { q with performed := true } with
            outbox := s.outbox ++ [.request q.id die port chan q.seq (s.oldestSeq q) q.bank p q.dst q.op q.acq q.rel] }
        | (s, .here die) =>
          match s.performAt r.lself die q.dst q.fid q.va q.op q.acq q.rel with
          | .ok s b => s.land { q with retry := none } b
          | .fail s c _ => s.failReq q c
          | .refused => s.setReq (q.again (s.now q.die))
          | .wait => s

/-- A request of another module reaches a die (R464): performed once, and answered; one that meets a frozen page is refused (R433).
One of the deterministic class waits until every earlier request of its pair has been performed or retired (R135).
(log 52 DEDUCED) -/
def State.takeReq (s : State) (q : RemoteReq) : State :=
  match q with
  | .ext die src dst adp seq oldest fid key bank va op acq rel =>
    let r := s.router die
    let reply (s : State) (a : AckResult) : State := { s with outbox := s.outbox ++ [.reply src seq bank a] }
    if 2 ≤ die || r.done.contains (src, seq) then s
    else
      match r.admits bank key with
      | some (c, r) => reply (s.setRouter die r) (.fail c dst)
      | none =>
        if !adp && (List.range (seq - oldest)).any fun i => !r.done.contains (src, oldest + i) then s
        else
          match s.performAt src die dst fid va op acq rel with
          | .ok s b =>
            let r := s.router die
            reply (s.setRouter die { r with done := r.done ++ [(src, seq)] }) (.ok b)
          | .fail s c _ => reply s (.fail c dst)
          | .refused => reply s .refused
          | .wait => s
  | _ => s

/-- The context of an address-space identifier. -/
def State.ctxOfAsid (s : State) (asid : BitVec 16) : Option Nat :=
  (List.range 4096).find? fun n => s.ctxValid n && (s.ctx n).asid == asid

/-- A write of another module has been applied here: its die's counter of the stamp follows (R127). -/
def State.countApplied (s : State) (src : BitVec 14) (op : RemoteOp) : State :=
  let pos := src.toNat % 64
  if opWrites op then { s with applied := SMap.put 0 s.applied pos (s.appliedOf pos + 1) } else s

/-- An access of another module of the load-store domain arrives untranslated (R109, R431). It waits until every write that its
stamp covers has been applied (R127). This module walks its own tables for the address-space identifier, checks its own
permissions, and returns its cause with its die's label, its refusal (R433), or the answer; a page that has moved has the access
go on to its new home (R432). An identifier that no valid context has is TRANSLATION_ABSENT. (log 52 DEDUCED) -/
def State.takeLs (s : State) (q : RemoteReq) : State :=
  match q with
  | .ls die src asid va op stamp =>
    let me := (s.router die).lself
    let reply (s : State) (a : AckResult) (info : Nat) : State := { s with outbox := s.outbox ++ [.lsReply src va a info] }
    if 2 ≤ die || !(s.reached stamp) then s
    else
      match s.ctxOfAsid asid with
      | none => reply s (.fail .translationAbsent me) 0
      | some n =>
        match s.goesOn (s.pilotWho die n) n (opAcc op) va.toNat (opSize op) with
        | some (l, true) => { s with outbox := s.outbox ++ [.forward src (BitVec.ofNat 14 l) asid va op stamp] }
        | _ =>
          match s.performOp src die n va op none none with
          | .ok s b => reply (s.countApplied src op) (.ok b) 0
          | .fail s c i => reply s (.fail c me) i
          | .refused => reply s .refused 0
          | .wait => s
  | _ => s

/-- REMOTE_REQUEST. -/
def execRemoteRequest (s : State) : Host.Outcome State Fault Refusal :=
  match s.input.load with
  | .req (.own id) =>
    match s.reqs.find? fun q => q.id == id with
    | some q => .next (if s.mayLeave q then s.sendReq q else s)
    | none => .next s
  | .req q => .next ((s.takeReq q).takeLs q)
  | _ => .next s

/-- An answer from another module comes to a router in a packet that carries its request's bank (R467): dropped as any packet
is, landed, kept as a failure, or taken as a refusal. -/
def State.takeAck (s : State) (id : Nat) (a : AckResult) : State :=
  match s.reqs.find? fun q => q.id == id && q.performed && q.failed.isNone && q.back.isNone with
  | none => s
  | some q =>
    match (s.router q.die).admits q.bank q.key with
    | some (c, r) => (s.setRouter q.die r).failReq q c
    | none =>
      match a with
      | .ok b => s.land { q with retry := none } (b.take q.landSize ++ List.replicate (q.landSize - b.length) 0)
      | .fail c l => s.setReq (q.fail c q.va (some l))
      | .refused => s.setReq (q.again (s.now q.die))

/-- REMOTE_ACK: an answer from another module, or the landing of one that was refused. -/
def execRemoteAck (s : State) : Host.Outcome State Fault Refusal :=
  match s.reqs.find? fun q => q.id == s.input.unit && q.performed && q.failed.isNone with
  | none => .next s
  | some q =>
    match q.back, s.input.load with
    | some b, _ => .next (s.land q b)
    | none, .ack a => .next (s.takeAck q.id a)
    | none, _ => .next s

/-- REMOTE_TIMEOUT (R319); MIGRATION_BUSY for one that is still refused when RTMO has passed since its first refusal (R433). -/
def execRemoteTimeout (s : State) : Host.Outcome State Fault Refusal :=
  match s.reqs.find? fun q => q.id == s.input.unit && q.failed.isNone with
  | none => .next s
  | some q =>
    let ticks := (s.ctx q.ctx).rtmoTicks
    let now := s.now q.die
    if q.retry.isSome then .next (if Retry.over q.retry now ticks then s.failReq q .migrationBusy else s)
    else .next (if q.phys.isSome && q.back.isNone && ticks ≤ (now - q.sent).toNat then s.failReq q .remoteTimeout else s)

/-- The task of a unit: one on a core, or a saved one from 194 up. -/
def State.unitTask (s : State) (u : Nat) : Option Task :=
  if u < 194 then s.task u else (s.images[u - 194]?).map (·.task)

/-- DEFERRED_FAILURE (R320): the failed word's signal goes, and the failure is kept for the F strand. -/
def execDeferredFailure (s : State) : Host.Outcome State Fault Refusal :=
  match s.unitTask s.input.unit with
  | none => .next s
  | some t =>
    match t.ctx.bind fun n => (s.ownReqs n t.image).find? fun q => q.failed.isSome with
    | none => .next s
    | some q =>
      match q.failed with
      | none => .next s
      | some d =>
        .next ((s.retire q.id).onImage q.ctx q.image fun t =>
          { t.addDefer d with sigs := t.sigs.filter fun p => !(p.until_.any fun k => match k with
              | .reqs l => l.contains q.id
              | _ => false) }).syncHeaders

/-- RSIG_ARRIVAL (R35): a signal that another module's fabric brings, in a packet that the die's router checks (R466, R467). -/
def execRsigArrival (s : State) : Host.Outcome State Fault Refusal :=
  let die := s.input.unit
  match s.input.load with
  | .sig m =>
    if 2 ≤ die then .next s
    else
      match (s.router die).admits m.bank m.key with
      | some (_, r) => .next (s.setRouter die r)
      | none =>
        match (s.ctxOfFid m.fid).bind fun n => s.applySig n m with
        | some s => .next s
        | none => .next s
  | _ => .next s

/-! ## Episodes (R333 to R335, R369) -/

/-- CONTRIBUTION_ARRIVAL: a router takes one whose key it knows in the bank it carries (R387, R466). -/
def execContributionArrival (s : State) : Host.Outcome State Fault Refusal :=
  let die := s.input.unit % 2
  match s.input.load with
  | .contrib m =>
    match (s.router die).admits m.bank m.key with
    | some (_, r) => .next (s.setRouter die r)
    | none => .next { s with contribs := s.contribs ++ [⟨die, s.now die, m⟩] }
  | _ => .next s

/-- One merge, the lower label first (R333, R74). -/
def mergeF32 (op : BitVec 2) (a b : Nat) : Nat :=
  if op = 0 then addF32 a b
  else
    let x := f32Val a
    let y := f32Val b
    if x.isNaN || y.isNaN then defaultNaN .f32
    else if x.isZero && y.isZero then
      if op = 1 then (if x.sign && y.sign then a else 0) else (if x.sign || y.sign then 0x80000000 else 0)
    else
      match cmpVal x y with
      | .lt => if op = 1 then b else a
      | _ => if op = 1 then a else b

/-- The merges along a list of dimensions of the values from a member up; `v` gives a member's own value. -/
def mergeTree (op : BitVec 2) (v : Nat → Nat) : List Nat → Nat → Nat
  | [], l => v l
  | d :: ds, l => mergeF32 op (mergeTree op v ds l) (mergeTree op v ds (l + 2 ^ d))

/-- The reduced elements in the output type. -/
def reduceAll (d : GroupDesc) (vals : Nat → Array (BitVec 32)) : List Nat :=
  (List.range d.count).map fun i =>
    let r := mergeTree d.op (fun l => ((vals l).getD i 0).toNat) (dimsOf d.mask).reverse d.base.toNat
    if d.oty = .f32 then (if (f32Val r).isNaN then defaultNaN .f32 else r) else (convert d.oty .f32 .rne false false r).1

/-- The contributions to an episode by member label, none while one is missing. -/
def gatherParts (l : List ContribMsg) : List (BitVec 14) → Option (List (Nat × Array (BitVec 32)))
  | [] => some []
  | m :: ms =>
    match l.find? fun x => x.label == m, gatherParts l ms with
    | some x, some r => some ((m.toNat, x.vals.toArray) :: r)
    | _, _ => none

/-- Forget the contributions to an episode at a die no member of which still waits for it. -/
def State.pruneParts (s : State) (die : Nat) (d : GroupDesc) (g : Group) (fid : BitVec 32) : State :=
  if (s.localMembers d g.done fid).any fun y => s.memberDie y.2.2.2 == die then s else s.dropParts [die] d g fid

/-- A group slot after an episode: ready for the next, or aborted where its task has left the die it joined from (R335).
(log 31 DEDUCED) -/
def Group.nextEpisode (y : Group) : Group :=
  if y.moved then { y with st := .aborted, cause := .peerAbsent, done := y.done + 1, retry := none, moved := false }
  else { y with st := .ready, done := y.done + 1, retry := none }

/-- A member's output cannot be written: the slot is ready again, and the failure is deferred. (log 31 DEDUCED) -/
def State.outputFault (s : State) (t : Task) (n g : Nat) (x : Group) (f : FaultInfo) : State :=
  (s.onGroup n t.image g Group.nextEpisode).onImage n t.image fun t => t.failGroup g x f.cause f.addr f.label

/-- Write a member's output (R333, R335); a write that is refused goes again (R433). -/
def State.writeOutput (s : State) (t : Task) (n g die : Nat) (x : Group) (d : GroupDesc) (r : List Nat) : State :=
  let b := r.flatMap fun v => leBytes (d.oty.width / 8) v
  let now := s.now die
  let w := s.landWho die n t.image
  if Retry.early x.retry now then s
  else
    match s.writeRun w .wr x.out.toNat b with
    | (u, none) => ((u.onGroup n t.image g Group.nextEpisode).noteLanded s w n t.image x.reqId).pruneParts die d x (s.ctx n).fid
    | (u, some (.refused a)) =>
      if Retry.over x.retry now (s.ctx n).rtmoTicks then u.outputFault t n g x (XlStop.info (.refused a))
      else s.onGroup n t.image g fun y => { y with retry := some (Retry.again y.retry now (BitVec.ofNat 56 a)) }
    | (u, some e) => u.outputFault t n g x e.info

/-- The µs an episode may take, in ticks of 1 ns (R330). -/
def timeoutTicks (n : Nat) : Nat := (if n = 0 then 2000 else n) * 1000
/-- The ticks from the first of some contributions, oldest first, to a time. -/
def sinceFirst (l : List HeldPart) (now : Word) : Nat :=
  match l with
  | [] => 0
  | c :: _ => (now - c.at_).toNat

/-- EPISODE_RESULT: the result reaches one member, or an absent member ends the episode (R333, R334). A contribution that came
after the timeout of the first ends it too (R369). (log 31 DEDUCED) -/
def execEpisodeResult (s : State) : Host.Outcome State Fault Refusal :=
  match s.unitTask s.input.unit with
  | none => .next s
  | some t =>
    let g := s.input.idx
    let x : Group := SMap.look {} t.groups g
    match x.st, x.desc, t.ctx with
    | .busy, some d, some n =>
      let die := s.memberDie x
      let fid := (s.ctx n).fid
      let mine := s.partsAt die d x fid
      match gatherParts (mine.map (·.msg)) d.members with
      | some l =>
        if timeoutTicks d.timeout ≤ sinceFirst mine ((mine.getLast?.map (·.at_)).getD 0) then
          .next (s.failEpisode d x fid .reduceTimeout none)
        else
          let vals (k : Nat) : Array (BitVec 32) := ((l.find? fun y => y.1 == k).map (·.2)).getD #[]
          .next (s.writeOutput t n g die x d (reduceAll d vals)).syncHeaders
      | none =>
        let r := s.router die
        match d.members.find? fun k => (r.physOf r.inj k).isNone with
        | some k => .next (s.failEpisode d x fid .peerAbsent (some k))
        | none => .next s
    | _, _, _ => .next s

/-- Contributions of one episode, at one router. -/
def HeldPart.sameEpisode (x y : HeldPart) : Bool :=
  x.die == y.die && { x.msg with label := x.msg.label &&& ~~~ x.msg.mask, key := 0, bank := false, vals := [] } ==
    { y.msg with label := y.msg.label &&& ~~~ y.msg.mask, key := 0, bank := false, vals := [] }

/-- Contributions that a router holds for no group of its die are dropped when the timeout from the first of their episode expires,
and the other members learn of it (R369). (log 31 DEDUCED) -/
def State.dropHeldParts (s : State) : State :=
  let tasks := (s.cores.filterMap fun y => y.2.task) ++ s.images.map (·.task)
  let wanted (x : HeldPart) : Bool := tasks.any fun t => match t.ctx with
    | none => false
    | some n => t.groups.any fun y => (y.2.st == .busy || y.2.st == .ready) && s.memberDie y.2 == x.die &&
        match y.2.desc with
        | some d => forEpisode d y.2 (s.ctx n).fid x.msg
        | none => false
  let old := s.contribs.filter fun x =>
    timeoutTicks x.msg.timeout ≤ sinceFirst (s.contribs.filter x.sameEpisode) (s.now x.die) && !wanted x
  { s with
    contribs := s.contribs.filter fun x => !old.contains x
    outbox := s.outbox ++ (old.map fun x => OutMsg.groupAbort x.msg.fid x.msg.gid .reduceTimeout).eraseDups }

/-- REDUCE_TIMEOUT: a router's timer, or word of another router's, aborts the episode for every member; where a member's die is
absent that is its cause (R334). -/
def execReduceTimeout (s : State) : Host.Outcome State Fault Refusal :=
  let s := s.dropHeldParts
  match s.unitTask s.input.unit with
  | none => .next s
  | some t =>
    let x : Group := SMap.look {} t.groups s.input.idx
    match x.st == .busy || x.st == .ready, x.desc, t.ctx with
    | true, some d, some n =>
      let fid := (s.ctx n).fid
      let die := s.memberDie x
      let mine := s.partsAt die d x fid
      let r := s.router die
      let due := (gatherParts (mine.map (·.msg)) d.members).isNone && timeoutTicks d.timeout ≤ sinceFirst mine (s.now die)
      let gone := d.members.find? fun k => (r.physOf r.inj k).isNone
      match s.input.load, due, gone with
      | .failure .peerAbsent l, _, _ => .next (s.failEpisode d x fid .peerAbsent (some l))
      | .failure .reduceTimeout _, _, _ => .next (s.failEpisode d x fid .reduceTimeout none)
      | _, true, some l => .next (s.failEpisode d x fid .peerAbsent (some l))
      | _, true, none => .next (s.failEpisode d x fid .reduceTimeout none)
      | _, false, _ => .next s
    | _, _, _ => .next s

/-! ## Packets on their way elsewhere (R463, R467) -/

/-- What a delivered packet carries takes effect at its die. -/
def State.deliverPacket (s : State) (p : PacketIn) : State :=
  match p.cargo with
  | .none => s
  | .req q => (s.takeReq q).takeLs q
  | .ack id a => s.takeAck id a

/-- Route the oldest packet a router holds (R463, R466, R467). -/
def State.routeHead (s : State) (die : Nat) : State :=
  let r := s.router die
  match r.buffered with
  | [] => s
  | p :: l =>
    let s := s.setRouter die { r with buffered := l }
    let r := s.router die
    match r.admits p.bank p.key with
    | some (_, r) => s.setRouter die r
    | none =>
      let cls := if p.cls = 1 then 2 else p.cls
      let last := if p.cls = 1 then 0 else p.arrived
      let lane := r.lane p.bank p.key
      match r.hop (Config.adaptiveFull s.ctr) p.bank p.dst cls last with
      | .deliver => s.deliverPacket p
      | .drop => s.setRouter die r.dropped
      | .out 0 c =>
        let o := s.router (1 - die)
        s.setRouter (1 - die) { o with buffered := o.buffered ++ [{ p with cls := c, arrived := 1, lane := lane }] }
      | .out n c => { s with outbox := s.outbox ++ [.packet die n { p with cls := c, arrived := n + 1, lane := lane }] }

/-- PACKET_ROUTE: a packet arrives at a router's buffers, or the router moves one. -/
def execPacketRoute (s : State) : Host.Outcome State Fault Refusal :=
  let die := s.input.unit
  if 2 ≤ die then .next s
  else
    match s.input.load with
    | .packet p => .next (s.setRouter die { s.router die with buffered := (s.router die).buffered ++ [p] })
    | _ => .next (s.routeHead die)

end Sys2Proof.Machine
end

