-- ==== Sys2Proof/Machine/Jobs.lean ====
section
/-! DEFINITION. Job cards, footprints and submission (12, R337 to R346; 06; 01, R16), the J words (12, R337 to R349), and the
end of a job (R341, R342). -/

namespace Sys2Proof.Machine

/-! ## Cards (R338, R343, R345, R346) -/

def cardKind (c : BitVec 1024) : Nat := bits c 7 0
def cardCrec (c : BitVec 1024) : Nat := bits c 119 64
def cardFp (c : BitVec 1024) : Nat := bits c 183 128
/-- The reserved bits of the header. -/
def cardReserved (c : BitVec 1024) : Bool :=
  bits c 255 184 != 0 || bits c 127 120 != 0 || bits c 63 41 != 0 || bits c 31 16 != 0

/-- A copy or fill breaks its limits (R343). -/
def nestBad (c : BitVec 1024) : Bool :=
  bits c 415 384 = 0 || bits c 447 416 = 0 || bits c 479 448 = 0 || 4 < bits c 482 480 || bits c 511 483 != 0 ||
    bits c 383 376 != 0 || bits c 319 312 != 0 ||
    (if cardKind c = 1 then bits c 1023 896 != 0
     else bits c 311 256 != 0 || bits c 575 512 != 0 || bits c 703 640 != 0 || bits c 831 768 != 0)

/-- The checks of R340 on a card whose kind is `kind`. -/
def cardBad (kind : Nat) (c : BitVec 1024) : Bool :=
  cardKind c != kind || bits c 15 8 != 1 || cardReserved c || (4 ≤ kind && cardFp c != 0) || cardFp c % 128 != 0 ||
    (kind ≤ 2 && nestBad c)

/-- The counts of a copy, innermost first, its element size, and the strides of the source (even place) or destination. -/
def nestCounts (c : BitVec 1024) : List Nat := [bits c 415 384, bits c 447 416, bits c 479 448]
def nestSize (c : BitVec 1024) : Nat := 2 ^ bits c 482 480
def srcStrides (c : BitVec 1024) : List Int := [sval 64 (bits c 575 512), sval 64 (bits c 703 640), sval 64 (bits c 831 768)]
def dstStrides (c : BitVec 1024) : List Int := [sval 64 (bits c 639 576), sval 64 (bits c 767 704), sval 64 (bits c 895 832)]
def cardSrc (c : BitVec 1024) : Nat := bits c 311 256
def cardDst (c : BitVec 1024) : Nat := bits c 375 320

/-- The bounding byte range of a nest, before the modulus of its addresses: its base and length. -/
def nestRange (base : Nat) (counts : List Nat) (strides : List Int) (size : Nat) : Int × Nat :=
  let l := (counts.zip strides).map fun x => ((x.1 : Int) - 1) * x.2
  let lo := (l.map fun x => min 0 x).sum
  let hi := (l.map fun x => max 0 x).sum
  ((base : Int) + lo, (hi - lo).toNat + size)

/-- Fields of a selection card (R345). -/
structure Sel where
  src : Nat
  ty : Option ETy
  nelem : Nat
  mode : Nat
  cond : Nat
  wide : Bool
  k : Nat
  c : Nat
  hi : Nat
  m : Nat
  out : Nat
  cap : Nat
  ibase : Nat
def selOf (c : BitVec 1024) : Sel where
  src := bits c 311 256
  ty := ETy.ofCode (c.extractLsb' 312 5)
  nelem := bits c 360 320
  mode := bits c 386 384
  cond := bits c 390 387
  wide := c.getLsbD 391
  k := bits c 402 392
  c := bits c 479 448
  hi := bits c 511 480
  m := bits c 543 512
  out := bits c 631 576
  cap := bits c 671 640
  ibase := bits c 767 704
def Sel.rec_ (x : Sel) : Nat := if x.wide then 16 else 8
def Sel.size (x : Sel) : Nat := ((x.ty.getD .f32).width) / 8
/-- Records the output may take. -/
def Sel.room (x : Sel) : Nat := if x.mode = 0 then x.cap else x.k

def cardSeq (c : BitVec 1024) : Nat := bits c 311 256

/-! ## Footprints (R339, R344, R345, R409) -/

/-- The regions of a footprint record (R339); none where a reserved bit of one is set. -/
def footRegions (v : Nat) : Option (List Region) :=
  let l := (List.range 8).map fun e => field v (128 * e + 127) (128 * e)
  if l.any fun x => field x 63 56 != 0 then none
  else some (((l.zip (List.range 8)).map fun x => ⟨field x.1 55 0, field x.1 127 64, 4 ≤ x.2⟩).filter fun r => r.len != 0)

/-- The regions derived from PARAMS, or of a span card from its descriptor's bits (R409). -/
def derivedRegions (c : BitVec 1024) (seq : Option (BitVec 512)) : List Region :=
  match cardKind c with
  | 1 | 2 =>
    let d := nestRange (cardDst c) (nestCounts c) (dstStrides c) (nestSize c)
    let s := nestRange (cardSrc c) (nestCounts c) (srcStrides c) (nestSize c)
    (if cardKind c = 1 then [⟨wrapInt 56 s.1, s.2, false⟩] else []) ++ [⟨wrapInt 56 d.1, d.2, true⟩]
  | 3 =>
    let x := selOf c
    [⟨x.src, x.nelem * x.size, false⟩, ⟨x.out, x.room * x.rec_, true⟩]
  | _ =>
    let a := cardSeq c
    ⟨a, 64, true⟩ :: match seq with
      | none => []
      | some d => [⟨bits d 55 0, 16 * bits d 95 64, true⟩, ⟨bits d 247 192, 4 * bits d 335 320, true⟩]

/-- A byte range lies within some region; a write within a write region. -/
def inFoot (l : List Region) (write : Bool) (r : Int × Nat) : Bool :=
  l.any fun x => (x.write || !write) && (x.base : Int) ≤ r.1 && r.1 + r.2 ≤ (x.base + x.len : Nat)

/-- The die that runs a job: the home of its first write region, else the submitter's (R16). Where that region lies on both dies,
or its base is another module's or has no translation, the spec names none: the model takes the home of the base, else the
submitter's die. (log 65 DESIGN CHOICE) -/
def State.jobDie (s : State) (n die : Nat) (l : List Region) : Nat :=
  match (l.find? fun r => r.write).bind fun r => s.homeOf die n r.base with
  | some pa => servedBy pa
  | none => die

/-! ## Writes of the part's own engines -/

/-- Store pieces at their homes (R131). -/
def State.storeHome (s : State) (w : Who) : List Piece → List Byte → State
  | [], _ => s
  | .here pa k :: t, b => (s.storeEngine w pa (b.take k)).storeHome w t (b.drop k)
  | .away l va k :: t, b => (s.sendAway w l va (.write (b.take k)) (s.stampOut w)).storeHome w t (b.drop k)
def State.writeHome (s : State) (w : Who) (va : Nat) (b : List Byte) : State × Option XlStop :=
  match s.writable w .wr va b.length with
  | (s, .error e) => (s, some e)
  | (s, .ok ps) => (s.storeHome w ps b, none)

/-- The bytes of a completion record (R341). -/
def completionBytes (stamp : Word) (count aux : Nat) (handle : BitVec 32) (cause status state : Nat) : List Byte :=
  leBytes 8 (handle.toNat * 2 ^ 32 + cause * 2 ^ 16 + status * 2 ^ 8 + state) ++ leBytes 8 aux ++ leBytes 8 count ++
    leBytes 8 stamp.toNat
/-- Write a completion record at an address of a context, bytes 8 to 31 first and the rest as a release at module scope (R341, R132);
an address of 0 asks for none. (log 34 DEDUCED) -/
def State.writeCompletion (s : State) (w : Who) (crec : Nat) (b : List Byte) : State × Option XlStop :=
  if crec = 0 then (s, none)
  else
    match s.writeHome w (crec + 8) (b.drop 8) with
    | (s, some e) => (s, some e)
    | (s, none) => s.writeHome { w with rel := some .module } crec (b.take 8)

/-! ## The end of a job (R341, R342) -/

/-- How a job ends. -/
inductive JobEnd where
  | completed (status count aux : Nat)
  | faulted (f : FaultInfo) (count : Nat)
  | cancelled
  /-- not run: its context is invalid or its descriptor breaks R2 (R390) -/
  | barred (c : Cause)

/-- For whom a job's engine reads and writes: the J strand that submitted it where the job runs on that strand's die and its task
still stands on the core, else the die's Pilot. (log 33 DESIGN CHOICE) -/
def State.jobWho (s : State) (j : Job) : Who :=
  let mine := j.core.filter fun c => j.node.isNone && dieOf c == j.die &&
    (s.task c).any fun t => t.ctx == some j.ctx && t.jobs.contains j.handle.toNat
  { s.pilotLook j.die j.ctx with agent := some (match mine with
      | some c => .strand c .j
      | none => .pilot j.die) }

def State.setJob (s : State) (j : Job) : State := { s with jobs := s.jobs.map fun x => if x.seq == j.seq then j else x }

/-- The fault record of a job: kernel class, since no task is stopped (R342, R437). -/
def jobRecord (j : Job) (asid : BitVec 16) (f : FaultInfo) : RecordOut :=
  { ctx := some j.ctx, die := j.die, info := { f with origin := 6, strand := none, pc := 0, handle := j.handle }, cls := 1
    esc := f.cause.isUser, asid := asid }

/-- The completion record of a job's end, and what JSTAT shows (R341, R348). (log 69 DESIGN CHOICE) -/
def Job.endBytes (j : Job) (now : Word) (e : JobEnd) : List Byte × Nat :=
  let (cause, status, state, count, aux, code) : Nat × Nat × Nat × Nat × Nat × Nat := match e with
    | .completed st n a => (0, st, 2, n, a, if st = 0 then 2 else 3)
    | .faulted f n => (f.cause.code, 0, 3, n, 0, 4)
    | .cancelled => (0, 0, 4, 0, 0, 5)
    | .barred c => (c.code, 0, 3, 0, 0, 4)
  (completionBytes now count aux j.handle cause status state, code)
/-- The completion record of a job cannot be written yet: its page refuses (R433). -/
def State.recordRefused (s : State) (j : Job) : Bool :=
  match (s.writeCompletion (s.jobWho j) (cardCrec j.card) (List.replicate 32 0)).2 with
  | some (.refused _) => true
  | _ => false

/-- A job ends: its record, its event, and what JSTAT shows. A fault of the completion record's own write makes the job a
faulted one with no record. (log 33 DESIGN CHOICE) -/
def State.endJob (s : State) (j : Job) (e : JobEnd) : State :=
  let w := s.jobWho j
  let (b, code) := j.endBytes (s.now j.die) e
  let s := match e with
    | .faulted f _ => { s with records := s.records ++ [jobRecord j w.asid f] }
    | _ => s
  let (s, x) := s.writeCompletion w (cardCrec j.card) b
  let (s, code) := match x with
    | none => (s, code)
    | some y => ({ s with records := s.records ++ [jobRecord j w.asid y.info] }, 4)
  let s := if j.card.getLsbD 40 then s.setEvents j.ctx (2 ^ bits j.card 39 32) else s
  s.setJob { j with code := code }

/-- Change every task of a context, running or saved. -/
def State.mapContext (s : State) (n : Nat) (f : Task → Task) : State :=
  let g (t : Task) : Task := if t.ctx == some n then f t else t
  { s with
    cores := s.cores.map fun x => (x.1, { x.2 with task := x.2.task.map g })
    images := s.images.map fun x => { x with task := g x.task } }
/-- What a job has written since a state is visible at module scope when it ends (R131), and the signals that wait for it stand for
that; it is none of the writes of the word its strand stands at. -/
def State.jobShown (s old : State) (j : Job) : State :=
  let a := (old.jobWho j).agent
  let ids := s.wroteSince old.order.next a
  (((s.wroteAs old a).show 0 ids).show 1 ids).mapContext j.ctx fun t => t.addIds (.job j.handle.toNat) ids

/-! ## Submission (R340) -/

/-- Jobs of a context, or at a die, that have not ended. -/
def State.jobsOut (s : State) (n : Nat) : Nat := (s.jobs.filter fun j => j.ctx == n && j.code == 0).length
def State.intake (s : State) (die : Nat) : Nat := (s.jobs.filter fun j => j.die == die && j.code == 0).length

/-- Handles count up from 1 and skip 0. -/
def nextHandle (h : Nat) : Nat := if 2 ^ 32 ≤ h + 1 then 1 else h + 1

/-- Forget the ended jobs of a context beyond the 4,096 latest, but for those whose strand may still ask of them all
(R348). -/
def State.trimJobs (s : State) (n : Nat) : State :=
  let mine := s.jobs.filter fun j => j.ctx == n && j.node.isNone
  let kept := ((s.cores.filterMap fun x => x.2.task) ++ s.images.map (·.task)).flatMap fun t =>
    if t.ctx == some n then t.jobs else []
  let old := (mine.take (mine.length - 4096)).filter fun j => j.code != 0 && !kept.contains j.handle.toNat
  { s with jobs := s.jobs.filter fun j => !old.contains j }

def State.addJob (s : State) (j : Job) : State :=
  { s with jobs := s.jobs ++ [{ j with seq := s.jobSeq }], jobSeq := s.jobSeq + 1 }

/-- A J word: its address registers are read through the snapshot. -/
def State.runJ (s : State) (body : Env → State → Nat → Task → Nat → Eff) : Host.Outcome State Fault Refusal :=
  s.runWord true fun env s =>
    let c := s.cur.core
    match s.task c with
    | none => .wait s
    | some t =>
      match t.ctx with
      | none => .wait s
      | some n => body env s c t n

def cardAddr (r : SMap Word) (a : SReg) (imm : BitVec 32) : Nat := (sget r a + imm.signExtend 64).toNat % 2 ^ 56

/-- Write an 8-byte result at s[SD], where SD is not 0; then go on. -/
def State.accept (s : State) (c : Nat) (t : Task) (env : Env) (sd : SReg) (v : Nat) (next : State → Eff) : Eff :=
  if sd = 0 then next s
  else
    match s.writeRun (t.whoAs c .j) .wr (regAddr env.s sd) (leBytes 8 v) with
    | (s, some e) => Eff.ofStop s e
    | (s, none) => next s
/-- A rejected submission applies no signal. (log 34 DEDUCED) -/
def State.reject (s : State) (c : Nat) (t : Task) (env : Env) (sd : SReg) (status : Nat) : Eff :=
  s.accept c t env sd status fun s => .done s.muted

/-- Read a card's footprint record, if it names one. -/
def State.readFoot (s : State) (w : Who) (card : BitVec 1024) :
    State × Except XlStop (Except FaultInfo (Option (List Region))) :=
  if cardFp card = 0 || cardFp card % 128 != 0 then (s, .ok (.ok none))
  else
    match s.readNat w (cardFp card) 128 with
    | (s, .error e) => (s, .error e)
    | (s, .ok v) =>
      match footRegions v with
      | none => (s, .ok (.error { cause := .reservedField, addr := BitVec.ofNat 56 (cardFp card) }))
      | some l => (s, .ok (.ok (some l)))

/-- Why the Pilot treats a context as invalid: a reserved bit of its descriptor (R2), or a case of R390, which has no cause. -/
def State.badCtx (s : State) (n : Nat) : Option Cause :=
  if s.ctxBroken n then some .reservedField else if s.ctxValid n then none else some .none

/-- Submit a card that has been read. Where the intake is full and the quota is exceeded R340 names neither status first: the model
gives 1. (log 79 DESIGN CHOICE) A submission of a context that is invalid is refused, which its completion record shows:
the spec gives it no status, and the model accepts it and ends it at once. (log 34 DEDUCED, 69 DESIGN CHOICE) -/
def State.submitCard (s : State) (c : Nat) (t : Task) (n kind a : Nat) (env : Env) (sd : SReg) (card : BitVec 1024)
    (foot : Option (List Region)) : Eff :=
  let regions := foot.getD (derivedRegions card none)
  let die := s.jobDie n (dieOf c) regions
  if 1024 ≤ s.intake die then s.reject c t env sd 1
  else if (s.ctx n).jquota ≤ s.jobsOut n then s.reject c t env sd 2
  else
    let h := nextHandle (SMap.look 0 s.jobHandle n)
    s.accept c t env sd (h * 2 ^ 32) fun s =>
      if cardBad kind card then .fault s { cause := .descriptorInvalid, addr := BitVec.ofNat 56 a }
      else
        let j : Job := { ctx := n, handle := BitVec.ofNat 32 h, card := card, foot := foot, die := die, core := some c, seq := s.jobSeq }
        let s := s.addJob j
        let s := match s.badCtx n with
          | some x => (s.endJob j (.barred x)).jobShown s j
          | none => s
        let s := { s with jobHandle := SMap.put 0 s.jobHandle n h }.trimJobs n
        .pend (s.modTask c fun t => { t with jobs := t.jobs ++ [h] }) [.job h]

/-- What happens before a J word's submission is at its home and visible at module scope before what is submitted reads (R131). -/
def State.beforeJob (s : State) (c : Nat) : State :=
  let a : Agent := .strand c .j
  let ids := s.happened a .module
  let s := (s.drain ids).showIn a .module ids
  [Agent.pilot 0, .pilot 1].foldl (fun s p => s.floor p fun x => ids.contains x.id) s

/-- JCOPY to JTAG: the card and its footprint record are read as one acquire at module scope, ordered after every write that
happens before the word (R131, R340). -/
def State.submit (s : State) (kind : Nat) (o : JsubOp) : Host.Outcome State Fault Refusal :=
  s.runJ fun env s c t n =>
    let a := cardAddr env.s o.scard o.imm
    if a % 128 != 0 then s.reject c t env o.sd 3
    else
      match (s.beforeJob c).readNat (t.whoAs c .j) a 128 with
      | (s, .error e) => Eff.ofStop s e
      | (s, .ok v) =>
        let s := s.acquire (.strand c .j) .module
        let card : BitVec 1024 := BitVec.ofNat 1024 v
        if cardCrec card % 32 != 0 then s.reject c t env o.sd 3
        else
          match (if cardBad kind card then (s, .ok (.ok none)) else s.readFoot (t.whoAs c .j) card) with
          | (s, .error e) => Eff.ofStop s e
          | (s, .ok (.error f)) => .fault s f
          | (s, .ok (.ok foot)) => (s.acquire (.strand c .j) .module).submitCard c t n kind a env o.sd card foot

def execSyncJ (s : State) : Host.Outcome State Fault Refusal := s.runWord false fun _ s => .done s
def execJcopy (o : JsubOp) (s : State) : Host.Outcome State Fault Refusal := s.submit 1 o
def execJfill (o : JsubOp) (s : State) : Host.Outcome State Fault Refusal := s.submit 2 o
def execJsel (o : JsubOp) (s : State) : Host.Outcome State Fault Refusal := s.submit 3 o
def execJpage (o : JsubOp) (s : State) : Host.Outcome State Fault Refusal := s.submit 4 o
def execJspan (o : JsubOp) (s : State) : Host.Outcome State Fault Refusal := s.submit 5 o
def execJcommit (o : JsubOp) (s : State) : Host.Outcome State Fault Refusal := s.submit 6 o
def execJtag (o : JsubOp) (s : State) : Host.Outcome State Fault Refusal := s.submit 7 o

/-! ## JNODE (R347, R400) -/

def ringSize (q : Queue) : Nat := 2 ^ (bits q.qcfg 27 24 + 4)
/-- The address of the slot that a count takes (R398). -/
def ringSlot (q : Queue) (i : BitVec 32) : Nat := bits q.qring 55 0 + 128 * (i.toNat % ringSize q)

/-- JNODE. Where several of its statuses hold R347 names none first: the model tests 3, then 2, then 1. (log 34 DEDUCED,
80 DESIGN CHOICE) -/
def execJnode (o : JnodeOp) (s : State) : Host.Outcome State Fault Refusal :=
  s.runJ fun env s c t n =>
    let a := cardAddr env.s o.scard o.imm
    let q := (sget env.s o.sa).toNat
    if 256 ≤ q then .fault s { cause := .reservedField }
    else if a % 128 != 0 then s.reject c t env o.sd 3
    else if !s.ownsQueue n q then s.reject c t env o.sd 2
    else if (s.queue q).wptr - (s.queue q).rptr = BitVec.ofNat 32 (ringSize (s.queue q)) then s.reject c t env o.sd 1
    else
      match s.readRun (t.whoAs c .j) .rd a 128 with
      | (s, .error e) => Eff.ofStop s e
      | (s, .ok b) =>
        let s := s.acquire (.strand c .j) .module
        let x := s.queue q
        match s.writeHome (t.whoMap c .j) (ringSlot x x.wptr) b with
        | (s, some e) => Eff.ofStop s e
        | (s, none) =>
          s.accept c t env o.sd (x.wptr.toNat * 2 ^ 32) fun s =>
            let s := s.releaseNow (.strand c .j) .module
            let x := s.queue q
            .done (s.setQueue q { x with wptr := x.wptr + 1 })

/-! ## JWAIT, JSTAT, JCANCEL (R348, R349) -/

/-- The handle operand; none when a bit above it is 1. -/
def handleOperand (v : Word) : Option (BitVec 32) := if bits v 63 32 != 0 then none else some (v.setWidth 32)
/-- A job of a context by its handle, as long as the part keeps it. -/
def State.keptJob (s : State) (n : Nat) (h : BitVec 32) : Option Job :=
  s.jobs.find? fun j => j.ctx == n && j.handle == h && j.node.isNone
/-- How a job of one of the context's strands stands; one no longer kept has completed. -/
def State.jobFate (s : State) (n : Nat) (h : BitVec 32) : Nat := ((s.keptJob n h).map (·.code)).getD 2
/-- Whether a handle is one of the context's 4,096 latest (R340). -/
def State.recent (s : State) (n : Nat) (h : BitVec 32) : Bool :=
  let last := SMap.look 0 s.jobHandle n
  (if h.toNat ≤ last then last - h.toNat else last + (2 ^ 32 - 1) - h.toNat) < 4096
/-- A job that the part knows by its handle (R340). -/
def State.jobOf (s : State) (n : Nat) (h : BitVec 32) : Option Job :=
  if s.recent n h then s.keptJob n h else none
/-- What JSTAT shows. -/
def State.jobCode (s : State) (n : Nat) (h : BitVec 32) : Nat := ((s.jobOf n h).map (·.code)).getD 6

/-- A J word that waits: its `issue` signal is applied as it begins to (R350). -/
def State.waitJ (s : State) (c : Nat) (env : Env) : Eff :=
  if (s.task c).any fun t => (t.strand .j).phase == .issued then .wait s
  else .wait ((s.modTask c fun t => t.setStrand .j { t.strand .j with phase := .issued }).arriveSignal c env.eng env.pc)
/-- Its wait is over: what it reads is an acquire at module scope (R348), and a signal that has been applied is not again. -/
def State.waitedJ (s : State) (c : Nat) : State :=
  let s := s.acquireNow (.strand c .j) .module
  if (s.task c).any fun t => (t.strand .j).phase == .issued then s.dropIssueSignal else s

/-- A J word that reports on a handle. -/
def State.report (s : State) (o : JhOp) (f : State → Nat → BitVec 32 → Option (State × Nat)) :
    Host.Outcome State Fault Refusal :=
  s.runJ fun env s c t n =>
    match handleOperand (sget env.s o.sa), o.sd == 0 with
    | some h, false =>
      match f s n h with
      | none => s.waitJ c env
      | some (s1, v) => Eff.whole s ((s1.waitedJ c).accept c t env o.sd v fun s => .done s)
    | _, _ => .fault s { cause := .reservedField }

def execJwait (o : JhOp) (s : State) : Host.Outcome State Fault Refusal :=
  s.report o fun s n h => if 2 ≤ s.jobCode n h then some (s, s.jobCode n h) else none
def execJstat (o : JhOp) (s : State) : Host.Outcome State Fault Refusal :=
  s.report o fun s n h => some (s, s.jobCode n h)

/-- JWAIT.all, which names no handle: 2, or the first job in issue order that did not complete with STATUS 0.
(log 13 DEDUCED) -/
def execJwaitAll (o : JhOp) (s : State) : Host.Outcome State Fault Refusal :=
  s.runJ fun env s c t n =>
    if o.sd = 0 then .fault s { cause := .reservedField }
    else
      let l := t.jobs.map fun h => (h, s.jobFate n (BitVec.ofNat 32 h))
      if l.any fun x => x.2 < 2 then s.waitJ c env
      else
        let v := match l.find? fun x => x.2 != 2 with
          | none => 2
          | some x => x.2 + x.1 * 2 ^ 32
        (s.waitedJ c).accept c t env o.sd v fun s => .done s

/-- JCANCEL: it waits where the job's completion record cannot be written yet (R349, R433). -/
def execJcancel (o : JhOp) (s : State) : Host.Outcome State Fault Refusal :=
  s.report o fun s n h =>
    match s.jobOf n h with
    | none => some (s, 2)
    | some j =>
      if j.code != 0 then some (s, 1)
      else if s.recordRefused j then none else some ((s.endJob j .cancelled).jobShown s j, 0)

end Sys2Proof.Machine
end

