-- ==== Sys2Proof/Machine/Control.lean ====
section
/-! DEFINITION. The X words: branches, calls, loops, FORK, RDV, EXIT, WINSET and FRET (02, R25, R28; 08, R197 to R202;
22, R448). Every strand obeys each of them at its own place. -/

namespace Sys2Proof.Machine

/-- OFF as a byte distance: a signed count of words (R197). -/
def offBytes (off : BitVec 32) : Va := off.signExtend 56 * 16

/-- A strand takes a branch: the loops it leaves are popped, the path count goes up by one (R198, R199). (log 15 DEDUCED) -/
def Strand.branchTo (x : Strand) (target : Va) : Strand :=
  { x with pc := target, loops := leaveLoops x.depth target x.loops, path := x.path + 1 }
/-- A call pops nothing and goes one deeper (R199). -/
def Strand.callTo (x : Strand) (target : Va) : Strand :=
  { x with pc := target, depth := x.depth + 1, path := x.path + 1 }

/-- SYNC.x (R200). -/
def execSyncX (s : State) : Host.Outcome State Fault Refusal :=
  s.runX false true (fun _ _ => some (false, 0)) fun _ _ _ _ s => .fall s

def execBr (o : BitVec 32) (s : State) : Host.Outcome State Fault Refusal :=
  s.runX false false (fun _ _ => some (true, 0)) fun _ _ _ x s => .go s (x.branchTo (x.pc + offBytes o))

def execBrc (o : BrcOp) (s : State) : Host.Outcome State Fault Refusal :=
  s.runX true false (fun env _ => some (condHolds o.cond (sget env.s o.a) (sget env.s o.b), 0)) fun b _ _ x s =>
    if b then .go s (x.branchTo (x.pc + offBytes o.off)) else .fall s

/-- The predicate conditions over the lane view (R173, R198). -/
def pcondHolds (k : PCond) (w32 : Bool) (p : BitVec 128) : Bool :=
  let l := (List.range 128).filter fun i => !w32 || i % 2 = 0
  match k with
  | .any => l.any p.getLsbD
  | .all => l.all p.getLsbD
  | .none => !l.any p.getLsbD

/-- BRP (R198): the S strand evaluates it once the V strand has reached the word, with every earlier V word complete. -/
def execBrp (o : BrpOp) (s : State) : Host.Outcome State Fault Refusal :=
  s.runX true false
    (fun env t =>
      let x := t.strand .s
      let v := t.strand .v
      if !t.kernel && before v.epoch v.path x.epoch x.path then none
      else some (pcondHolds o.cond o.w32 (t.pphys (physP env.prb o.p)), 0))
    fun b _ _ x s => if b then .go s (x.branchTo (x.pc + offBytes o.off)) else .fall s

/-- The link register is written by the S strand alone (R195). -/
def State.linkReg (s : State) (e : Eng) (d : SReg) (pc : Va) : State :=
  if e = .s then s.modTask s.cur.core fun t => t.sset d ((pc + 16).setWidth 64) else s

/-- CALL (R198); CALL_DEPTH at call depth 65,535 (R456). -/
def execCall (o : BitVec 32) (s : State) : Host.Outcome State Fault Refusal :=
  s.runX false false (fun _ _ => some (true, 0)) fun _ _ env x s =>
    if x.depth = 65535 then .fault s { cause := .callDepth }
    else .go (s.linkReg env.eng 62 x.pc) (x.callTo (x.pc + offBytes o))

/-- RET (R198): the entries of the present depth are discarded, then the branch rule of R199 applies at the caller's.
(log 15 DEDUCED) -/
def execRet (s : State) : Host.Outcome State Fault Refusal :=
  s.runX true false (fun env _ => some (true, (sget env.s 62).setWidth 56)) fun _ target _ x s =>
    if target.toNat % 16 != 0 then .fault s { cause := .pcAlign }
    else
      let y := { x with loops := x.loops.filter fun l => l.depth != x.depth, depth := x.depth - 1 }
      .go s (y.branchTo target)

/-- BRX (R198). (log 15 DEDUCED) -/
def execBrx (o : BrxOp) (s : State) : Host.Outcome State Fault Refusal :=
  s.runX true false (fun env _ => some (true, (sget env.s o.a + o.off.signExtend 64 * 16).setWidth 56))
    fun _ target env x s =>
      if target.toNat % 16 != 0 then .fault s { cause := .pcAlign }
      else if o.link = 0 then .go s (x.branchTo target)
      else if x.depth = 65535 then .fault s { cause := .callDepth }
      else .go (s.linkReg env.eng o.link x.pc) (x.callTo target)

/-- Whether a new entry ending at `last` may be pushed (R199). -/
def Strand.loopFits (x : Strand) (last : Va) : Bool :=
  x.loops.length < 4 &&
    match x.loops.find? fun l => l.depth == x.depth with
    | none => true
    | some l => last ≤ l.last

/-- LOOP (R199). With no trips it only sets the pc: it is none of the words whose taken branch pops entries. -/
def execLoop (o : LoopOp) (s : State) : Host.Outcome State Fault Refusal :=
  s.runX true false (fun _ _ => some (true, 0)) fun _ _ env x s =>
    let n := sget env.s o.a
    let last : Va := x.pc + 16 * o.len.setWidth 56
    if n = 0 then .go s { x with pc := last + 16, path := x.path + 1 }
    else if !x.loopFits last then .fault s { cause := .loopNest }
    else .go s { x with pc := x.pc + 16, path := x.path + 1,
                        loops := ⟨x.pc + 16, last, n.toNat, x.depth, none⟩ :: x.loops }

/-- LOOPM (R28 to R30): it takes an entry, and its first pass begins; with no trips the strands continue after the body. -/
def execLoopm (o : LoopmOp) (s : State) : Host.Outcome State Fault Refusal :=
  s.runX true false (fun _ _ => some (true, 0)) fun _ _ env x s =>
    let n := sget env.s o.cnt
    let last : Va := x.pc + 16 * o.len.setWidth 56
    if n = 0 then .go s { x with pc := last + 16, path := x.path + 1 }
    else if !x.loopFits last then .fault s { cause := .loopNest }
    else
      let m : LoopM := ⟨o.len.toNat, o.stg.toNat, n.toNat, 0, o.vstep.toNat, o.pstep.toNat, o.gp.toNat⟩
      let s := if env.eng = .v then s.modTask s.cur.core fun t => t.writeGuard m else s
      .go s { x with pc := x.pc + 16, path := x.path + 1,
                     loops := ⟨x.pc + 16, last, n.toNat, x.depth, some m⟩ :: x.loops }

/-- FORK (R25, R200): no strand passes it until all have reached it. -/
def execFork (o : BitVec 32) (s : State) : Host.Outcome State Fault Refusal :=
  s.runX false false (fun _ _ => some (true, 0)) fun _ _ _ x s =>
    match s.task s.cur.core with
    | none => .wait s
    | some t =>
      if t.allReached x then
        .go s { x with pc := x.pc + offBytes o, loops := [], depth := 0, path := 0, epoch := x.epoch + 1 }
      else .wait s

/-- RDV (R25). -/
def execRdv (s : State) : Host.Outcome State Fault Refusal :=
  s.runX false false (fun _ _ => some (true, 0)) fun _ _ _ x s =>
    match s.task s.cur.core with
    | none => .wait s
    | some t => if t.allReached x then .fall s else .wait s

/-- A write of WIN (R26, R201): the field's bits, clamped to 16 to 4,096. -/
def winClamp (v : Word) : BitVec 13 := BitVec.ofNat 13 (max 16 (min 4096 (v.toNat % 2 ^ 13)))

/-- WINSET (R201): it takes hold as the first strand obeys it, which is the S strand by R23. -/
def execWinset (o : WinsetOp) (s : State) : Host.Outcome State Fault Refusal :=
  s.runX true false (fun _ _ => some (true, 0)) fun _ _ env _ s =>
    let v := sget env.s o.a + o.off.signExtend 64
    .fall (if env.eng = .s then s.modTask s.cur.core fun t => { t with win := winClamp v } else s)

/-- EXIT (R25): it ends each strand as that strand obeys it; the F strand first takes a recorded failure (R320). -/
def execExit (s : State) : Host.Outcome State Fault Refusal :=
  s.runX false false (fun _ _ => some (true, 0)) fun _ _ env x s =>
    match env.eng, (s.task s.cur.core).bind fun t => t.takeDeferred x.pc with
    | .f, some (f, t) => .fault (s.setTask s.cur.core t) f
    | _, _ => .go s { x with path := x.path + 1, ended := true }

/-- FRET for the task as a whole (R448): its six steps, or the cause it faults with. -/
def State.fretTask (s : State) (c : Nat) (e : Eng) (x : Strand) (t : Task) (k : Ctrl) :
    Host.Outcome State Fault Refusal :=
  if !(t.allReached x && s.handlerDone c t k) then .next (s.stay c e)
  else
    match s.leaveHandler c t k with
    | (_, .error (.hole pa)) => .fault (.physicalHole pa)
    | (s, .error y) => .next (s.takeFault c e { cause := .uframeFault, addr := y.info.addr })
    | (s, .ok (.error k)) => .next (s.takeFault c e { cause := k })
    | (s, .ok (.ok t)) =>
      let s := s.setTask c t
      let s := match s.cur.clauses.sig with
        | some g => s.ownSignal c e x.pc g []
        | none => s
      match (s.task c).bind fun t => t.takeDeferred x.pc with
      | some (f, t) => .next ((s.setTask c t).takeFault c .f f)
      | none => .next s

/-- FRET (R202, R448): it takes effect once all strands have reached it. -/
def execFret (s : State) : Host.Outcome State Fault Refusal :=
  let c := s.cur.core
  let e := s.cur.eng
  match (s.task c).map fun t => !(s.heldBack t e) && (t.strand e).inLoopm.isSome with
  | some true => .next (if (s.task c).any (·.parkedOwn e) then s else s.takeFault c e { cause := .illegalOpcode })
  | _ =>
    match s.gate false with
    | .over s => .next s
    | .go s t x _ _ =>
      match t.saved with
      | none => .next (if t.parkedOwn e then s.stay c e else s.takeFault c e { cause := .noUserFault })
      | some k => s.fretTask c e x t k

end Sys2Proof.Machine
end

