-- ==== Sys2Proof/Machine/System.lean ====
section
/-! DEFINITION. Control registers, time, traps (08, R223 to R226) and the privileged words (19, R385 to R396; 22, R442). -/

namespace Sys2Proof.Machine

/-! ## Control registers (R223, R224, R61, R285, R445) -/

/-- The V and M words before a position have completed (R61): their strands have reached it and no M word is parked. -/
def Task.caughtUp (t : Task) (l : List Eng) : Bool :=
  let x := t.strand .s
  t.kernel || l.all fun e =>
    let y := t.strand e
    (y.ended || !(before y.epoch y.path x.epoch x.path)) && !(e == .m && t.parkedBefore x.epoch x.path)

/-- The strands whose earlier words a read waits for. -/
def csrWaits (r : Csr) : List Eng :=
  match r with
  | .fpstat | .lseed => [.v, .m]
  | .mstat => [.m]
  | _ => []

def execCsrr (o : CsrrOp) (s : State) : Host.Outcome State Fault Refusal :=
  s.runWord false fun _ s =>
    let c := s.cur.core
    match s.task c with
    | none => .wait s
    | some t =>
      if t.caughtUp (csrWaits o.csr) then .done (s.setTask c (t.sset o.d (s.csrVal c t o.csr))) else .wait s

/-- DOMAIN: GRID and DCOUNT alone take the write, DCOUNT at most 6,144 (R38). -/
def writeDomain (old v : Word) : Word :=
  BitVec.ofNat 64 (min 6144 (bits v 63 51) * 2 ^ 51 + bits old 50 36 * 2 ^ 36 + bits v 31 0)
/-- UFENTRY: EN and FRAME (R445). -/
def writeUfentry (old v : Word) : Word := (old &&& 0x4000000000000000) ||| (v &&& 0x80fffffffffffe00)

/-- The control writes that a CSRW hands to the V and M strands (R61, R285). -/
def handOn (r : Csr) (v : Word) : List CtlWrite :=
  match r with
  | .fpstat => [⟨.v, .fpstat, v⟩]
  | .lseed =>
    let w := lfsrFix (v.extractLsb' 32 32) ++ lfsrFix (v.extractLsb' 0 32)
    [⟨.v, .lseed, w⟩, ⟨.m, .lseed, w⟩]
  | .mstat => [⟨.m, .mstat, v⟩]
  | _ => []

/-- What a CSRW does at once, by the Access codes of R3. -/
def Task.csrw (t : Task) (r : Csr) (v : Word) : Task :=
  match r with
  | .fpctl => { t with fpctl := writeFpctl v }
  | .rrb => { t with rrb := BitVec.ofNat 10 (v.toNat % 1024 % 640) }
  | .prb => { t with prb := v.setWidth 5 }
  | .win => { t with win := winClamp v }
  | .domain => { t with domain := writeDomain t.domain v }
  | .ufentry => { t with ufentry := writeUfentry t.ufentry v }
  | _ => t

/-- CSRW: the registers that V and M words change are written as those strands pass the word. -/
def execCsrw (o : CsrwOp) (s : State) : Host.Outcome State Fault Refusal :=
  s.runWord false fun env s =>
    let v := sget env.s o.a
    .done (s.modTask s.cur.core fun t =>
      let l := handOn o.csr v
      let t := if l.isEmpty then t else if t.kernel then l.foldl Task.applyCtl t else t.addDeposit { t.snapshot with ctl := l }
      t.csrw o.csr v)

/-- CHRON (R225): earlier S words complete as they issue in this model. -/
def execChron (o : SReg) (s : State) : Host.Outcome State Fault Refusal :=
  s.runWord false fun _ s => .done (s.modTask s.cur.core fun t => t.sset o (s.now (dieOf s.cur.core)))

/-- TRAP (R226): once delivered, it restarts after the word. -/
def execTrap (o : BitVec 16) (s : State) : Host.Outcome State Fault Refusal :=
  s.runWord false fun _ s => .fault s { cause := .userTrap, info := o.setWidth 64, after := true }
/-- BRK (R226): it restarts at the word. -/
def execBrk (o : BitVec 16) (s : State) : Host.Outcome State Fault Refusal :=
  s.runWord false fun _ s => .fault s { cause := .breakpoint, info := o.setWidth 64 }

/-! ## Privileged registers (R385 to R388) -/

/-- The partition and register that a number names (R385). -/
def privReg (n : Nat) : Option (Option (Nat × Nat)) :=
  if n = 0x100 then some none
  else if 0x200 ≤ n && n < 0x220 then some (some ((n - 0x200) / 4, (n - 0x200) % 4)) else none

def PartRegs.reg (p : PartRegs) (k : Nat) : Word :=
  match k with
  | 0 => p.pclu | 1 => p.pstk | 2 => p.pque | _ => p.pfab

/-- A partition register as a write leaves it (R386, R388). -/
def PartRegs.put (p : PartRegs) (k : Nat) (v : Word) : PartRegs :=
  match k with
  | 0 => { p with pclu := v &&& 0xffffffffffff }
  | 1 => { p with pstk := v &&& 0xfff }
  | 2 => { p with pque := BitVec.ofNat 64 (min 256 (bits v 16 8) * 2 ^ 8 + bits v 7 0) }
  | _ =>
    { p with pfab := BitVec.ofNat 64 ((v.getLsbD 63).toNat * 2 ^ 63 + max 256 (bits v 55 32) * 2 ^ 32 +
        max 1 (bits v 31 24) * 2 ^ 24 + bits v 16 0) }

/-- Two partitions share a cluster, stack or queue (R388). -/
def partsMeet (p q : PartRegs) : Bool :=
  p.pclu &&& q.pclu != 0 || p.pstk &&& q.pstk != 0 ||
    (List.range 256).any fun k => partHasQueue p k && partHasQueue q k
def State.partClash (s : State) (i : Nat) (p : PartRegs) : Bool :=
  partValid p && (List.range 8).any fun j => j != i && partValid (s.part j) && partsMeet p (s.part j)

/-- CSRRP (R392). -/
def execCsrrp (o : R2) (s : State) : Host.Outcome State Fault Refusal :=
  s.runWord false fun env s =>
    match privReg (sget env.s o.a).toNat with
    | none => .fault s { cause := .reservedField }
    | some r =>
      let v := match r with
        | none => s.ctxtab
        | some (p, k) => PartRegs.reg (s.part p) k
      .done (s.modTask s.cur.core fun t => t.sset o.d v)

/-- Teams that stand on clusters their partition no longer holds are asked to stop (R388, R421). -/
def State.leaveClusters (s : State) (i : Nat) : State :=
  (s.teams.filter fun t => (s.ctx t.ctx).part == i && !(s.part i).pclu.getLsbD (clusterOf t.base) &&
    t.st == .running).foldl State.askGang s

/-- CSRWP (R392): status 1 when R388 refuses the write. -/
def execCsrwp (o : R3) (s : State) : Host.Outcome State Fault Refusal :=
  s.runWord false fun env s =>
    let c := s.cur.core
    let v := sget env.s o.b
    match privReg (sget env.s o.a).toNat with
    | none => .fault s { cause := .reservedField }
    | some none => .done ({ s with ctxtab := v &&& 0xffffffff80000 }.modTask c fun t => t.sset o.d 0)
    | some (some (i, k)) =>
      let p := PartRegs.put (s.part i) k v
      if s.partClash i p then .done (s.modTask c fun t => t.sset o.d 1)
      else
        let s := { s with parts := SMap.put partReset s.parts i p }
        .done ((if k = 0 then s.leaveClusters i else s).modTask c fun t => t.sset o.d 0)

/-! ## RESUME and KILLTASK (R392 to R394, R442) -/

/-- The task operand: context and image; none when a bit outside them is 1. -/
def taskOperand (v : Word) : Option (Nat × Nat) :=
  if bits v 15 12 != 0 || bits v 63 48 != 0 then none else some (bits v 11 0, bits v 47 16)

/-- Generators halted by a fault go on at their faulting element (R442). -/
def Task.restartGens (t : Task) : Task :=
  { t with gens := t.gens.map fun g => (g.1, if g.2.mode = .halted then { g.2 with mode := .running } else g.2) }

/-- RESUME of an image: the state after it and the status. (log 24 DEDUCED) -/
def State.resumeImage (s : State) (n i : Nat) : State × Nat :=
  if !s.ctxValid n then (s, 1)
  else
    match s.coreOfImage n i with
    | some c =>
      match s.task c with
      | some t =>
        if t.gens.any fun g => g.2.mode == .halted then (s.setTask c t.restartGens, 0) else (s, 2)
      | none => (s, 2)
    | none =>
      match (s.savedImage n i).bind fun m => s.teamOf m.task with
      | none => (s, 2)
      | some tm =>
        if tm.st = .faulted then
          (((s.gang tm).foldl (fun s g => s.setTeam { g with st := if g.st = .faulted then .saved else g.st }) s).retimeNode
            tm.node, 0)
        else (s, 2)

/-- (log 24 DEDUCED) -/
def execResume (o : R2) (s : State) : Host.Outcome State Fault Refusal :=
  s.runWord false fun env s =>
    match taskOperand (sget env.s o.a) with
    | none => .fault s { cause := .reservedField }
    | some (n, i) =>
      if s.ctxBroken n then .fault s { cause := .reservedField } else
      let (s, st) := s.resumeImage n i
      .done (s.modTask s.cur.core fun t => t.sset o.d (BitVec.ofNat 64 st))

/-- The team of an image, running or saved. (log 24 DEDUCED) -/
def State.imageTeam (s : State) (n i : Nat) : Option Team :=
  s.teams.find? fun t => t.ctx == n && t.images.contains i && t.size != 0

/-- KILLTASK: it waits until the accesses that the team issued are performed (R134). -/
def execKilltask (o : R2) (s : State) : Host.Outcome State Fault Refusal :=
  s.runWord false fun env s =>
    let give (s : State) (v : Word) : Eff := .done (s.modTask s.cur.core fun t => t.sset o.d v)
    match taskOperand (sget env.s o.a) with
    | none => .fault s { cause := .reservedField }
    | some (n, i) =>
      if s.ctxBroken n then .fault s { cause := .reservedField }
      else if !s.ctxValid n then give s 1
      else
        match s.imageTeam n i with
        | none => give s 2
        | some tm => if s.gangDrained [tm] then give (s.killTeam tm .none) 0 else .wait s

/-! ## HARVEST and TLBINV (R395, R396) -/

/-- One page: its registrations are recalled, its grants tested and cleared. -/
def State.harvestPage (s : State) (pa : Nat) : State × Bool :=
  if hbmEnd ≤ pa then (s, false)
  else
    let lines := ((s.dirty.filter fun d => d.1 / 64 == pa / 4096).map (·.1)).eraseDups
    let s := lines.foldl State.recallLine s
    ({ s with grants := s.grants.filter (· != pa / 4096) }, s.grants.contains (pa / 4096))

def State.harvestPages (s : State) : List Nat → State × List Bool
  | [] => (s, [])
  | pa :: l =>
    let (s, b) := s.harvestPage pa
    let (s, r) := s.harvestPages l
    (s, b :: r)

def boolNat : List Bool → Nat
  | [] => 0
  | b :: l => b.toNat + 2 * boolNat l

/-- HARVEST: where the bitmap cannot be written nothing is harvested. -/
def execHarvest (o : R4) (s : State) : Host.Outcome State Fault Refusal :=
  s.runWord false fun env s =>
    let c := s.cur.core
    let a := (sget env.s o.a).toNat
    let n := (sget env.s o.b).toNat
    if a % 4096 != 0 || n = 0 || 4096 < n then .fault s { cause := .reservedField }
    else
      match s.task c with
      | none => .wait s
      | some t =>
        let to_ := t.wholeAddr (sget env.s o.c)
        let (s1, r) := s.harvestPages ((List.range n).map fun i => a + 4096 * i)
        match s1.writeRun (t.whoAs c .s) .wr to_ (leBytes (ceilDiv n 8) (boolNat r)) with
        | (s2, some e) => Eff.ofStop { s with mismatch := s2.mismatch } e
        | (s2, none) => .done (s2.modTask c fun t => t.sset o.d (BitVec.ofNat 64 (r.filter id).length))

/-- Take cached leaves out; the word completes once writes translated through them have been performed. -/
def State.tlbinv (s : State) (p : Env → Option (TlbEnt → Bool)) : Host.Outcome State Fault Refusal :=
  s.runWord false fun env s =>
    match p env with
    | none => .fault s { cause := .reservedField }
    | some f =>
      if !(s.flight 0).isEmpty || !(s.flight 1).isEmpty then .wait s
      else .done { s with tlb := s.tlb.filter fun e => !f e }

/-- The ASID operand; none when a bit above it is 1. -/
def asidOperand (v : Word) : Option (BitVec 16) := if bits v 63 16 != 0 then none else some (v.setWidth 16)

def execTlbinvRange (o : Abc) (s : State) : Host.Outcome State Fault Refusal :=
  s.tlbinv fun env => (asidOperand (sget env.s o.a)).map fun asid e =>
    let lo := (sget env.s o.b).toNat
    let hi := lo + (sget env.s o.c).toNat
    e.asid == asid && e.base < hi && lo < e.base + e.size
def execTlbinvAsid (o : SReg) (s : State) : Host.Outcome State Fault Refusal :=
  s.tlbinv fun env => (asidOperand (sget env.s o)).map fun asid e => e.asid == asid
def execTlbinvAll (s : State) : Host.Outcome State Fault Refusal := s.tlbinv fun _ => some fun _ => true

end Sys2Proof.Machine
end

