-- ==== Sys2Proof/Machine/Pilot.lean ====
section
/-! DEFINITION. The Pilot (20): fetching records (R398 to R405), event waits, footprint edges and readiness (R408 to R411),
dispatch, priority and aging (R412 to R415), the records the Pilot serves itself (R405), completion (R406, R407, R417,
R419), device-side launches (R416), and the start of a task (02, R25, R27, R38; 03, R55, R58). -/

namespace Sys2Proof.Machine

/-! ## Records -/

/-- The completion record's address: each kind keeps it in its own place (R403, R405). -/
def recCrec (r : BitVec 1024) : Nat :=
  match recKind r with
  | 1 => (launchOf r).crec
  | 3 | 4 | 5 | 6 => bits r 293 243 * 32
  | _ => 0
def recEvset (r : BitVec 1024) : Nat := bits r 1023 768
def recEvwait (r : BitVec 1024) : Nat := bits r 767 512
def recAddr (r : BitVec 1024) : Nat := bits r 351 299 * 8
def recSize (r : BitVec 1024) : Nat := if r.getLsbD 295 then 8 else 4
def recValue (r : BitVec 1024) : Nat := bits r 511 448

/-- A record breaks its layout: BAD_RECORD of R406, or for a posted launch a kind or version it may not have (R416).
(log 40 DEDUCED) -/
def Node.bad (n : Node) : Bool :=
  let r := n.record
  let l := launchOf r
  if n.device && (recKind r != 1 || bits r 15 8 != 1) then true
  else
    match recKind r with
    | 1 => bits r 17 16 != 0 || l.team = 3 || l.dies = 0 || 6144 < l.dcount
    | 3 => bits r 383 352 != 0 || r.getLsbD 294 || bits r 242 16 != 0 || 5 < bits r 298 296
    | 4 => bits r 447 352 != 0 || bits r 298 296 != 0 || bits r 242 16 != 0
    | 5 | 6 => bits r 511 294 != 0 || bits r 242 16 != 0
    | _ => false

/-! ## Levels and timers (R413) -/

/-- A node of the queue has been dispatched. -/
def State.served (s : State) (q key : Nat) : State :=
  let x := s.queue q
  let prio := BitVec.ofNat 3 (s.ctx (bits x.qcfg 43 32)).prio
  let waits := s.nodes.any fun n => n.queue == q && s.idle n
  { s.setQueue q { x with level := prio, timer := if waits then some (s.now (q / 128)) else none } with
    lastFetch := SMap.put 0 s.lastFetch key q }

/-- AGING_TIMER: a ready node has waited for AGE. -/
def execAgingTimer (s : State) : Host.Outcome State Fault Refusal :=
  let q := s.input.unit
  if 256 ≤ q then .next s
  else
    let s := s.retime q
    let x := s.queue q
    match x.timer with
    | none => .next s
    | some t =>
      let now := s.now (q / 128)
      if (now - t).toNat < bits x.qtime 47 24 * 1000 then .next s
      else .next (s.setQueue q { x with level := if x.level = 7 then 7 else x.level + 1, timer := some now })

/-! ## Fetching (R398, R402, R405, R409) -/

/-- How far a queue stands after the one last served. -/
def rank (last q : Nat) : Nat := (q + 255 - last % 256) % 256

/-- R398; in READY alone (R481). -/
def State.fetchable (s : State) (q : Nat) : Bool :=
  let x := s.queue q
  let n := bits x.qcfg 43 32
  s.boot == .ready && x.qcfg.getLsbD 63 && !x.halted && x.wptr != x.rptr && s.ctxValid n && s.ownsQueue n q &&
    (s.nodes.filter fun k => k.die == q / 128).length < 4096
/-- The queue that a die's Pilot fetches from next. -/
def State.nextFetch (s : State) (die : Nat) : Option Nat :=
  (((List.range 128).map (· + 128 * die)).filter s.fetchable).foldl (fun b q => match b with
    | none => some q
    | some p => if rank (SMap.look 0 s.lastFetch die) q < rank (SMap.look 0 s.lastFetch die) p then some q else some p) none

/-- The Pilot halts a queue at the record at RPTR (R402). (log 40 DEDUCED) -/
def State.haltQueue (s : State) (q n : Nat) (f : FaultInfo) : State :=
  let x := s.queue q
  (s.setQueue q { x with halted := true, errIdx := x.rptr, cause := BitVec.ofNat 8 f.cause.code }).kernelRecord
    { ctx := some n, die := q / 128, cls := 1, asid := (s.ctx n).asid
      info := { f with origin := 7, handle := x.rptr, queue := BitVec.ofNat 8 q } }

def regionsMeet (a b : List Region) : Bool :=
  a.any fun x => b.any fun y => (x.write || y.write) && overlaps x.base x.len y.base y.len
/-- A fetched record enters the pool; its edges come from the earlier nodes of its queue (R408, R409). (log 42 DEDUCED) -/
def State.enterPool (s : State) (n : Node) : State :=
  let from_ := s.nodes.filter fun m => m.queue == n.queue && !m.device && regionsMeet m.regions n.regions
  let n : Node := { n with id := s.nextNode, edges := from_.map fun m => m.id }
  let x := s.queue n.queue
  { s.setQueue n.queue { x with rptr := x.rptr + 1 } with nodes := s.nodes ++ [n], nextNode := s.nextNode + 1 }.retime n.queue

/-- A job card that cannot run: its node is over (R405). -/
def Node.spoilCard (n : Node) (c : Cause) : Node := { n with st := .done, state3 := true, cause := c }

/-- The span regions of a node, from the sequence descriptor read at fetch (R409). (log 40 DEDUCED) -/
def State.nodeRegions (s : State) (w : Who) (card : BitVec 1024) (foot : Option (List Region)) : State × List Region :=
  match foot with
  | some l => (s, l)
  | none =>
    if cardKind card < 4 then (s, derivedRegions card none)
    else if cardSeq card % 64 != 0 then (s, derivedRegions card none)
    else
      match s.readNat w (cardSeq card) 64 with
      | (s, .error _) => (s, derivedRegions card none)
      | (s, .ok v) =>
        let d : BitVec 512 := BitVec.ofNat 512 v
        let bad := bits d 511 448 != 0 || bits d 319 312 != 0 || bits d 255 248 != 0 || bits d 63 56 != 0 ||
          bits d 55 0 % 16 != 0 || bits d 247 192 % 4 != 0 || bits d 335 320 = 0 || 4096 < bits d 335 320 ||
          bits d 95 64 = 0 || 2 ^ 24 < bits d 95 64 || bits d 95 64 < bits d 127 96 || bits d 159 128 < bits d 191 160 ||
          bits d 393 384 % 2 = 1 || 512 < bits d 393 384
        (s, derivedRegions card (if bad then none else some d))

/-- Read the card of a node record and check it by R340. (log 40 DEDUCED) -/
def State.fetchCard (s : State) (w : Who) (n : Node) : State × Node × Option Cause :=
  match s.readNat w (bits n.record 351 303 * 128) 128 with
  | (s, .error e) => (s, n.spoilCard e.info.cause, some e.info.cause)
  | (s, .ok v) =>
    let card : BitVec 1024 := BitVec.ofNat 1024 v
    let n := { n with card := some (card, none) }
    if cardKind card = 0 || 7 < cardKind card || cardBad (cardKind card) card || cardCrec card % 32 != 0 then
      (s, n.spoilCard .descriptorInvalid, some .descriptorInvalid)
    else if bits n.record 511 352 != 0 || bits n.record 302 16 != 0 then
      (s, n.spoilCard .reservedField, some .reservedField)
    else
      match s.readFoot w card with
      | (s, .error e) => (s, n.spoilCard e.info.cause, some e.info.cause)
      | (s, .ok (.error f)) => (s, n.spoilCard f.cause, some f.cause)
      | (s, .ok (.ok foot)) =>
        let (s, l) := s.nodeRegions w card foot
        (s, { n with card := some (card, foot), regions := l }, none)

/-- A fetched record of a known kind and version. (log 39 DESIGN CHOICE, 40 DEDUCED) -/
def State.takeRecord (s : State) (q n : Nat) (r : BitVec 1024) : State :=
  let w := s.pilotWho (q / 128) n
  let k : Node := { id := 0, queue := q, die := q / 128, ctx := n, record := r, handle := (s.queue q).rptr }
  match recKind r with
  | 1 =>
    let a := (launchOf r).fpAddr
    if a = 0 then s.enterPool k
    else
      match s.readNat w a 128 with
      | (s, .error e) => s.haltQueue q n e.info
      | (s, .ok v) =>
        match footRegions v with
        | none => s.haltQueue q n { cause := .reservedField, addr := BitVec.ofNat 56 a }
        | some l => s.enterPool { k with regions := l }
  | 2 =>
    let (s, k, bad) := s.fetchCard w k
    let s := s.enterPool k
    match bad with
    | none => s
    | some c =>
      s.kernelRecord { ctx := some n, die := q / 128, cls := 1, esc := c.isUser, asid := w.asid
                       info := { cause := c, origin := 6, handle := k.handle } }
  | _ => s.enterPool k

/-- What a die's Pilot finds when it reads something as an acquire at module scope that it knows to be ready (R132). -/
def State.pilotSees (s : State) (die : Nat) : State := s.acquireNow (.pilot die) .module

/-- RECORD_FETCH: the next record of the queue whose turn it is, read whole as an acquire at module scope after the write pointer
has been seen to pass it (R132). -/
def execRecordFetch (s : State) : Host.Outcome State Fault Refusal :=
  let q := s.input.unit
  if !(q < 256 && s.nextFetch (q / 128) == some q) then .next s
  else
    let x := s.queue q
    let n := bits x.qcfg 43 32
    let s := { s with lastFetch := SMap.put 0 s.lastFetch (q / 128) q }.pilotSees (q / 128)
    match s.readNat (s.pilotWho (q / 128) n) (ringSlot x x.rptr) 128 with
    | (s, .error e) => .next (s.haltQueue q n e.info)
    | (s, .ok v) =>
      let r : BitVec 1024 := BitVec.ofNat 1024 v
      if recKind r = 0 || 6 < recKind r || bits r 15 8 != 1 then
        .next (s.haltQueue q n { cause := .queueRecord, addr := BitVec.ofNat 56 (ringSlot x x.rptr) })
      else .next (s.takeRecord q n r)

/-- The event vector of a context as a die's Pilot reads it (R410). -/
def State.pilotEvents (s : State) (die n : Nat) : Nat :=
  leNat ({ s with old := [] }.viewBytes (.pilot die) die (s.ctx n).evaddr 32 32)
/-- An event wait is resolved: the vector has been read as an acquire at module scope (R410). -/
def State.sawEvents (s : State) (die n : Nat) : State :=
  (s.noteRead (some (.pilot die)) die (s.ctx n).evaddr 32 32 []).acquire (.pilot die) .module

/-- An earlier launch of the same strand is still to enter, in whichever die's pool it was posted (R221). -/
def State.launchBehind (s : State) (x : PendLaunch) : Bool :=
  [0, 1].any fun d => (s.pending d).any fun y => y.ctx == x.ctx && y.uid == x.uid && y.seq < x.seq

/-- PENDING_LAUNCH_ENTRY: a posted launch whose event wait holds enters the ready pool; launches of one strand enter in
issue order (R416, R221). One that its context's state had refused completes with CONTEXT_INVALID (R390, R406). -/
def execPendingLaunchEntry (s : State) : Host.Outcome State Fault Refusal :=
  let die := s.input.unit
  let i := s.input.idx
  let l := s.pending die
  match l[i]? with
  | none => .next s
  | some x =>
    let ev := recEvwait x.record
    if s.launchBehind x || s.pilotEvents die x.ctx &&& ev != ev || 4096 ≤ (s.nodes.filter fun k => k.die == die).length then .next s
    else
      let n : Node := {
        id := s.nextNode, queue := x.queue, die := die, ctx := x.ctx, record := x.record, handle := x.handle
        device := true, evOk := true, st := if x.refused then .done else .pool, state3 := x.refused
        status := if x.refused then 2 else 0 }
      .next ({ s.sawEvents die x.ctx with
        launches := SMap.put [] s.launches die (l.eraseIdx i)
        nodes := s.nodes ++ [n], nextNode := s.nextNode + 1 }.retime x.queue)

/-! ## Event waits (R410) -/

/-- EVENT_WAIT_RESOLVE. -/
def execEventWaitResolve (s : State) : Host.Outcome State Fault Refusal :=
  match s.node s.input.unit with
  | none => .next s
  | some n =>
    let ev := recEvwait n.record
    if s.pilotEvents n.die n.ctx &&& ev = ev then
      .next (((s.sawEvents n.die n.ctx).setNode { n with evOk := true }).retime n.queue)
    else .next s

/-! ## Records the Pilot serves itself (R405) -/

/-- A node ends, its completion record still to be written. -/
def State.endNode (s : State) (n : Node) (status : Nat) (c : Cause) : State :=
  (s.setNode { n with st := .done, status := status, cause := c, state3 := n.state3 || status != 0 || c != .none }).retime
    n.queue
/-- Serve a record of a kind that may be served, after the checks of R406. -/
def State.serveWhen (s : State) (kind : Nat) (may : Node → Bool) (f : Node → State) : Host.Outcome State Fault Refusal :=
  match s.node s.input.unit with
  | none => .next s
  | some n =>
    if recKind n.record != kind || n.device || n.st != .pool || !may n then .next s
    else if n.bad then .next (s.endNode n 3 .none)
    else
      match s.badCtx n.ctx with
      | some x => .next (s.endNode n 2 x)
      | none => .next (f n)
/-- Serve a ready record. -/
def State.serve (s : State) (kind : Nat) (f : Node → State) : Host.Outcome State Fault Refusal :=
  s.serveWhen kind s.nodeReady f

/-- No earlier record of the queue is left. -/
def State.firstOfQueue (s : State) (n : Node) : Bool :=
  !(s.nodes.any fun m => m.queue == n.queue && m.id < n.id && !m.device)

/-- The test of a wait-memory record at its size. -/
def waitTest (r : BitVec 1024) (v : Nat) : Bool :=
  let w := 8 * recSize r
  let x := v &&& bits r 447 384
  let x := x % 2 ^ w
  let y := recValue r % 2 ^ w
  match bits r 298 296 with
  | 0 => x == y
  | 1 => x != y
  | 2 => y ≤ x
  | 3 => x < y
  | 4 => sval w y ≤ sval w x
  | _ => sval w x < sval w y

/-- WAIT_MEMORY_POLL: each read is an acquire at module scope, the first again 64 ns after the first read that fails, then twice the gap up to 65,536 ns (R410). -/
def execWaitMemoryPoll (s : State) : Host.Outcome State Fault Refusal :=
  s.serve 3 fun n =>
    let now := s.now n.die
    if now < n.pollAt then s
    else
      match s.readNat (s.pilotWho n.die n.ctx) (recAddr n.record) (recSize n.record) with
      | (s, .error e) => s.endNode { n with satisfied := true, state3 := true } 0 e.info.cause
      | (s, .ok v) =>
        let s := s.acquire (.pilot n.die) .module
        if waitTest n.record v then s.endNode { n with satisfied := true } 0 .none
        else
          let gap := if n.polls = 0 then 64 else min 65536 (2 * n.pollGap)
          s.setNode { n with polls := n.polls + 1, pollGap := gap, pollAt := now + BitVec.ofNat 64 gap }

/-- A write of the Pilot for a node is refused: it goes again, until RTMO has passed (R433). -/
def State.tryNode (s : State) (n : Node) (va : Nat) (late : Unit → State) : State :=
  let now := s.now n.die
  if Retry.over n.retry now (s.ctx n.ctx).rtmoTicks then late ()
  else s.setNode { n with retry := some (Retry.again n.retry now (BitVec.ofNat 56 va)) }

/-- SIGNAL_MEMORY: a store, or an atomic add, once every earlier record of the queue has completed; a release at module
scope. -/
def execSignalMemory (s : State) : Host.Outcome State Fault Refusal :=
  s.serve 4 fun n =>
    if !s.firstOfQueue n || Retry.early n.retry (s.now n.die) then s
    else
      let w := { s.pilotWho n.die n.ctx with rel := some .module }
      let k := recSize n.record
      let a := recAddr n.record
      let (s1, x) : State × Option XlStop :=
        if n.record.getLsbD 294 then
          match s.atomic w a k (.amo .add k (BitVec.ofNat 64 (recValue n.record)))
              fun v => some ((v + recValue n.record) % 2 ^ (8 * k)) with
          | (s, .ok _) => (s, none)
          | (s, .error e) => (s, some e)
        else s.writeHome w a (leBytes k (recValue n.record))
      match x with
      | none => s1.endNode n 0 .none
      | some .held => s
      | some (.refused va) => s.tryNode n va fun _ => s1.endNode { n with state3 := true } 0 (XlStop.info (.refused va)).cause
      | some e => s1.endNode { n with state3 := true } 0 e.info.cause

/-- FENCE_RECORD. -/
def execFenceRecord (s : State) : Host.Outcome State Fault Refusal :=
  s.serve 5 fun n => if s.firstOfQueue n then s.endNode n 0 .none else s
/-- NOP_RECORD: as soon as its event wait is resolved. -/
def execNopRecord (s : State) : Host.Outcome State Fault Refusal :=
  s.serveWhen 6 (fun n => n.evOk) fun n => s.endNode n 0 .none

/-! ## The start of a task (R25, R27, R38, R55, R403) -/

/-- LSEED at task start. -/
def startSeed (l : Launch) (tx ty tz rank : Nat) : Word :=
  let mix (b : Nat) : BitVec 32 :=
    BitVec.ofNat 32 ((tx ^^^ ty * 2 ^ 16) * 0x85ebca6b + tz * 0xc2b2ae35 + rank * 2 + b)
  let f (x : BitVec 32) (b : Nat) : BitVec 32 := lfsrFix (if l.seeden then x ^^^ mix b else x)
  f l.mst 1 ++ f l.vst 0

/-- TASKID of a task on a core. -/
def taskidOf (asid : BitVec 16) (c : Nat) : Word :=
  BitVec.ofNat 64 (asid.toNat * 2 ^ 32 + c % 4 * 2 ^ 15 + dieOf c * 2 ^ 14 + clusterOf c * 2 ^ 8 + c)

/-- A task of team `t` as it starts: rank, core, image and the participant counts of R38. (log 1 DESIGN CHOICE) -/
def startTask (n : Node) (l : Launch) (asid : BitVec 16) (binds : SMap Binding) (t rank c image uid mcount dcount : Nat) :
    Task :=
  let tx := t % l.nx
  let ty := t / l.nx % l.ny
  let tz := t / (l.nx * l.ny)
  let task : Task := {
    ctx := some n.ctx, asid := asid, node := n.id, team := t, image := image, uid := uid, rank := rank
    fpctl := if l.seeden then 0x10 else 0
    lseed := startSeed l tx ty tz rank
    taskid := taskidOf asid c
    teaminfo := BitVec.ofNat 64 (l.team * 2 ^ 50 + rank * 2 ^ 48 + tz * 2 ^ 32 + ty * 2 ^ 16 + tx)
    gridinfo := BitVec.ofNat 64 (l.dies * 2 ^ 49 + l.cores.toNat * 2 ^ 48 + l.nz * 2 ^ 32 + l.ny * 2 ^ 16 + l.nx)
    domain := BitVec.ofNat 64 (l.dcount * 2 ^ 51 + mcount * 2 ^ 43 + dcount * 2 ^ 36 + l.grid.toNat)
    slots := binds }
  (strandsOf false).foldl (fun k e => k.setStrand e { pc := l.entry }) task

/-! ## Placement (R40, R391, R412, R415) -/

def State.freeCore (s : State) (c : Nat) : Bool := c < 192 && (s.task c).isNone
/-- A team of a size may stand on the cores from `b` up. -/
def State.baseOk (s : State) (n : Node) (size b : Nat) : Bool :=
  b % size = 0 && s.mayUse n b && (List.range size).all fun i => s.freeCore (b + i)
/-- Images of a context that no task holds. -/
def State.freeImages (s : State) (n : Nat) : List Nat :=
  let used := (s.reservedImages.filter fun x => x.1 == n).map (·.2)
  (List.range (s.ctx n).saveslots).filter fun i => !used.contains i
/-- The bases free for teams of a size, each beside the others. -/
def State.bases (s : State) (n : Node) (size : Nat) : List Nat := (List.range 192).filter (s.baseOk n size)
/-- Teams that the partition's clusters of the allowed dies hold at once when they are free. -/
def State.capacity (s : State) (n : Node) (size : Nat) : Nat :=
  ((List.range 48).filter fun k => s.mayUse n (4 * k)).length * (4 / size)

/-- Teams and images that a grid needs before it is placed whole. (log 41 DEDUCED) -/
def State.gridFits (s : State) (n : Node) : Bool :=
  let l := launchOf n.record
  let size := teamSize l.team
  let saved := (s.teams.filter fun t => t.node == n.id && t.st == .saved).length
  if n.nextTeam = 0 then l.teams ≤ (s.bases n size).length && l.teams * size ≤ (s.freeImages n.ctx).length
  else saved ≤ (s.bases n size).length
/-- A grid that waits for cores could be given one of a cluster now. -/
def State.couldTake (s : State) (n : Node) (k : Nat) : Bool :=
  let l := launchOf n.record
  let size := teamSize l.team
  s.wantsCores n && (List.range 4).any (fun i => s.baseOk n size (4 * k + i)) &&
    (if l.cores then s.gridFits n else s.hasSaved n || size ≤ (s.freeImages n.ctx).length)

/-- The pick of R414 between two ready nodes of one kind of unit: the higher level, the next queue in turn, the older. -/
def State.before_ (s : State) (key : Nat) (m n : Node) : Bool :=
  let last := SMap.look 0 s.lastFetch key
  s.levelOf n < s.levelOf m ||
    (s.levelOf m == s.levelOf n &&
      (rank last m.queue < rank last n.queue || (m.queue == n.queue && m.id < n.id)))

/-- The number that turn-taking keeps for a kind of unit: cores, then each die's copy, Sextant and span engines. -/
def unitKey (die kind : Nat) : Nat :=
  match kind with
  | 0 => 2
  | 1 | 2 => 3 + 3 * die
  | 3 => 4 + 3 * die
  | _ => 5 + 3 * die

/-- A grid is picked for the clusters of some bases: no other could take one of them first, and no waiting co-resident grid
of a higher level keeps new teams off those dies (R414, R415). (log 41 DEDUCED) -/
def State.picked (s : State) (n : Node) (new : Bool) (l : List Nat) : Bool :=
  !(s.nodes.any fun m => m.id != n.id && s.before_ 2 m n && l.any fun b => s.couldTake m (clusterOf b)) &&
    !(new && s.nodes.any fun m => m.id != n.id && s.wantsCores m && (launchOf m.record).cores &&
      s.levelOf n < s.levelOf m && l.any fun b => (launchOf m.record).dies.testBit (dieOf b))

/-- The bases of several teams do not meet. -/
def apart (size : Nat) (l : List Nat) : Bool := (l.map (· / size)).eraseDups.length == l.length

/-- Place one team: its images are reserved, its tasks start, and their cores fetch again (R391, R403, R418).
(log 41 DEDUCED) -/
def State.placeTeam (s : State) (n : Node) (binds : SMap Binding) (t b mcount dcount : Nat) : State :=
  let l := launchOf n.record
  let size := teamSize l.team
  let imgs := (s.freeImages n.ctx).take size
  let asid := (s.ctx n.ctx).asid
  let s := (List.range size).foldl (fun s r =>
    (s.setCore (b + r) { s.core (b + r) with
      task := some (startTask n l asid binds t r (b + r) (imgs.getD r 0) (s.uids + r) mcount dcount) }).switchTiles (b + r)
        asid) s
  let team : Team := ⟨n.id, t, size, n.ctx, b, imgs, .running, s.now (dieOf b), none⟩
  { s with
    uids := s.uids + size
    teams := s.teams ++ [team]
    reservedImages := s.reservedImages ++ imgs.map fun i => (n.ctx, i) }.fetchAgain team.cores

/-- The binding list and every descriptor it names (R404), or the status and cause of R406. -/
def State.readBinds (s : State) (w : Who) : Nat → Nat → SMap Binding → Except (Nat × Cause) (SMap Binding)
  | 0, _, _ => .error (3, .none)
  | fuel + 1, a, m =>
    match s.readNat w a 8 with
    | (_, .error e) => .error (4, e.info.cause)
    | (s, .ok v) =>
      if field v 52 50 != 0 then .error (3, .none)
      else
        let d := field v 49 0 * 64
        match s.readNat w d 64 with
        | (_, .error e) => .error (4, e.info.cause)
        | (s, .ok x) =>
          match descCheck d (BitVec.ofNat 512 x) with
          | some c => .error (4, c)
          | none =>
            let m := SMap.ins m (field v 62 53) (mkBinding d (BitVec.ofNat 512 x))
            if field v 63 63 = 1 then .ok m else s.readBinds w fuel (a + 8) m

/-- Why a grid cannot run as written, in the order of R406's checks at its first dispatch; a launch of no team is complete
at once (R417). (log 41 DEDUCED) -/
def State.gridRefusal (s : State) (n : Node) : Option (Nat × Cause) :=
  let l := launchOf n.record
  let size := teamSize l.team
  if n.bad then some (3, .none)
  else if l.teams = 0 then some (0, .none)
  else if (s.badCtx n.ctx).isSome then (s.badCtx n.ctx).map fun x => (2, x)
  else if (s.ctx n.ctx).saveslots < size then some (5, .none)
  else if l.cores && (s.capacity n size < l.teams || (s.ctx n.ctx).saveslots < l.teams * size) then some (1, .none)
  else
    match n.binds with
    | some _ => none
    | none =>
      if l.bindAddr = 0 then none
      else
        match s.readBinds (s.pilotLook n.die n.ctx) 1024 l.bindAddr [] with
        | .ok _ => none
        | .error e => some e

/-- The bindings every task of a grid starts with. -/
def State.gridBinds (s : State) (n : Node) : SMap Binding :=
  match n.binds with
  | some m => m
  | none =>
    if (launchOf n.record).bindAddr = 0 then []
    else
      match s.readBinds (s.pilotLook n.die n.ctx) 1024 (launchOf n.record).bindAddr [] with
      | .ok m => m
      | .error _ => []

/-- The state of a device-side launch that runs. -/
def State.noteRun (s : State) (n : Node) (st : Nat) : State := if n.device then s.noteLaunch n.ctx n.handle st else s

/-- Place the teams chosen: the next of a grid, or all of a co-resident one at once. (log 41 DEDUCED) -/
def State.placeGrid (s : State) (n : Node) (place : List (Nat × Nat)) : State :=
  let l := launchOf n.record
  let size := teamSize l.team
  let bs := place.map (·.2)
  let whole := l.cores
  let want := if whole then List.range l.teams else [n.nextTeam]
  if place.map (·.1) != want || !(bs.all (s.baseOk n size)) || !apart size bs || !s.picked n true bs ||
      (s.freeImages n.ctx).length < size * place.length || (!whole && s.hasSaved n) || l.teams ≤ n.nextTeam then s
  else
    let binds := s.gridBinds n
    let on (d : Nat) : Nat := if whole then (bs.filter fun b => dieOf b == d).length * size else 0
    let s := place.foldl (fun s x => s.placeTeam n binds x.1 x.2 (on 0 + on 1) (on (dieOf x.2))) s
    ((s.setNode { n with st := .running, nextTeam := n.nextTeam + place.length, binds := some binds }).noteRun n 1).served
      n.queue 2

/-- Dispatch a job node to its engine (R405), unless a node that the engine can serve comes first (R414).
(log 69 DESIGN CHOICE) -/
def State.dispatchJob (s : State) (n : Node) : State :=
  match n.card with
  | none => s
  | some (card, foot) =>
    if n.st != .pool then s
    else if (s.badCtx n.ctx).isSome then s.endNode { n with state3 := true } 0 ((s.badCtx n.ctx).getD .none)
    else
      let die := s.jobDie n.ctx n.die n.regions
      let key := unitKey die (cardKind card)
      let other (m : Node) : Bool := m.id != n.id && recKind m.record == 2 && m.st == .pool && s.nodeReady m &&
        s.jobsOut m.ctx < (s.ctx m.ctx).jquota && m.card.any (fun c => unitKey (s.jobDie m.ctx m.die m.regions) (cardKind c.1) == key) && s.before_ key m n
      if 1024 ≤ s.intake die || (s.ctx n.ctx).jquota ≤ s.jobsOut n.ctx || s.nodes.any other then s
      else
        let seq := s.jobSeq
        let s := (((s.pilotSees 0).pilotSees 1).addJob
          { ctx := n.ctx, handle := n.handle, card := card, foot := foot, die := die, core := none, node := some n.id })
        (s.setNode { n with st := .running, job := some seq }).served n.queue key

/-- A ready grid at a higher level has the lowest-level team stopped that holds cores it could use (R414). (log 41 DEDUCED) -/
def State.stopFor (s : State) (n : Node) (i : Nat) : State :=
  match s.teams[i]? with
  | none => s
  | some t =>
    let level (t : Team) : Nat := match s.node t.node with
      | some m => s.levelOf m
      | none => 8
    let usable (t : Team) : Bool := t.st == .running && level t < s.levelOf n && s.mayUse n t.base
    if (launchOf n.record).cores || !s.wantsCores n || (List.range 48).any (s.couldTake n) || !usable t ||
        s.teams.any (fun u => usable u && level u < level t) then s
    else s.askGang t

/-- The context of a running grid has become invalid: no more of its teams are placed, which its completion record will show
(R390). (log 69 DESIGN CHOICE) -/
def State.cutGrid (s : State) (n : Node) : State :=
  (s.setNode { n with
    nextTeam := (launchOf n.record).teams, state3 := true
    status := if n.status = 0 then 2 else n.status
    cause := if n.status = 0 then (s.badCtx n.ctx).getD .none else n.cause }).retime n.queue

/-- NODE_DISPATCH: a ready grid is refused, complete, or given places; a ready job goes to its engine; a ready grid that
finds no place has a lower team stopped. (log 4 DESIGN CHOICE) -/
def execNodeDispatch (s : State) : Host.Outcome State Fault Refusal :=
  match s.node s.input.unit with
  | none => .next s
  | some n =>
    if !s.nodeReady n then .next s
    else if recKind n.record = 2 && !n.device then .next (s.dispatchJob n)
    else if recKind n.record != 1 then .next (if n.device && n.st == .pool then s.endNode n 3 .none else s)
    else
      match (if n.st == .pool then s.gridRefusal n else none) with
      | some (st, c) => .next (s.endNode n st c)
      | none =>
        if n.st == .running && n.nextTeam < (launchOf n.record).teams && (s.badCtx n.ctx).isSome then
          .next (s.cutGrid n)
        else
        match s.input.load with
        | .place l => .next (if n.status = 0 || n.status = 7 then s.placeGrid n l else s)
        | .num i => .next (s.stopFor n i)
        | _ => .next s

/-- QUANTUM_EXPIRY: a team has run for its queue's QUANT and a ready grid at its level, or a waiting co-resident grid above
it, could use its cores (R414, R415). -/
def execQuantumExpiry (s : State) : Host.Outcome State Fault Refusal :=
  match s.teams[s.input.unit]? with
  | none => .next s
  | some t =>
    match s.node t.node with
    | none => .next s
    | some own =>
      let over_ := bits (s.queue own.queue).qtime 23 0 * 1000 ≤ (s.now (dieOf t.base) - t.placed).toNat
      let waits := s.nodes.any fun m => s.wantsCores m && s.mayUse m t.base && !((List.range 48).any (s.couldTake m)) &&
        (s.levelOf m == s.levelOf own || ((launchOf m.record).cores && s.levelOf own < s.levelOf m))
      .next (if t.st == .running && over_ && waits then s.askGang t else s)

/-! ## Completion (R406, R407, R417, R419) -/

/-- Every team a grid was to run has ended. -/
def State.gridOver (s : State) (n : Node) : Bool :=
  n.st == .running && recKind n.record = 1 && !(s.teams.any fun t => t.node == n.id) &&
    (n.status = 6 || (launchOf n.record).teams ≤ n.nextTeam)
def State.jobOver (s : State) (n : Node) : Bool :=
  match n.job with
  | none => false
  | some j => !(s.jobs.any fun x => x.seq == j && x.code == 0)

def Node.completed (n : Node) : Nat := n.ended.length - n.failed.length
/-- The teams that did not complete, one bit each (R419). -/
def Node.bitmap (n : Node) : List Byte :=
  let k := (launchOf n.record).teams
  leBytes (ceilDiv k 8) (boolNat ((List.range k).map fun t => !(n.ended.contains t) || n.failed.contains t))

/-- The completion record of a node, or of a card that never ran. (log 42 DEDUCED) -/
def State.nodeRecord (s : State) (n : Node) : Nat × List Byte :=
  let state := if n.state3 then 3 else 2
  match n.card with
  | some (c, _) =>
    (if cardCrec c % 32 = 0 then cardCrec c else 0, completionBytes (s.now n.die) 0 0 n.handle n.cause.code 0 state)
  | none =>
    let crec := recCrec n.record
    let count := if recKind n.record = 1 then n.completed else 0
    (crec, completionBytes (s.now n.die) count (if n.status = 6 && crec != 0 then crec + 32 else 0) n.handle n.cause.code
      n.status state)

/-- A completed node sets its events and leaves the pool; edges from it resolve (R407, R409). -/
def State.leavePool (s : State) (n : Node) : State :=
  let s : State := match n.card with
    | some (c, _) => if n.job.isNone && c.getLsbD 40 then s.setEvents n.ctx (2 ^ bits c 39 32) else s
    | none => s
  let s : State := if recEvset n.record = 0 then s else s.setEvents n.ctx (recEvset n.record)
  let free (m : Node) : Node := { m with edges := m.edges.filter (· != n.id) }
  let s := { s with nodes := (s.nodes.filter fun m => m.id != n.id).map free }
  let s : State := match n.job with
    | some j => { s with jobs := s.jobs.filter fun x => x.seq != j }
    | none => s
  (s.noteRun n (if n.state3 then 3 else 2)).retime n.queue

/-- Write the record, the bitmap of a split grid first. (log 39 DESIGN CHOICE, 42 DEDUCED) -/
def State.writeNode (s : State) (n : Node) : State × Option XlStop :=
  let w := s.pilotWho (if n.status = 6 then s.recordDie n else n.die) n.ctx
  let (crec, b) := s.nodeRecord n
  if n.status = 6 && crec != 0 then
    match s.writeHome w (crec + 32) n.bitmap with
    | (s, some e) => (s, some e)
    | (s, none) => s.writeCompletion w crec b
  else s.writeCompletion w crec b

/-- RECORD_COMPLETION. A record that cannot be written leaves a fault record, and the events are set all the same. -/
def execRecordCompletion (s : State) : Host.Outcome State Fault Refusal :=
  match s.node s.input.unit with
  | none => .next s
  | some n =>
    if n.job.isSome then .next (if s.jobOver n then s.leavePool n else s)
    else if !(n.st == .done || s.gridOver n) || Retry.early n.retry (s.now n.die) then .next s
    else
      let lose (s : State) (f : FaultInfo) : State :=
        (s.kernelRecord { ctx := some n.ctx, die := n.die, cls := 1, esc := f.cause.isUser, asid := (s.ctx n.ctx).asid
                          info := { f with origin := 7, handle := n.handle, queue := BitVec.ofNat 8 n.queue } }).leavePool n
      match s.writeNode n with
      | (s, none) => .next (s.leavePool n)
      | (s1, some (.refused va)) => .next (s.tryNode n va fun _ => lose s1 (XlStop.info (.refused va)))
      | (s, some e) => .next (lose s e.info)

end Sys2Proof.Machine
end

