-- ==== Sys2Proof/Machine/Runs.lean ====
section
/-! DEFINITION. The runs of generators (11, R302 to R316): the record's fields, the entries of a run and the memory each
touches, and the order of later accesses behind an earlier run's (R304, R120). -/

namespace Sys2Proof.Machine

/-! ## The generator record (R302) -/

def genTy (p : BitVec 256) : Option ETy := ETy.ofCode (p.extractLsb' 56 5)
def genCnt (p : BitVec 256) (i : Nat) : Nat := bits p (79 + 16 * i) (64 + 16 * i)
def genStr (p : BitVec 256) (i : Nat) : Int := sval 32 (bits p (159 + 32 * i) (128 + 32 * i))
/-- Elements of the whole nest. -/
def genTotal (p : BitVec 256) : Nat := genCnt p 0 * genCnt p 1 * genCnt p 2 * genCnt p 3
/-- Bytes of an element. -/
def genSize (p : BitVec 256) : Nat := ((genTy p).getD .f32).width / 8
/-- The counter of level `i` at element `k` of the stream. -/
def genAt (p : BitVec 256) (k : Nat) : Nat → Nat
  | 0 => k % genCnt p 0
  | 1 => k / genCnt p 0 % genCnt p 1
  | 2 => k / (genCnt p 0 * genCnt p 1) % genCnt p 2
  | _ => k / (genCnt p 0 * genCnt p 1 * genCnt p 2)
/-- The address of element `k` (R305). -/
def genAddr (p : BitVec 256) (k : Nat) : Nat :=
  wrapInt 56 (bits p 55 0 + ((List.range 4).map fun i => (genAt p k i : Int) * genStr p i).sum * genSize p)
/-- The counters as the fault record shows them (R443). -/
def genCounters (p : BitVec 256) (k : Nat) : Nat :=
  genAt p k 0 + genAt p k 1 * 2 ^ 16 + genAt p k 2 * 2 ^ 32 + genAt p k 3 * 2 ^ 48

/-! ## Entries -/

/-- One element of an entry: its place in the entry's 256 bytes, its size, its address, and the counters it stands at. -/
structure Part where
  off : Nat
  size : Nat
  va : Nat
  counters : Nat

/-- Entries of a run. -/
def RunKind.count : RunKind → Nat
  | .nest p row =>
    let n := 256 / genSize p
    if row then genCnt p 1 * genCnt p 2 * genCnt p 3 * ceilDiv (genCnt p 0) n else ceilDiv (genTotal p) n
  | .rows l _ _ => l.length
  | .idx l => ceilDiv l.length 64

/-- The elements of entry `e` of a nest, in stream order. -/
def nestParts (p : BitVec 256) (row : Bool) (e : Nat) : List Part :=
  let size := genSize p
  let n := 256 / size
  let per := ceilDiv (genCnt p 0) n
  (List.range n).filterMap fun lane =>
    let c := e % per * n + lane
    let k := if row then e / per * genCnt p 0 + c else e * n + lane
    if (if row then c < genCnt p 0 else k < genTotal p) then some ⟨lane * size, size, genAddr p k, genCounters p k⟩ else none

/-- The elements of a row of `bytes` bytes: those of the type where the row is aligned to it, single bytes elsewhere. -/
def rowParts (e a bytes size : Nat) : List Part :=
  let whole := if a % size = 0 then bytes / size else 0
  (List.range whole).map (fun i => ⟨i * size, size, (a + i * size) % 2 ^ 56, e⟩) ++
    (List.range (bytes - whole * size)).map fun i => ⟨whole * size + i, 1, (a + whole * size + i) % 2 ^ 56, e⟩

def RunKind.parts (r : RunKind) (e : Nat) : List Part :=
  match r with
  | .nest p row => nestParts p row e
  | .rows l bytes ty => match l[e]? with
    | some a => rowParts e a.toNat bytes (max 1 (ty.width / 8))
    | none => []
  | .idx _ => []

/-- What an entry holds before memory is read: the index values of `.idx`, else zeros. -/
def RunKind.base (r : RunKind) (e : Nat) : Vec :=
  match r with
  | .idx l => BitVec.ofNat 2048 (leNat (((l.drop (64 * e)).take 64).flatMap fun x => leBytes 4 x.toNat))
  | _ => 0

/-! ## Order behind a run (R304, R120) -/

def Gen.active (g : Gen) : Bool := g.mode == .running || g.mode == .halted
/-- Whether a run has still to touch one of `n` bytes from `va`. -/
def Gen.touches (g : Gen) (va n : Nat) : Bool :=
  (List.range (g.kind.count - g.entry)).any fun i =>
    ((g.kind.parts (g.entry + i)).drop (if i = 0 then g.elem else 0)).any fun p => p.va < va + n && va < p.va + p.size
/-- An access of the A strand waits for that of an earlier run to the same location; `below` bounds the runs that are
earlier. -/
def Task.behindRun (t : Task) (below va n : Nat) : Bool :=
  t.gens.any fun g => g.2.active && g.2.run < below && g.2.touches va n
/-- The same of a list of places. -/
def Task.behindAny (t : Task) (below : Nat) (l : List (Nat × Nat)) : Bool :=
  t.gens.any (fun g => g.2.active) && l.any fun x => t.behindRun below x.1 x.2
/-- The memory that a fill of a tile reads or a write of it writes, as (address, bytes): its elements within the extents, a
packed-sparse row's segment, an MX tile's scales, a KV-paged tile's descriptor and block entry (R82 to R88). -/
def State.tilePlaces (s : State) (w : Who) (t : Task) (slot : BitVec 10) (k : BitVec 128) : List (Nat × Nat) :=
  match t.binding slot with
  | none => []
  | some b =>
    let d := b.d
    let elems (ext : List Nat) (frame : Nat) (mask : BitVec 128) : List (Nat × Nat) :=
      ((elemList d ext k frame mask).getD []).filterMap (elemPlace d.ty.width)
    if d.layout = 3 then
      (d.seq, 64) :: match (s.readPage w b slot k).2 with
        | .ok p => elems (d.extents p.nblk) p.frame (pageMask d k p)
        | .error _ => []
    else if d.layout = 2 then (packedRows d k).map fun r => (segAddr d k r, d.cap)
    else elems (d.extents 0) 0 fullMask ++
      match d.layout, t.companion d with
      | 4, .ok cb => (scaleList d cb.d k).filterMap fun x => x.map fun a => (a.toNat, 1)
      | _, _ => []
/-- An A word's address: s[SA] + sext(IMM) modulo 2^56 (R289). -/
def aAddr (r : SMap Word) (a : SReg) (imm : BitVec 32) : Nat := (sget r a + imm.signExtend 64).toNat % 2 ^ 56
/-- The memory that a parked A word has still to touch: its tiles' places, and where a TPIN writes its status. -/
def State.parkedPlaces (s : State) (w : Who) (t : Task) (p : Parked) : List (Nat × Nat) :=
  (p.uses.flatMap fun u => s.tilePlaces w t u.slot u.k) ++
    match p.instr with
    | .tpin o => if o.sa = 0 then [] else [(aAddr p.env.s o.sa o.imm, 4)]
    | _ => []
/-- Two lists of places have a byte in common. -/
def placesMeet (l m : List (Nat × Nat)) : Bool := l.any fun x => m.any fun y => x.1 < y.1 + y.2 && y.1 < x.1 + x.2
/-- An access of the A strand waits for every earlier A word's access to the same location that is still to come: of `runs` runs, and
of the parked words and itineraries that `early` says (R120, R304). (log 20 DEDUCED) -/
def State.aBehind (s : State) (c : Nat) (t : Task) (runs : Nat) (early : Nat → Nat → Bool) (l : List (Nat × Nat)) : Bool :=
  t.behindAny (runs + 1) l ||
    (t.replay.any fun p => p.env.eng == .a && p.env.runs ≤ runs && early p.epoch p.path && placesMeet (s.parkedPlaces (t.who c) t p) l) ||
    t.itins.any fun x => x.runs ≤ runs && early x.epoch x.path && x.todo.any fun k => placesMeet (s.tilePlaces (t.who c) t x.slot k) l
/-- The same for a word, at issue or parked. -/
def State.wordBehind (s : State) (c : Nat) (t : Task) (env : Env) (l : List (Nat × Nat)) : Bool :=
  s.aBehind c t env.runs (fun e p => before e p env.epoch env.path) l
/-- The same for elements of a run. -/
def State.runBehind (s : State) (c : Nat) (t : Task) (x : Gen) (l : List Part) : Bool :=
  s.aBehind c t (x.run - 1) (fun _ _ => true) (l.map fun p => (p.va, p.size))

/-- A sequence descriptor has a reserved bit set (R139, R2). -/
def seqReserved (d : BitVec 512) : Bool :=
  bits d 511 448 != 0 || bits d 319 312 != 0 || bits d 255 248 != 0 || bits d 63 56 != 0

end Sys2Proof.Machine
end

