-- ==== Sys2Proof/Machine/Tiles.lean ====
section
/-! DEFINITION. The tile words of the A strand (11, R292 to R301): binding, versions, fills, pins, hints, write-backs,
discards, TZERO, TCOPY and TPREF; and the part's re-read of VERSION. -/

namespace Sys2Proof.Machine

def execSyncA (s : State) : Host.Outcome State Fault Refusal := s.runWord false fun _ s => .done s

/-! ## Tiles of a slot -/

/-- A fill of the slot of a core's task is on its way, or a parked word names it: the task's own, or a team peer's that reads
this core's cache (R98, R99). -/
def State.slotBusy (s : State) (core : Nat) (t : Task) (slot : BitVec 10) : Bool :=
  (t.fills.any fun f => f.slot == slot) || (t.replay.any fun w => w.uses.any fun u => u.slot == slot) ||
    s.running.any fun k => (k.fills.any fun f => f.core == core && f.slot == slot) ||
      k.replay.any fun w => w.uses.any fun u => u.core == core && u.slot == slot
/-- The same of one tile of a core's cache (R298). -/
def State.tileBusy (s : State) (core : Nat) (slot : BitVec 10) (k : BitVec 128) : Bool :=
  s.running.any fun t => (t.fills.any fun f => f.core == core && f.slot == slot && f.k == k) ||
    t.replay.any fun w => w.uses.any fun u => u.core == core && u.slot == slot && u.k == k

/-- The tiles of a slot that a core holds. -/
def State.slotTiles (s : State) (c : Nat) (t : Task) (slot : BitVec 10) : List Tile :=
  (s.core c).tiles.filter fun x => x.name.asid == t.asid && x.name.slot == slot
/-- Write back those of a list of tiles that are dirty, up to the first that faults (R102). -/
def State.writeBackAll (s : State) (c : Nat) : List Tile → State × Option FaultInfo
  | [] => (s, none)
  | x :: l =>
    if x.dirty then
      match s.writeBack c x with
      | (s, none) => s.writeBackAll c l
      | (s, some f) => if s.ownerRuns c x then (s, some f) else (s.dropEnded c x f).writeBackAll c l
    else s.writeBackAll c l
/-- Take tiles out of a core with their pins and registrations. -/
def State.dropTiles (s : State) (c : Nat) (l : List Tile) : State :=
  l.foldl (fun s x => (s.unregister c x.name).setCore c ((s.core c).dropTile x.name)) s
/-- Write back a slot's dirty tiles, then drop all of its tiles; nothing is dropped when a write-back faults.
(log 20 DEDUCED) -/
def State.clearSlot (s : State) (c : Nat) (t : Task) (slot : BitVec 10) : State × Option FaultInfo :=
  match s.writeBackAll c (s.slotTiles c t slot) with
  | (s, none) => (s.dropTiles c (s.slotTiles c t slot), none)
  | r => r

/-! ## TBIND, TUNB (R292, R293, R103) -/

def Task.bindSlot (t : Task) (slot : BitVec 10) (b : Binding) : Task := { t with slots := SMap.ins t.slots slot.toNat b }
def Task.unbindSlot (t : Task) (slot : BitVec 10) : Task := { t with slots := SMap.drop t.slots slot.toNat }

/-- A compatible rebind (R103). -/
def compatible (a b : TDesc) : Bool :=
  a.ty == b.ty && a.rank == b.rank && a.layout == b.layout && a.tshape == b.tshape && a.ext == b.ext &&
    a.hdim == b.hdim && a.heads == b.heads

/-- A tile goes on under a new binding of its slot and its companion as it stands; a dirty one is registered where it will now
be written, every row of it (R479). Where that place does not translate, which the spec does not treat, it stays resident and
dirty with no registration and no fault. (log 62 DESIGN CHOICE) -/
def State.moveTile (c : Nat) (b : Binding) (s : State) (x : Tile) : State :=
  let y := { x with bind := b, strm := b.strm, fromRow := 0
                    scaleBind := if b.d.layout = 4 then (s.task c).bind fun t => (t.companion b.d).toOption else none }
  if x.dirty then
    match (s.unregister c x.name).dirtyTile c y with
    | (s, none) => s
    | (_, some _) => (s.unregister c x.name).putTile c { y with fwd := [] }
  else s.putTile c y

/-- Read and check a descriptor (R81). -/
def State.readDesc (s : State) (w : Who) (slot : BitVec 10) (addr : Nat) : State × Except XlStop (Except FaultInfo Binding) :=
  let bad (k : Cause) : FaultInfo := { cause := k, addr := BitVec.ofNat 56 addr, slot := slot }
  match s.readRun w .rd addr 64 with
  | (s, .error e) => (s, .error e)
  | (s, .ok l) =>
    let d : BitVec 512 := BitVec.ofNat 512 (leNat l)
    match descCheck addr d with
    | some k => (s, .ok (.error (bad k)))
    | none => (s, .ok (.ok (mkBinding addr d)))

/-- Put a binding in place of a slot's present one (R103); the fault of a write-back leaves the present one. A slot that is not
bound takes it: tiles that an earlier task left under the slot's name stay, and may hit (R89, R359). (log 20 DEDUCED) -/
def State.rebind (s : State) (c : Nat) (t : Task) (slot : BitVec 10) (b : Binding) : State × Option FaultInfo :=
  let keep := match t.binding slot with
    | some old => compatible old.d b.d
    | none => false
  if (t.binding slot).isNone then (s.modTask c fun t => t.bindSlot slot b, none)
  else if keep then (((s.slotTiles c t slot).foldl (State.moveTile c b) s).modTask c fun t => t.bindSlot slot b, none)
  else
    match s.clearSlot c t slot with
    | (s, none) => (s.modTask c fun t => t.bindSlot slot b, none)
    | r => r

def execTbind (o : SlotAddr) (s : State) : Host.Outcome State Fault Refusal :=
  s.runWord true fun env s =>
    let c := s.cur.core
    match (s.task c).map fun t => (t, t.anyParked .a || s.slotBusy c t o.slot) with
    | some (t, false) =>
      if s.wordBehind c t env [(aAddr env.s o.sa o.imm, 64)] then .wait s else
      match s.readDesc (t.whoAs c .a) o.slot (aAddr env.s o.sa o.imm) with
      | (s, .error e) => Eff.ofStop s e
      | (s, .ok (.error f)) => .fault s f
      | (s, .ok (.ok b)) =>
        match (s.acquire (.strand c .a) .module).rebind c t o.slot b with
        | (s, none) => .done s
        | (s, some f) => .fault s f
    | _ => .wait s

def execTunb (o : SlotOp) (s : State) : Host.Outcome State Fault Refusal :=
  s.runWord false fun _ s =>
    let c := s.cur.core
    match (s.task c).map fun t => (t, t.anyParked .a || s.slotBusy c t o.slot) with
    | some (t, false) =>
      if (t.binding o.slot).isNone then .done s
      else
        match s.clearSlot c t o.slot with
        | (s, none) => .done (s.modTask c fun t => t.unbindSlot o.slot)
        | (s, some f) => .fault s f
    | _ => .wait s

/-! ## TVACQ, TVBUMP (R294, R295, R104) -/

def unbound (slot : BitVec 10) : FaultInfo := { cause := .slotUnbound, slot := slot }

/-- TVACQ: it reads VERSION, and again after each change to its line, until it is not older than the minimum. -/
def execTvacq (o : TvacqOp) (s : State) : Host.Outcome State Fault Refusal :=
  s.runWord true fun env s =>
    let c := s.cur.core
    match s.task c with
    | none => .wait s
    | some t =>
      if t.anyParked .a || (t.strand .a).phase = .rereading then .wait s
      else
        match t.binding o.slot with
        | none => .fault s (unbound o.slot)
        | some b =>
          let v : BitVec 32 := (sget env.s o.sa).setWidth 32 + o.imm
          if s.wordBehind c t env [(b.addr.toNat + 12, 4)] then .wait s else
          match s.readNat (t.whoAs c .a) (b.addr.toNat + 12) 4 with
          | (s, .error e) => Eff.ofStop s e
          | (s, .ok n) =>
            if olderVer (BitVec.ofNat 32 n) v then
              .wait (s.modTask c fun t => t.setStrand .a { t.strand .a with phase := .rereading })
            else .done ((s.modTask c fun t => t.bindSlot o.slot { b with av := v }).acquire (.strand c .a) o.scope)

/-- VERSION_REREAD (R294): a waiting TVACQ reads again. -/
def execVersionReread (s : State) : Host.Outcome State Fault Refusal :=
  let c := s.input.unit
  .next (s.modTask c fun t =>
    if (t.strand .a).phase = .rereading then t.setStrand .a { t.strand .a with phase := .begun } else t)

/-- What the core's strands have written through tiles is visible at a scope (R104, R124). -/
def State.showTiles (s : State) (c : Nat) (k : Scope) : State :=
  let here (a : Agent) : Bool := match a with
    | .strand d _ => d == c
    | .pilot _ => false
  s.showIn (.strand c .a) k ((s.order.events.filter fun e => e.tile && e.writer.any here).map (·.id))
/-- TVBUMP: the write-backs, then an atomic add of 1 to VERSION as a release, after every access of the strand's earlier runs
(R120, R124, R295). -/
def execTvbump (o : TvbumpOp) (s : State) : Host.Outcome State Fault Refusal :=
  s.runWord false fun _ s =>
    let c := s.cur.core
    match s.task c with
    | none => .wait s
    | some t =>
      if t.anyParked .a || t.gens.any fun g => g.2.active then .wait s
      else
        match t.binding o.slot with
        | none => .fault s (unbound o.slot)
        | some b =>
          match s.writeBackAll c (s.slotTiles c t o.slot) with
          | (s, some f) => .fault s f
          | (s, none) =>
            match (s.showTiles c o.scope).atomic { t.whoAs c .a with rel := some o.scope } (b.addr.toNat + 12) 4 (.amo .add 4 1)
              (fun v => some ((v + 1) % 2 ^ 32)) with
            | (s, .error e) => Eff.ofStop s e
            | (s, .ok _) => .done s

/-! ## TFILL, TPIN (R296, R297, R92) -/

/-- The use of a word that fills a tile without reading its elements: it ends no stream-through (R93). -/
def fillUse (core : Nat) (slot : BitVec 10) (k : BitVec 128) : TileUse := { core := core, slot := slot, k := k, write := true }

/-- The check of a word that names one tile of its own cache and wants it filled. -/
def checkFill (slot : BitVec 10) (k : Env → BitVec 128) (env : Env) (s : State) (c : Nat) (t : Task) : State × Named :=
  match t.binding slot with
  | none => (s, .fault (tileFault .slotUnbound slot (k env)))
  | some _ => (s, .uses [fillUse c slot (k env)])

def tfillWord (o : TileOp) : TileWord where
  check := checkFill o.slot fun env => kget env.k o.k
  act := fun env s c t _ =>
    .done (s.modTile c ⟨t.asid, o.slot, kget env.k o.k⟩ fun x =>
      { x with strm := ((t.binding o.slot).map (·.strm)).getD x.strm })
def execTfill (o : TileOp) (s : State) : Host.Outcome State Fault Refusal := s.runTiles (.tfill o) (tfillWord o)

/-- The status of R92 for a resident tile; where both limits are reached, which the spec leaves open, 1.
(log 63 DESIGN CHOICE) -/
def pinStatus (k : Core) (n : TileName) : Nat :=
  if (k.tile n).any (·.pinned) then 0
  else if 256 ≤ (k.tiles.filter (·.pinned)).length then 1
  else if 15 ≤ ((k.inSet (tileSet n.slot n.k)).filter (·.pinned)).length then 2 else 0

/-- An access that a word of a strand makes at issue or parked, through the L1D (R433). -/
def Task.whoWord (t : Task) (c : Nat) (env : Env) : Who := { t.whoAs c env.eng with place := some (env.runs, env.epoch, env.path) }

/-- TPIN (R92, R297): where its status store faults the pin stands, and the restart point follows the word. -/
def tpinWord (o : TpinOp) : TileWord where
  check := checkFill o.slot fun env => kget env.k o.k
  act := fun env s c t _ =>
    let n : TileName := ⟨t.asid, o.slot, kget env.k o.k⟩
    let st := pinStatus (s.core c) n
    let s1 := if st = 0 then s.modTile c n fun x => { x with pinned := true } else s
    if o.sa = 0 then .done s1
    else if s.wordBehind c t env [(aAddr env.s o.sa o.imm, 4)] then .wait
    else
      match s1.writeRun (t.whoWord c env) .wr (aAddr env.s o.sa o.imm) (leBytes 4 st) with
      | (s2, none) => .done s2
      | (_, some (.refused va)) => .refused (s.refusedAt va)
      | (s2, some e) => .fault s2 { e.info with after := true }
def execTpin (o : TpinOp) (s : State) : Host.Outcome State Fault Refusal := s.runTiles (.tpin o) (tpinWord o)

/-! ## TUNPIN, THINT, TWB, TINV (R296, R298) -/

/-- Run a word on one tile of a bound slot that fills nothing; it waits for a parked word of its strand that writes the
tile, and where `reads`, for one that reads it (R96). -/
def State.tileWord (s : State) (slot : BitVec 10) (k : KReg) (f : State → Nat → Task → TileName → Eff) :
    Host.Outcome State Fault Refusal :=
  s.runWord true fun env s =>
    let c := s.cur.core
    match s.task c with
    | none => .wait s
    | some t =>
      if t.clash .a none [{ core := c, slot := slot, k := kget env.k k }] then .wait s
      else if (t.binding slot).isNone then .fault s (tileFault .slotUnbound slot (kget env.k k))
      else f s c t ⟨t.asid, slot, kget env.k k⟩

/-- Run a word on every resident tile of a bound slot. -/
def State.slotWord (s : State) (slot : BitVec 10) (f : State → Nat → Task → Eff) : Host.Outcome State Fault Refusal :=
  s.runWord false fun _ s =>
    let c := s.cur.core
    match s.task c with
    | none => .wait s
    | some t =>
      if t.replay.any fun w => w.env.eng == .a && w.uses.any fun u => u.slot == slot && u.write then .wait s
      else if (t.binding slot).isNone then .fault s (unbound slot)
      else f s c t

def Tile.unpin (x : Tile) : Tile := { x with pinned := false }
def execTunpin (o : TileOp) (s : State) : Host.Outcome State Fault Refusal :=
  s.tileWord o.slot o.k fun s c _ n => .done (s.modTile c n Tile.unpin)
/-- (log 13 DEDUCED) -/
def execTunpinSlot (o : TileOp) (s : State) : Host.Outcome State Fault Refusal :=
  s.slotWord o.slot fun s c t =>
    .done ((s.slotTiles c t o.slot).foldl (fun s x => s.modTile c x.name Tile.unpin) s)

/-- A tile's hint (R93). -/
def Tile.hint (h : Hint) (x : Tile) : Tile :=
  match h with
  | .norm => { x with strm := false, class0 := false }
  | .strm => { x with strm := true, class0 := false }
  | .lu => { x with class0 := true }
def execThint (o : ThintOp) (s : State) : Host.Outcome State Fault Refusal :=
  s.tileWord o.slot o.k fun s c _ n => .done (s.modTile c n (Tile.hint o.hint))
/-- (log 13 DEDUCED) -/
def execThintSlot (o : ThintSlotOp) (s : State) : Host.Outcome State Fault Refusal :=
  s.slotWord o.slot fun s c t =>
    match t.binding o.slot with
    | none => .wait s
    | some b => .done (s.modTask c fun t => t.bindSlot o.slot { b with strm := o.strm })

/-- Write tiles back at a word (R101, R102). -/
def State.wbWord (s : State) (c : Nat) (l : List Tile) : Eff :=
  match s.writeBackAll c l with
  | (s, none) => .done s
  | (s, some f) => .fault s f
def execTwb (o : TileOp) (s : State) : Host.Outcome State Fault Refusal :=
  s.tileWord o.slot o.k fun s c t n =>
    if t.anyParked .a then .wait s else s.wbWord c ((s.core c).tile n).toList
/-- (log 13 DEDUCED) -/
def execTwbSlot (o : TileOp) (s : State) : Host.Outcome State Fault Refusal :=
  s.slotWord o.slot fun s c t =>
    if t.anyParked .a then .wait s else s.wbWord c (s.slotTiles c t o.slot)

/-- Discard tiles with the faults that recalls of them left pending (R298). -/
def State.discard (s : State) (c : Nat) (l : List Tile) : State :=
  (s.dropTiles c l).modTask c fun t =>
    { t with recalls := t.recalls.filter fun f => !(l.any fun x =>
        x.held.isSome && x.name.slot == f.slot && x.name.k == f.k) }
def execTinv (o : TileOp) (s : State) : Host.Outcome State Fault Refusal :=
  s.tileWord o.slot o.k fun s c t n =>
    if t.anyParked .a || s.tileBusy c n.slot n.k then .wait s else .done (s.discard c ((s.core c).tile n).toList)
/-- (log 13 DEDUCED) -/
def execTinvSlot (o : TileOp) (s : State) : Host.Outcome State Fault Refusal :=
  s.slotWord o.slot fun s c t =>
    if t.anyParked .a || s.slotBusy c t o.slot then .wait s else .done (s.discard c (s.slotTiles c t o.slot))

/-! ## TZERO, TCOPY (R299, R300) -/

/-- The use of a destination tile: filled first only in the KV-paged layout (R299); otherwise its coordinates are checked
here. -/
def destUse (c : Nat) (b : Binding) (slot : BitVec 10) (k : BitVec 128) : Except FaultInfo TileUse :=
  if b.d.layout != 3 && tileOut b.d (b.d.extents 0) k then .error (tileFault .tileBounds slot k)
  else .ok { core := c, slot := slot, k := k, write := true, fill := b.d.layout == 3 }

def tzeroWord (o : TileOp) : TileWord where
  check := fun env s c t =>
    match t.binding o.slot with
    | none => (s, .fault (tileFault .slotUnbound o.slot (kget env.k o.k)))
    | some b =>
      match destUse c b o.slot (kget env.k o.k) with
      | .error f => (s, .fault f)
      | .ok u => (s, .uses [u])
  act := fun env s c t l =>
    match t.binding o.slot with
    | none => .wait
    | some b =>
      if s.wordBehind c t env (s.tilePlaces (t.who c) t o.slot (kget env.k o.k)) then .wait
      else s.writeTiles c t b l fun _ _ _ => some 0
def execTzero (o : TileOp) (s : State) : Host.Outcome State Fault Refusal := s.runTiles (.tzero o) (tzeroWord o)

def copyCore (o : TcopyOp) (c : Nat) (t : Task) : Nat :=
  match o.peer with
  | some r => c - t.rank + r.toNat
  | none => c

def tcopyWord (o : TcopyOp) : TileWord where
  check := fun env s c t =>
    let sk := kget env.k o.sk
    let dk := kget env.k o.dk
    if t.peerBad o.peer then (s, .fault { cause := .reservedField })
    else
      match t.binding o.dslot, t.binding o.sslot with
      | none, _ => (s, .fault (tileFault .slotUnbound o.dslot dk))
      | _, none => (s, .fault (tileFault .slotUnbound o.sslot sk))
      | some d, some b =>
        if d.d.ty != b.d.ty || d.d.shape != b.d.shape then (s, .fault { cause := .operandType })
        else if !s.peerBound c (copyCore o c t) o.sslot b then (s, .fault (tileFault .peerSlotMismatch o.sslot sk))
        else
          match destUse c d o.dslot dk with
          | .error f => (s, .fault f)
          | .ok u => (s, .uses [{ core := copyCore o c t, slot := o.sslot, k := sk, lu := o.lu }, u])
  act := fun env s c t l =>
    match t.binding o.dslot, t.binding o.sslot with
    | some d, some b =>
      if s.wordBehind c t env (s.tilePlaces (t.who c) t o.dslot (kget env.k o.dk)) then .wait else
      let src : Slab := ⟨o.sslot, kget env.k o.sk, b.d.shape.1, b.d.shape.2⟩
      let v := s.view t (copyCore o c t) b.d src l
      s.writeTiles c t d (l.drop 1) fun _ r col => some (v.bits r col)
    | _, _ => .wait
def execTcopy (o : TcopyOp) (s : State) : Host.Outcome State Fault Refusal := s.runTiles (.tcopy o) (tcopyWord o)

/-! ## TPREF (R301, R94) -/

/-- (log 20 DEDUCED, 53 DEDUCED) -/
def execTpref (o : TprefOp) (s : State) : Host.Outcome State Fault Refusal :=
  s.runWord true fun env s =>
    let c := s.cur.core
    match s.task c with
    | none => .wait s
    | some t =>
      if (t.binding o.slot).isNone then .fault s (unbound o.slot)
      else if 4 ≤ t.itins.length then .wait s
      else
        let a := aAddr env.s o.sa o.imm
        let n := o.n.toNat + 1
        if s.wordBehind c t env [(a - a % 16, 16 * n)] then .wait s else
        match s.readRun (t.whoAs c .a) .rd (a - a % 16) (16 * n) with
        | (s, .error e) => Eff.ofStop s e
        | (s, .ok l) =>
          let ks := (List.range n).map fun i => BitVec.ofNat 128 (leNat ((l.drop (16 * i)).take 16))
          .done (s.modTask c fun t => { t with itins := t.itins ++ [⟨o.slot, ks, env.runs, env.epoch, env.path⟩] })

end Sys2Proof.Machine
end

