-- ==== Sys2Proof/Machine/Gen.lean ====
section
/-! DEFINITION. Generator and index words (11, R302 to R316) and the entries that the runs push and drain by themselves. -/

namespace Sys2Proof.Machine

def Task.gen (t : Task) (g : Nat) : Gen := SMap.look {} t.gens g
def Task.setGen (t : Task) (g : Nat) (x : Gen) : Task := { t with gens := SMap.put {} t.gens g x }

/-! ## GSET (R302, R303) -/

/-- The check of a record. (log 29 DEDUCED) -/
def genRecordBad (p : BitVec 256) : Option Cause :=
  if bits p 63 61 != 0 then some .reservedField
  else
    match genTy p with
    | none => some .descriptorInvalid
    | some t => if t.width < 8 then some .descriptorInvalid else none

/-- GSET; the addresses of the runs it sets depend on what it read (R120). (log 29 DEDUCED) -/
def execGset (o : GsetOp) (s : State) : Host.Outcome State Fault Refusal :=
  s.runWord true fun env s =>
    let c := s.cur.core
    let a := aAddr env.s o.sa o.imm
    match (s.task c).map fun t => (t, (t.gen o.g.toNat).active || s.wordBehind c t env [(a, 32)]) with
    | some (t, false) =>
      if a % 32 != 0 then .fault s { cause := .descriptorInvalid, addr := BitVec.ofNat 56 a }
      else
        match s.readNat (t.whoAs c .a) a 32 with
        | (s, .error e) => Eff.ofStop s e
        | (s, .ok v) =>
          match genRecordBad (BitVec.ofNat 256 v) with
          | some k => .fault s { cause := k, addr := BitVec.ofNat 56 a }
          | none => .done ((s.acquire (.strand c .a) .module).modTask c fun t => { t with g := SMap.put 0 t.g o.g.toNat (BitVec.ofNat 256 v) })
    | _ => .wait s

/-! ## Starting and stopping runs (R304, R306 to R309) -/

/-- A run cannot start while its generator runs or is halted, or another run uses its queue (R304). -/
def Task.genBusy (t : Task) (g q : Nat) : Bool :=
  (t.gen g).active || t.gens.any fun x => x.2.active && x.2.queue == q

/-- Start a run, or go on with a stopped one; a run with nothing left is over at once. -/
def State.startRun (s : State) (c g : Nat) (x : Gen) : Eff :=
  if x.kind.count ≤ x.entry then .done (s.modTask c fun t => t.setGen g {})
  else
    match s.task c with
    | none => .wait s
    | some t =>
      let n := t.runs + 1
      .pend (s.setTask c ({ t with runs := n }.setGen g { x with mode := .running, run := n, retry := none })) [.run g n]

/-- GRUN and GSTO. -/
def State.nestRun (s : State) (load : Bool) (g : BitVec 4) (q : Nat) (row cont : Bool) :
    Host.Outcome State Fault Refusal :=
  s.runWord false fun env s =>
    let c := s.cur.core
    match (s.task c).map fun t => (t, t.genBusy g.toNat q) with
    | some (t, false) =>
      let x := t.gen g.toNat
      let fresh : Gen := { kind := .nest (SMap.look 0 t.g g.toNat) row }
      let y := if cont && x.mode == .stopped then x else fresh
      s.startRun c g.toNat { y with load := load, queue := q, pc := env.pc }
    | _ => .wait s

/-- (log 29 DEDUCED) -/
def execGrun (o : GrunOp) (s : State) : Host.Outcome State Fault Refusal := s.nestRun true o.g o.q.toNat o.row o.cont
def execGsto (o : GstoOp) (s : State) : Host.Outcome State Fault Refusal :=
  s.nestRun false o.g (8 + o.w.toNat) o.row o.cont

/-- GSTOP of one generator (R308); none while a store run's entry is being drained. The word's signal is not applied.
(log 29 DEDUCED) -/
def Task.stopRun (t : Task) (g : Nat) : Option Task :=
  let x := t.gen g
  if !x.active then some t
  else if !x.load && x.mode == .running && x.elem != 0 then none
  else
    let y := { x with mode := .stopped, elem := if x.load then 0 else x.elem, part := if x.load then 0 else x.part }
    some { t.setGen g y with sigs := t.sigs.filter fun p => !p.until_.contains (.run g x.run) }

def execGstop (o : GOp) (s : State) : Host.Outcome State Fault Refusal :=
  s.runWord false fun _ s =>
    match (s.task s.cur.core).bind fun t => t.stopRun o.g.toNat with
    | some t => .done (s.setTask s.cur.core t)
    | none => .wait s

/-- Stop every run of a list of generators. -/
def Task.stopRuns (t : Task) : List Nat → Option Task
  | [] => some t
  | g :: l => (t.stopRun g).bind fun t => t.stopRuns l

def execQclr (o : QclrOp) (s : State) : Host.Outcome State Fault Refusal :=
  s.runWord false fun _ s =>
    let users (t : Task) : List Nat := (t.gens.filter fun g => g.2.active && g.2.queue == o.q.toNat).map (·.1)
    match (s.task s.cur.core).bind fun t => t.stopRuns (users t) with
    | some t => .done (s.setTask s.cur.core { t with q := SMap.put [] t.q o.q.toNat [] })
    | none => .wait s

/-! ## Index registers (R311 to R313) -/

def Task.index (t : Task) (i : Nat) : IndexReg := SMap.look {} t.i i
def Task.setIndex (t : Task) (i : Nat) (x : IndexReg) : Task := { t with i := SMap.put {} t.i i x }

/-- An index register holding a list. -/
def indexOf (l : List (BitVec 32)) (bound : BitVec 32) (mark : Option (Va × BitVec 32)) : IndexReg :=
  ⟨SMap.ofVals 0 l, l.length, bound, mark⟩

/-- LDX (R312). Entries from LEN up keep their values. -/
def execLdx (o : LdxOp) (s : State) : Host.Outcome State Fault Refusal :=
  s.runWord true fun env s =>
    let c := s.cur.core
    let n := (sget env.s o.sb).toNat
    let a := (sget env.s o.sa).toNat % 2 ^ 56
    if 256 < n then .fault s { cause := .indexOverflow }
    else
      match (s.task c).map fun t => (t, s.wordBehind c t env [(a, 4 * n)]) with
      | some (t, false) =>
        match s.readRun (t.whoAs c .a) .rd a (4 * n) with
        | (s, .error e) => Eff.ofStop s e
        | (s, .ok l) =>
          .done (s.modTask c fun t =>
            let old := t.index o.i.toNat
            let vals := (List.range n).map fun k => BitVec.ofNat 32 (leNat ((l.drop (4 * k)).take 4))
            let rest := (SMap.vals 0 256 old.ent).drop n
            t.setIndex o.i.toNat ⟨SMap.ofVals 0 (vals ++ rest), n, o.bound, none⟩)
      | _ => .wait s

/-- Live positions of block entries, each with its frame slot and its position; the error is a cause (R313). Each entry is
read as an acquire at module scope. -/
def State.readBlocks (s : State) (w : Who) (bt : Nat) : List Nat →
    State × Except XlStop (Except FaultInfo (List (BitVec 32 × BitVec 32)))
  | [] => (s, .ok (.ok []))
  | b :: l =>
    let a := (bt + 16 * b) % 2 ^ 56
    match s.readNat w a 16 with
    | (s, .error e) => (s, .error e)
    | (s, .ok e) =>
      let s := match w.agent with
        | some a => s.acquire a .module
        | none => s
      let st := field e 55 54
      let cnt := field e 63 56
      if st = 3 || (st = 1 && (cnt = 0 || 64 < cnt)) || field e 127 96 != 0 then
        (s, .ok (.error { cause := .reservedField, addr := BitVec.ofNat 56 a }))
      else
        match s.readBlocks w bt l with
        | (s, .ok (.ok r)) =>
          let mine := if st = 1 then (List.range cnt).map fun k =>
              (BitVec.ofNat 32 (field e 31 0 * 64 + k), BitVec.ofNat 32 (field e 95 64 + k)) else []
          (s, .ok (.ok (mine ++ r)))
        | r => r

/-- The blocks that R313 reads: from b0, nb of them, those below NBLK. -/
def blockRange (v : Word) (nblk : Nat) : List Nat :=
  (List.range (min (bits v 63 32) (nblk - bits v 31 0))).map (· + bits v 31 0)

/-- LDX.bt (R313); a reserved bit of the descriptor faults RESERVED_FIELD (R139, R2), before the alignment of BTADDR, a place
that the spec gives no order. (log 64 DESIGN CHOICE) -/
def execLdxBt (o : LdxBtOp) (s : State) : Host.Outcome State Fault Refusal :=
  s.runWord true fun env s =>
    let c := s.cur.core
    let a := (sget env.s o.sa).toNat % 2 ^ 56
    let bad (k : Cause) : FaultInfo := { cause := k, addr := BitVec.ofNat 56 a }
    match (s.task c).map fun t => (t, s.wordBehind c t env [(a, 64)]) with
    | some (t, false) =>
      if a % 64 != 0 then .fault s (bad .descriptorInvalid)
      else
        match s.readNat (t.whoAs c .a) a 64 with
        | (s, .error e) => Eff.ofStop s e
        | (s1, .ok d) =>
          let bt := field d 55 0
          let l := blockRange (sget env.s o.sb) (field d 127 96)
          if seqReserved (BitVec.ofNat 512 d) then .fault s1 (bad .reservedField)
          else if bt % 16 != 0 then .fault s1 (bad .descriptorInvalid)
          else if s.wordBehind c t env (l.map fun b => ((bt + 16 * b) % 2 ^ 56, 16)) then .wait s
          else
            match s1.readBlocks (t.whoAs c .a) bt l with
            | (s, .error e) => Eff.ofStop s e
            | (s, .ok (.error f)) => .fault s f
            | (s, .ok (.ok l)) =>
              if 256 < l.length then .fault s (bad .indexOverflow)
              else
                .done (s.modTask c fun t =>
                  let mark := (BitVec.ofNat 56 a, BitVec.ofNat 32 (field d 447 416))
                  let t := t.setIndex o.i.toNat (indexOf (l.map (·.1)) o.bound (some mark))
                  if o.pos then t.setIndex (o.i.toNat + 1) (indexOf (l.map (·.2)) 0x80000000 none) else t)
    | _ => .wait s

/-! ## GATHER, SCATTER (R314 to R316) -/

def IndexReg.list (x : IndexReg) : List (BitVec 32) := (SMap.vals 0 256 x.ent).take x.len
def IndexReg.valid (x : IndexReg) (v : BitVec 32) : Bool := !v.msb && v.toNat < x.bound.toNat
/-- The first invalid entry: its index and value. -/
def IndexReg.firstBad (x : IndexReg) : Option (Nat × BitVec 32) :=
  ((List.range x.len).zip x.list).find? fun p => !x.valid p.2

/-- The addresses of a gather or scatter depend on what the index register's loads have read: its accesses go back behind nothing that
was visible then (R120). (log 7 DEDUCED) -/
def State.heedIndex (s : State) (c : Nat) : State :=
  let a : Agent := .strand c .a
  s.floor a (s.seenBy a .module (s.agentView a).tau)
/-- Run a gather or scatter: the checks of R314, RGEN being read as an acquire at module scope, then the run. -/
def State.indexRun (s : State) (load : Bool) (g i : BitVec 4) (q : Nat) (bounds : Bool)
    (kind : Env → List (BitVec 32) → RunKind) : Host.Outcome State Fault Refusal :=
  s.runWord true fun env s =>
    let c := s.cur.core
    match (s.task c).map fun t => (t, t.genBusy g.toNat q) with
    | some (t, false) =>
      let x := t.index i.toNat
      let go (s : State) : Eff :=
        match (if bounds then x.firstBad else none) with
        | some (e, v) =>
          .fault s { cause := .gatherBounds, info := BitVec.ofNat 64 (v.toNat + e * 2 ^ 32), info2 := i.setWidth 64 }
        | none => (s.heedIndex c).startRun c g.toNat { load := load, queue := q, pc := env.pc, kind := kind env x.list }
      match x.mark with
      | none => go s
      | some (a, v) =>
        if s.wordBehind c t env [(a.toNat + 52, 4)] then .wait s
        else
          match s.readNat (t.whoAs c .a) (a.toNat + 52) 4 with
          | (s, .error e) => Eff.ofStop s e
          | (s, .ok n) => if n = v.toNat then go (s.acquire (.strand c .a) .module) else .fault s { cause := .staleIndex, addr := a }
    | _ => .wait s

/-- The rows of `.lin` (R315). -/
def linRows (sa sb : SReg) (ty : ETy) (bytes : BitVec 9) (env : Env) (l : List (BitVec 32)) : RunKind :=
  .rows (l.map fun x => (sget env.s sa + x.setWidth 64 * sget env.s sb).setWidth 56) bytes.toNat ty
/-- The rows of `.paged`. -/
def pagedRows (sa sb : SReg) (ty : ETy) (bytes : BitVec 9) (env : Env) (l : List (BitVec 32)) : RunKind :=
  .rows (l.map fun x => BitVec.ofNat 56 ((sget env.s sa).toNat + x.toNat / 64 * bits (sget env.s sb) 63 32 +
    x.toNat % 64 * bits (sget env.s sb) 31 0)) bytes.toNat ty

def execGatherLin (o : GatherOp) (s : State) : Host.Outcome State Fault Refusal :=
  s.indexRun true o.g o.i o.q.toNat true (linRows o.sa o.sb o.ty o.bytes)
def execGatherPaged (o : GatherOp) (s : State) : Host.Outcome State Fault Refusal :=
  s.indexRun true o.g o.i o.q.toNat true (pagedRows o.sa o.sb o.ty o.bytes)
def execGatherIdx (o : GatherIdxOp) (s : State) : Host.Outcome State Fault Refusal :=
  s.indexRun true o.g o.i o.q.toNat false fun _ l => .idx l
def execScatterLin (o : ScatterOp) (s : State) : Host.Outcome State Fault Refusal :=
  s.indexRun false o.g o.i (8 + o.w.toNat) true (linRows o.sa o.sb o.ty o.bytes)
def execScatterPaged (o : ScatterOp) (s : State) : Host.Outcome State Fault Refusal :=
  s.indexRun false o.g o.i (8 + o.w.toNat) true (pagedRows o.sa o.sb o.ty o.bytes)

/-! ## What the runs do by themselves -/

/-- A run is over: its generator is idle, and a `vis` signal waits for the run's writes that are on their way (R291). -/
def State.endRun (s : State) (c g : Nat) (x : Gen) : State :=
  s.modTask c fun t =>
    { t.setGen g {} with sigs := t.sigs.map fun p =>
        if p.clause.pt = .vis && p.until_.contains (.run g x.run) then
          { p with until_ := p.until_.filter (· != .run g x.run) ++ s.inFlight p.ids }
        else p }

/-- A run halts at an element (R310): its record is written in kernel class; the task runs on. -/
def State.haltRun (s : State) (c g : Nat) (x : Gen) (p : Part) (e : XlStop) : State :=
  match s.task c with
  | none => s
  | some t =>
    let f := { e.info with
      origin := 3, strand := some .a, pc := x.pc, addr := BitVec.ofNat 56 p.va, info := BitVec.ofNat 64 p.counters
      info2 := BitVec.ofNat 64 (g + 16 * x.queue) }
    { s.setTask c (t.setGen g { x with mode := .halted, retry := none }) with
      records := s.records ++ [taskRecord c t f 1 f.cause.isUser true] }

/-- The remote timeout of a task's context in ticks of the Chronometer (R389); a kernel core's task has the default. -/
def State.rtmoOf (s : State) (t : Task) : Nat :=
  match t.ctx with
  | some n => (s.ctx n).rtmoTicks
  | none => 1000000
/-- A write of a run is refused (R433): it goes again when its gap is over, and MIGRATION_BUSY once RTMO has passed. -/
def State.deferRun (s : State) (c g : Nat) (x : Gen) (p : Part) (va : Nat) : State :=
  match s.task c with
  | none => s
  | some t =>
    let now := s.now (dieOf c)
    if Retry.over x.retry now (s.rtmoOf t) then s.haltRun c g x p (.refused va)
    else s.setTask c (t.setGen g { x with retry := some (Retry.again x.retry now (BitVec.ofNat 56 va)) })

/-- Read the rest of an entry into `part`. -/
def State.loadParts (s : State) (c g : Nat) (w : Who) (x : Gen) : List Part → State × Except Unit Gen
  | [] => (s, .ok x)
  | p :: l =>
    match s.readRun w .rd p.va p.size with
    | (s, .error e) => (s.haltRun c g x p e, .error ())
    | (s, .ok b) => s.loadParts c g w { x with
        elem := x.elem + 1, part := x.part ||| BitVec.ofNat 2048 (leNat b * 2 ^ (8 * p.off)) } l

/-- GENERATOR_LOAD_ENTRY: the entry is read and pushed when the queue has room. -/
def execGeneratorLoadEntry (s : State) : Host.Outcome State Fault Refusal :=
  let c := s.input.unit
  let g := s.input.idx
  match s.task c with
  | none => .next s
  | some t =>
    let x := t.gen g
    let ps := (x.kind.parts x.entry).drop x.elem
    if !x.load || x.mode != .running || 16 ≤ (SMap.look [] t.q x.queue).length || s.runBehind c t x ps then .next s
    else
      match s.loadParts c g (t.whoAs c .a) x ps with
      | (s, .error _) => .next s
      | (s, .ok y) =>
        let v : Vec := y.part ||| x.kind.base x.entry
        let s := s.modTask c fun t => { t with q := SMap.put [] t.q x.queue (SMap.look [] t.q x.queue ++ [v]) }
        if x.entry + 1 < x.kind.count then
          .next (s.modTask c fun t => t.setGen g { x with entry := x.entry + 1, elem := 0, part := 0 })
        else .next (s.endRun c g x)

/-- Write the rest of an entry, element by element. -/
def State.storeParts (s : State) (c g : Nat) (w : Who) (x : Gen) (v : Vec) : List Part → State × Except Unit Gen
  | [] => (s, .ok x)
  | p :: l =>
    match s.writeRun w .wr p.va (leBytes p.size (v.toNat / 2 ^ (8 * p.off))) with
    | (s, some (.refused a)) => (s.deferRun c g x p a, .error ())
    | (s, some e) => (s.haltRun c g x p e, .error ())
    | (s, none) => s.storeParts c g w { x with elem := x.elem + 1, retry := none } v l

/-- Write the rest of an entry of a store run, and pop it. -/
def State.storeEntry (s : State) (c g : Nat) (t : Task) (x : Gen) (v : Vec) (rest : List Vec) (ps : List Part) : State :=
  let w : Who := { t.whoAs c .a with place := some (x.run, 0, 0) }
  let ids (u : State) : List Nat := u.wroteSince s.order.next (some (.strand c .a))
  match s.storeParts c g w x v ps with
  | (u, .error _) => u.modTask c fun t => t.addIds (.run g x.run) (ids u)
  | (u, .ok _) =>
    let u := u.modTask c fun t => { t.addIds (.run g x.run) (ids u) with q := SMap.put [] t.q x.queue rest }
    if x.entry + 1 < x.kind.count then u.modTask c fun t => t.setGen g { x with entry := x.entry + 1, elem := 0, retry := none }
    else u.endRun c g x
/-- GENERATOR_STORE_ENTRY: the head entry is written and popped. -/
def execGeneratorStoreEntry (s : State) : Host.Outcome State Fault Refusal :=
  let c := s.input.unit
  let g := s.input.idx
  match s.task c with
  | none => .next s
  | some t =>
    let x := t.gen g
    let ps := (x.kind.parts x.entry).drop x.elem
    match SMap.look [] t.q x.queue with
    | [] => .next s
    | v :: rest =>
      if x.load || x.mode != .running || Retry.early x.retry (s.now (dieOf c)) || s.runBehind c t x ps ||
          s.stalled c then .next s
      else .next (s.aside (.strand c .a) fun s => s.storeEntry c g t x v rest ps)

end Sys2Proof.Machine
end

