-- ==== Sys2Proof/Machine/JobSteps.lean ====
section
/-! DEFINITION. What the copy engines, the Sextant engines and the span machinery do (12, R342 to R346; 06, R139 to R162):
each job is performed as one step, its writes visible at module scope when it ends (R131, R148). -/

namespace Sys2Proof.Machine

/-! ## Running a job -/

/-- What a job's work comes to: it ends; an access at its element `n` is refused (R433), with the state that a fault there
would leave; or it waits (R153). -/
inductive Ran where
  | done (s : State) (e : JobEnd)
  | refused (s : State) (f : FaultInfo) (n : Nat)
  | wait

/-- (log 34 DEDUCED) -/
def Ran.status (s : State) (st : Nat) : Ran := .done s (.completed st 0 0)
def Ran.ofStop (s : State) (x : XlStop) (n : Nat) : Ran :=
  match x with
  | .refused va => .refused s (XlStop.info (.refused va)) n
  | x => .done s (.faulted x.info n)
def Ran.of (x : Except Ran Ran) : Ran :=
  match x with
  | .ok r => r
  | .error r => r

/-- An access of a job, or its completion record, is refused: the job goes again, until RTMO has passed (R433). -/
def State.tryJob (s : State) (j : Job) (late : Unit → State) : State :=
  let now := s.now j.die
  if Retry.over j.retry now (s.ctx j.ctx).rtmoTicks then late () else s.setJob { j with retry := some (Retry.again j.retry now 0) }

/-- Run a job's work: the job must be accepted, not ended, and of the kind the step performs.
(log 33 DESIGN CHOICE, 54 DESIGN CHOICE) -/
def State.runJob (s : State) (is : Job → Bool) (work : State → Who → Job → Ran) : Host.Outcome State Fault Refusal :=
  match s.jobs.find? fun j => j.seq == s.input.unit && j.code == 0 && is j with
  | none => .next s
  | some j =>
    if Retry.early j.retry (s.now j.die) then .next s
    else
      match work s (s.jobWho j) j with
      | .done s1 e => .next (if s1.recordRefused j then s.tryJob j fun _ => (s1.endJob j e).jobShown s j else (s1.endJob j e).jobShown s j)
      | .wait => .next s
      | .refused s1 f n => .next (s.tryJob j fun _ => (s1.endJob j (.faulted f n)).jobShown s j)

/-! ## Copies and fills (R344) -/

/-- The counters of element `i` in loop order. -/
def nestAt (counts : List Nat) (i : Nat) : List Nat :=
  match counts with
  | [a, b, _] => [i % a, i / a % b, i / (a * b)]
  | _ => []
def nestAddr (base : Nat) (counts : List Nat) (strides : List Int) (i : Nat) : Nat :=
  wrapInt 56 ((base : Int) + (((nestAt counts i).zip strides).map fun x => (x.1 : Int) * x.2).sum)

/-- The elements listed, one after another, to the first that cannot be performed: its index and why. -/
def copyEach (w : Who) (c : BitVec 1024) : List Nat → State → State × Option (Nat × XlStop)
  | [], s => (s, none)
  | i :: l, s =>
    let size := nestSize c
    let src := nestAddr (cardSrc c) (nestCounts c) (srcStrides c) i
    let dst := nestAddr (cardDst c) (nestCounts c) (dstStrides c) i
    match (if cardKind c = 1 then s.readRun w .rd src size
      else (s, .ok (leBytes size (bits c 1023 896)))) with
    | (s, .error e) => (s, some (i, e))
    | (s, .ok b) =>
      match s.writeHome w dst b with
      | (s, some e) => (s, some (i, e))
      | (s, none) => copyEach w c l s

/-- Two elements of a nest of `n` share bytes that at least one of them writes, so that their order can show: R344 lets a
source that is also a destination give its old value or one the job wrote. -/
def orderShows (c : BitVec 1024) (n : Nat) : Bool :=
  let src := nestAddr (cardSrc c) (nestCounts c) (srcStrides c)
  let dst := nestAddr (cardDst c) (nestCounts c) (dstStrides c)
  let near (a b : Nat) : Bool := wrapInt 56 ((a : Int) - b) < nestSize c || wrapInt 56 ((b : Int) - a) < nestSize c
  (List.range n).any fun i => (List.range n).any fun j => i != j &&
    if cardKind c = 1 then near (src i) (dst j) || near (dst i) (dst j) else dst i != dst j && near (dst i) (dst j)

/-- The order of the elements: any where it shows, with those before a faulting element first (R342, R344).
(log 33 DESIGN CHOICE) -/
def copyOrder (s : State) (w : Who) (c : BitVec 1024) (n : Nat) : List Nat :=
  if orderShows c n then
    let k := match (copyEach w c (List.range n) s).2 with
      | none => n
      | some (i, _) => i
    let l := Config.elementOrder s.ctr k
    (if l.isPerm (List.range k) then l else List.range k) ++ (List.range n).drop k
  else List.range n

def footFault (c : BitVec 1024) : FaultInfo := { cause := .footprint, addr := BitVec.ofNat 56 (cardFp c) }

/-- A range outside the footprint ends the job before its first access (R339). -/
def copyWork (s : State) (w : Who) (j : Job) : Ran :=
  let c := j.card
  let src := nestRange (cardSrc c) (nestCounts c) (srcStrides c) (nestSize c)
  let dst := nestRange (cardDst c) (nestCounts c) (dstStrides c) (nestSize c)
  let out := match j.foot with
    | none => false
    | some l => (cardKind c = 1 && !inFoot l false src) || !inFoot l true dst
  if out then .done s (.faulted (footFault c) 0)
  else
    let n := (nestCounts c).foldl (fun a b => a * b) 1
    match copyEach w c (copyOrder s w c n) s with
    | (s, none) => .done s (.completed 0 n 0)
    | (s, some (i, e)) => Ran.ofStop s e i

/-- (log 33 DESIGN CHOICE) -/
def execCopyJob (s : State) : Host.Outcome State Fault Refusal := s.runJob (fun j => cardKind j.card == 1) copyWork
def execFillJob (s : State) : Host.Outcome State Fault Refusal := s.runJob (fun j => cardKind j.card == 2) copyWork

/-! ## Selection (R159 to R162, R345) -/

/-- The parameters break R345 or R159. (log 35 DEDUCED) -/
def selBad (c : BitVec 1024) : Bool :=
  let x := selOf c
  bits c 1023 768 != 0 || bits c 703 672 != 0 || bits c 639 632 != 0 || bits c 575 544 != 0 || bits c 447 403 != 0 ||
    bits c 383 361 != 0 || bits c 319 317 != 0 || !(x.ty matches some .f32 | some .bf16 | some .f16 | some .i32 | some .e4m3) ||
    x.nelem = 0 || 2 ^ 40 < x.nelem || x.src % x.size != 0 || 2 < x.mode || 7 < x.cond ||
    (x.cond = 7 && x.mode = 0 && x.ty != some .i32) || x.out % x.rec_ != 0 || x.cap = 0 ||
    (x.mode != 0 && (x.k = 0 || 1024 < x.k || x.cap < x.k))

/-- An element's or a constant's value for comparison. -/
def selVal (ty : ETy) (b : Nat) : FVal := if ty = .i32 then .fin (exactInt (intVal .i32 b)) else unpack ty false b
/-- The constants stand in f32, or in i32. (log 35 DEDUCED) -/
def constVal (ty : ETy) (b : Nat) : FVal := if ty = .i32 then selVal .i32 b else unpack .f32 false b

/-- The condition of predicate mode (R160). A NaN constant has no value to compare with: free. -/
def Sel.passes (x : Sel) (ctr i : Nat) (ty : ETy) (b : Nat) : Bool :=
  let v := selVal ty b
  let c := constVal ty x.c
  let h := constVal ty x.hi
  if v.isNaN then false
  else if x.cond = 7 then b &&& x.m == x.c
  else if c.isNaN || (x.cond = 6 && h.isNaN) then Config.opaqueByte ctr (2 ^ 62 + i) = 1
  else
    let k := cmpVal v c
    match x.cond with
    | 0 => k == .eq
    | 1 => k != .eq
    | 2 => k == .lt
    | 3 => k != .gt
    | 4 => k == .gt
    | 5 => k != .lt
    | _ => k != .lt && cmpVal v h != .gt

/-- A result record (R160). -/
def Sel.record (x : Sel) (i b : Nat) : List Byte :=
  if x.wide then leBytes 8 b ++ leBytes 8 (x.ibase + i) else leBytes 4 b ++ leBytes 4 (x.ibase + i)

/-- Insert into a list in the order of R161; an equal value goes after those already there. -/
def insertBest (largest : Bool) (e : Nat × Nat × FVal) : List (Nat × Nat × FVal) → List (Nat × Nat × FVal)
  | [] => [e]
  | y :: t =>
    let better := if largest then cmpVal e.2.2 y.2.2 == .gt else cmpVal e.2.2 y.2.2 == .lt
    if better then e :: y :: t else y :: insertBest largest e t
/-- The best `k` elements in order. -/
def bestOf (largest : Bool) (k : Nat) (l : List (Nat × Nat × FVal)) : List (Nat × Nat × FVal) :=
  l.foldl (fun acc e => (insertBest largest e acc).take k) []

/-- Write records from an address up. -/
def State.writeRecords (s : State) (w : Who) : Nat → List (List Byte) → State × Option XlStop
  | _, [] => (s, none)
  | a, r :: l =>
    match s.writeHome w (a % 2 ^ 56) r with
    | (s, some e) => (s, some e)
    | (s, none) => s.writeRecords w (a + r.length) l

def selectElems (s : State) (w : Who) (x : Sel) (ty : ETy) (b : List Byte) : Ran :=
  let a := (b.toArray)
  let elem (i : Nat) : Nat := leNat ((List.range x.size).map fun k => a.getD (i * x.size + k) 0)
  let all := (List.range x.nelem).map fun i => (i, elem i)
  if x.mode = 0 then
    let hits := all.filter fun e => x.passes s.ctr e.1 ty e.2
    match s.writeRecords w x.out ((hits.take x.cap).map fun e => x.record e.1 e.2) with
    | (s, some e) => Ran.ofStop s e 0
    | (s, none) => .done s (.completed (if x.cap < hits.length then 8 else 0) hits.length 0)
  else
    let vals := (all.map fun e => (e.1, e.2, selVal ty e.2)).filter fun e => !e.2.2.isNaN
    let best := bestOf (x.mode == 1) x.k vals
    match s.writeRecords w x.out (best.map fun e => x.record e.1 e.2.1) with
    | (s, some e) => Ran.ofStop s e 0
    | (s, none) => .done s (.completed (if best.length < x.k then 9 else 0) best.length 0)

/-- Whether some page of a run is another module's, or lies above HBM, which the model takes for none of the module's own memory
too; the spec does not say. (log 68 DESIGN CHOICE) -/
def State.anyAway (s : State) (w : Who) (a n : Nat) : Bool :=
  (List.range ((a % 4096 + n + 4095) / 4096)).any fun i =>
    match (s.xl w ((a / 4096 * 4096 + 4096 * i) % 2 ^ 56) .rd).2 with
    | .remote _ => true
    | .ok pa => hbmEnd ≤ pa
    | _ => false

/-- (log 35 DEDUCED) -/
def selectWork (s : State) (w : Who) (j : Job) : Ran :=
  let x := selOf j.card
  let n := x.nelem * x.size
  let out := match j.foot with
    | none => false
    | some l => !inFoot l false (x.src, n) || !inFoot l true (x.out, x.room * x.rec_)
  if selBad j.card then Ran.status s 11
  else if s.anyAway w x.src n then Ran.status s 12
  else if 2 ^ (if x.wide then 64 else 32) < x.ibase + x.nelem then Ran.status s 10
  else if out then .done s (.faulted (footFault j.card) 0)
  else
    match s.readRun w .rd x.src n with
    | (s, .error e) => Ran.ofStop s e 0
    | (s, .ok b) => selectElems s w x (x.ty.getD .f32) b

def execSelectJob (s : State) : Host.Outcome State Fault Refusal := s.runJob (fun j => cardKind j.card == 3) selectWork

/-! ## Sequences (R139 to R145) -/

/-- The fields of a sequence descriptor that span jobs use. -/
structure SeqD where
  addr : Nat
  raw : BitVec 512
  rgen : BitVec 32
  tspan : Nat
  tclass : Nat
  rdim : Nat
  theta : Nat
  pool : Nat
  nlayer : Nat
  ktab : Nat
  cur : Nat
  commit : Nat
  nextpos : Nat
  nblk : Nat
  btcap : Nat
  bt : Nat
def seqOf (a : Nat) (d : BitVec 512) : SeqD where
  addr := a
  raw := d
  rgen := d.extractLsb' 416 32
  tspan := bits d 415 400
  tclass := bits d 399 394
  rdim := bits d 393 384
  theta := bits d 383 352
  pool := bits d 351 336
  nlayer := bits d 335 320
  ktab := bits d 311 256
  cur := bits d 247 192
  commit := bits d 191 160
  nextpos := bits d 159 128
  nblk := bits d 127 96
  btcap := bits d 95 64
  bt := bits d 55 0

/-- The checks of R140 on the fields. -/
def SeqD.bad (x : SeqD) : Bool :=
  x.bt % 16 != 0 || x.cur % 4 != 0 || x.nlayer = 0 || 4096 < x.nlayer || x.btcap = 0 || 2 ^ 24 < x.btcap ||
    x.btcap < x.nblk || x.nextpos < x.commit || x.rdim % 2 = 1 || 512 < x.rdim
def reservedAt (s : State) (a : Nat) : Ran :=
  .done s (.faulted { cause := .reservedField, addr := BitVec.ofNat 56 a } 0)

/-- Read and check a sequence descriptor (R140). Where a reserved bit and a BAD_SEQUENCE condition hold together the spec gives
no order; the model raises RESERVED_FIELD. (log 64 DESIGN CHOICE) -/
def State.readSeq (s : State) (w : Who) (a : Nat) : Except Ran (State × SeqD) :=
  if a % 64 != 0 then .error (Ran.status s 6)
  else
    match s.readNat w a 64 with
    | (s, .error e) => .error (Ran.ofStop s e 0)
    | (s, .ok v) =>
      let d : BitVec 512 := BitVec.ofNat 512 v
      if seqReserved d then .error (reservedAt s a)
      else if (seqOf a d).bad then .error (Ran.status s 6) else .ok (s, seqOf a d)

/-- A block entry (R141). -/
structure Block where
  frame : Nat
  span : Nat
  cls : Nat
  st : Nat
  count : Nat
  first : Nat
  deriving DecidableEq, Repr
def blockOf (v : Nat) : Block :=
  ⟨field v 31 0, field v 47 32, field v 53 48, field v 55 54, field v 63 56, field v 95 64⟩
def Block.nat (b : Block) : Nat :=
  b.frame + b.span * 2 ^ 32 + b.cls * 2 ^ 48 + b.st * 2 ^ 54 + b.count * 2 ^ 56 + b.first % 2 ^ 32 * 2 ^ 64
def Block.bad (b : Block) : Bool := b.st = 3 || (b.st != 0 && (b.count = 0 || 64 < b.count))

/-- Read block entries from `from_` up and check each (R141), a reserved bit first. (log 64 DESIGN CHOICE) -/
def State.readEntries (s : State) (w : Who) (x : SeqD) (from_ n : Nat) : Except Ran (State × List Block) :=
  match s.readRun w .rd (x.bt + 16 * from_) (16 * n) with
  | (s, .error e) => .error (Ran.ofStop s e 0)
  | (s, .ok l) =>
    let vals := (List.range n).map fun i => leNat ((l.drop (16 * i)).take 16)
    match (List.range n).find? fun i => field (vals.getD i 0) 127 96 != 0 with
    | some i => .error (reservedAt s (x.bt + 16 * (from_ + i)))
    | none =>
      let bs := vals.map blockOf
      if bs.any Block.bad then .error (Ran.status s 6) else .ok (s, bs)

def State.readCursors (s : State) (w : Who) (x : SeqD) : Except Ran (State × List Nat) :=
  match s.readRun w .rd x.cur (4 * x.nlayer) with
  | (s, .error e) => .error (Ran.ofStop s e 0)
  | (s, .ok l) => .ok (s, (List.range x.nlayer).map fun i => leNat ((l.drop (4 * i)).take 4))

/-- A free pool's descriptor (R144), at its physical address. -/
structure Pool where
  addr : Nat
  ring : Nat
  size : Nat
  head : BitVec 32
  tail : BitVec 32
  lost : BitVec 32
def Pool.held (p : Pool) : Nat := (p.tail - p.head).toNat
/-- (log 36 DEDUCED) -/
def poolBad (d : BitVec 512) : Bool :=
  let size := bits d 95 64
  bits d 511 224 != 0 || bits d 191 160 != 0 || bits d 63 56 != 0 || bits d 55 0 % 4 != 0 || size < 64 || 2 ^ 28 < size ||
    size &&& (size - 1) != 0
/-- Read the pool descriptor of a context (R144, R145); none where it is beyond the table or breaks the limits. -/
def State.readPool (s : State) (n id : Nat) : Option Pool :=
  let a := (s.ctx n).pooltab + 64 * id
  let d : BitVec 512 := BitVec.ofNat 512 (s.physNat a 64)
  if (s.ctx n).poolcnt ≤ id || poolBad d then none
  else some ⟨a, bits d 55 0, bits d 95 64, d.extractLsb' 96 32, d.extractLsb' 128 32, d.extractLsb' 192 32⟩
/-- Whether a lost line covers it. -/
def State.poolLost (s : State) (n id : Nat) : Bool := s.lostIn ((s.ctx n).pooltab + 64 * id) 64

/-- The same for a job: a lost line is a fault, the rest BAD_SEQUENCE. -/
def State.needPool (s : State) (n id : Nat) : Except Ran Pool :=
  match s.readPool n id with
  | none => .error (Ran.status s 6)
  | some p =>
    if s.poolLost n id then .error (.done s (.faulted { cause := .uncorrectableData, addr := BitVec.ofNat 56 p.addr } 0))
    else .ok p

/-- Make a list of writes: the first is made once every one can be, so that a fault changes nothing (R147). -/
def State.writeAll (s : State) (w : Who) (l : List (Nat × List Byte)) : Except Ran State :=
  match l.findSome? fun x => match s.writable w .wr (x.1 % 2 ^ 56) x.2.length with
      | (s, .error e) => some (s, e)
      | _ => none with
  | some (s, e) => .error (Ran.ofStop s e 0)
  | none => .ok (l.foldl (fun s x => (s.writeHome w (x.1 % 2 ^ 56) x.2).1) s)

/-- The bytes of entries from `b` up. -/
def SeqD.entry (x : SeqD) (b : Nat) (e : Block) : Nat × List Byte := (x.bt + 16 * b, leBytes 16 e.nat)
/-- The writes of COMMIT, NEXTPOS, NBLK and RGEN. -/
def SeqD.wCommit (x : SeqD) (v : Nat) : Nat × List Byte := (x.addr + 20, leBytes 4 v)
def SeqD.wNextpos (x : SeqD) (v : Nat) : Nat × List Byte := (x.addr + 16, leBytes 4 v)
def SeqD.wNblk (x : SeqD) (v : Nat) : Nat × List Byte := (x.addr + 12, leBytes 4 v)
def SeqD.wRgen (x : SeqD) : Nat × List Byte := (x.addr + 52, leBytes 4 (x.rgen + 1).toNat)
def SeqD.wCursors (x : SeqD) (l : List Nat) : Nat × List Byte := (x.cur, l.flatMap (leBytes 4))

/-! ## Span cards (R346) and their order (R148) -/

def cardN (c : BitVec 1024) : Nat := bits c 351 320
def cardSpan (c : BitVec 1024) : Nat := bits c 367 352
def cardClass (c : BitVec 1024) : Nat := bits c 373 368
def cardMode (c : BitVec 1024) : Nat := bits c 376 375
/-- A reserved or unused bit is set, or a value is invalid. -/
def spanBad (c : BitVec 1024) : Bool :=
  bits c 1023 378 != 0 || bits c 319 312 != 0 || cardSeq c % 64 != 0 ||
    match cardKind c with
    | 4 => bits c 377 352 != 0 || cardN c = 0 || 4096 < cardN c
    | 5 => c.getLsbD 377 || cardN c != 0 || cardMode c = 3
    | 6 => bits c 376 352 != 0
    | _ => bits c 377 374 != 0 || cardN c != 0

/-- Two jobs name one sequence descriptor: the same place of memory, whatever their contexts call it. (log 37 DEDUCED) -/
def State.sameSeq (s : State) (x j : Job) : Bool :=
  (x.ctx == j.ctx && cardSeq x.card == cardSeq j.card) ||
    match s.homeOf x.die x.ctx (cardSeq x.card), s.homeOf j.die j.ctx (cardSeq j.card) with
    | some a, some b => a == b
    | _, _ => false
/-- An earlier span job on the same sequence has still to run (R148). (log 37 DEDUCED) -/
def State.spanBehind (s : State) (j : Job) : Bool :=
  s.jobs.any fun x => x.seq < j.seq && x.code == 0 && 4 ≤ cardKind x.card && s.sameSeq x j

/-- (log 37 DEDUCED) -/
def State.runSpan (s : State) (is : Job → Bool) (work : State → Who → Job → Except Ran Ran) :
    Host.Outcome State Fault Refusal :=
  s.runJob (fun j => 4 ≤ cardKind j.card && is j && !s.spanBehind j) fun s w j =>
    if spanBad j.card then Ran.status s 6 else Ran.of (work s w j)

/-! ## JTAG, JPAGE (R146, R147) -/

/-- (log 36 DEDUCED) -/
def tagWork (s : State) (w : Who) (j : Job) : Except Ran Ran :=
  let a := cardSeq j.card + 48
  match s.readNat w a 4 with
  | (s, .error e) => .error (Ran.ofStop s e 0)
  | (s, .ok v) => do
    let s ← s.writeAll w [(a + 1, (leBytes 4 (setField (setField v 31 16 (cardSpan j.card)) 15 10 (cardClass j.card))).drop 1)]
    pure (Ran.status s 0)
def execTagJob (s : State) : Host.Outcome State Fault Refusal := s.runSpan (fun j => cardKind j.card == 7) tagWork

/-- The new entries of a JPAGE: `n` positions from `pos` on the frames given. -/
def newBlocks (span cls : Nat) : Nat → Nat → List Nat → List Block
  | _, _, [] => []
  | pos, n, f :: l => ⟨f, span, cls, 1, min 64 n, pos⟩ :: newBlocks span cls (pos + min 64 n) (n - min 64 n) l

/-- Frames popped from a pool, without moving HEAD. -/
def State.peekFrames (s : State) (w : Who) (p : Pool) : Nat → Nat → State × Except XlStop (List Nat)
  | 0, _ => (s, .ok [])
  | n + 1, i =>
    match s.readNat w ((p.ring + 4 * ((p.head.toNat + i) % 2 ^ 32 % p.size)) % 2 ^ 56) 4 with
    | (s, .error e) => (s, .error e)
    | (s, .ok f) =>
      match s.peekFrames w p n (i + 1) with
      | (s, .ok l) => (s, .ok (f :: l))
      | r => r

/-- The growth of the tail block (R147, step 1): its number, itself and how far it grows. (log 36 DEDUCED) -/
def tailGrowth (x : SeqD) (tail : List Block) (n : Nat) : Option (Block × Nat) :=
  match tail with
  | [t] =>
    if t.st = 1 && t.cls = x.tclass && t.span = x.tspan && t.first + t.count = x.nextpos then
      some (t, min n (64 - t.count)) else none
  | _ => none

def pageWork (s : State) (w : Who) (j : Job) : Except Ran Ran := do
  let n := cardN j.card
  let (s, x) ← s.readSeq w (cardSeq j.card)
  let (s, tail) ← s.readEntries w x (x.nblk - 1) (min 1 x.nblk)
  let grow := tailGrowth x tail n
  let left := n - (grow.map (·.2)).getD 0
  let need := ceilDiv left 64
  let tailW := (grow.map fun g => x.entry (x.nblk - 1) { g.1 with count := g.1.count + g.2 }).toList
  if need = 0 then
    let s ← s.writeAll w (tailW ++ [x.wNextpos (x.nextpos + n)])
    pure (Ran.status s 0)
  else
    let p ← s.needPool j.ctx x.pool
    if x.btcap < x.nblk + need then pure (Ran.status s 2)
    else if p.held < need then pure (Ran.status s 1)
    else
      match s.peekFrames w p need 0 with
      | (s, .error e) => pure (Ran.ofStop s e 0)
      | (s, .ok fs) =>
        let bs := newBlocks x.tspan x.tclass (x.nextpos + (n - left)) left fs
        let s ← s.writeAll w (tailW ++ (bs.zip (List.range need)).map (fun b => x.entry (x.nblk + b.2) b.1) ++
          [x.wNextpos (x.nextpos + n), x.wNblk (x.nblk + need)])
        let s := s.homeStore (p.addr + 12) (leBytes 4 (p.head + BitVec.ofNat 32 need).toNat)
        pure (.done s (.completed 0 need 0))
def execPageJob (s : State) : Host.Outcome State Fault Refusal := s.runSpan (fun j => cardKind j.card == 4) pageWork

/-! ## Pending frames (R153) -/

def State.pendingFrames (s : State) (die : Nat) : List PendFrame := SMap.look [] s.pendFrames die

/-- The gathers and ATTKVs of a context that are under way. -/
def State.readersOf (s : State) (n : Nat) : List Reader :=
  let tasks := ((s.cores.filterMap fun x => x.2.task) ++ s.images.map (·.task)).filter fun t => t.ctx == some n
  tasks.flatMap fun t =>
    (t.gens.filter fun g => g.2.active && g.2.load && (match g.2.kind with
      | .nest .. => false
      | _ => true)).map (fun g => .gather t.uid g.2.run) ++
    (t.replay.filter fun r => match r.instr with
      | .attkv _ => true
      | _ => false).map fun r => .attkv t.uid r.epoch r.path
/-- (log 29 DEDUCED) -/
def State.readerLive (s : State) (r : Reader) : Bool :=
  let tasks := (s.cores.filterMap fun x => x.2.task) ++ s.images.map (·.task)
  tasks.any fun t => match r with
    | .gather u n => t.uid == u && t.gens.any fun g => g.2.active && g.2.run == n
    | .attkv u e p => t.uid == u && t.replay.any fun w => w.epoch == e && w.path == p && (match w.instr with
        | .attkv _ => true
        | _ => false)

/-- Room on the pending list for more frames. -/
def State.pendRoom (s : State) (die k : Nat) : Bool := (s.pendingFrames die).length + k ≤ 65536
/-- Put frames on the pending list (R153). (log 36 DEDUCED) -/
def State.pendPut (s : State) (j : Job) (pool : Nat) (l : List Nat) : State :=
  let new := l.map fun f => (⟨pool, j.ctx, BitVec.ofNat 32 f, s.readersOf j.ctx⟩ : PendFrame)
  { s with pendFrames := SMap.put [] s.pendFrames j.die (s.pendingFrames j.die ++ new) }

/-- PENDING_FRAME_PUSH: a frame whose readers are done goes back to its pool, or is lost (R145, R153). -/
def execPendingFramePush (s : State) : Host.Outcome State Fault Refusal :=
  let die := s.input.unit
  let l := s.pendingFrames die
  match l[s.input.idx]? with
  | none => .next s
  | some f =>
    if f.readers.any s.readerLive then .next s
    else
      let out (s : State) : State := { s with pendFrames := SMap.put [] s.pendFrames die (l.eraseIdx s.input.idx) }
      match s.readPool f.ctx f.pool with
      | none => .next (out s)
      | some p =>
        if s.poolLost f.ctx f.pool then .next (out s)
        else if p.size ≤ p.held then .next (out (s.homeStore (p.addr + 24) (leBytes 4 (p.lost + 1).toNat)))
        else
          match s.writeHome (s.pilotLook die f.ctx) ((p.ring + 4 * (p.tail.toNat % p.size)) % 2 ^ 56) (leBytes 4 f.frame.toNat) with
          | (s, none) => .next (out (s.homeStore (p.addr + 16) (leBytes 4 (p.tail + 1).toNat)))
          | (_, some (.refused _)) => .next s
          | (s, some _) => .next (out s)

/-! ## JSPAN (R149 to R152) -/

/-- Positions of the retired blocks below `v`. -/
def retiredBelow (gone : List Block) (v : Nat) : Nat := (gone.map fun b => min b.count (v - b.first)).sum
def closeMap (gone : List Block) (v : Nat) : Nat := v - retiredBelow gone v

def spanMatches (c : BitVec 1024) (b : Block) : Bool :=
  b.st = 1 && b.cls = cardClass c && (!c.getLsbD 374 || b.span = cardSpan c)

/-- The pool that a tile's page came from. -/
def State.tilePool (s : State) (w : Who) (t : Tile) : Option Nat :=
  match (s.readNat w t.bind.d.seq 64).2 with
  | .ok v => some (field v 351 336)
  | .error _ => none
/-- The tiles, in every cache of a context, of pages by their frames; `keys` takes the key halves alone. (log 36 DEDUCED) -/
def State.pageTiles (s : State) (w : Who) (pool : Nat) (frames : List Nat) (keys : Bool) : List (Nat × Tile) :=
  s.cores.flatMap fun x =>
    (x.2.tiles.filter fun t => t.name.asid == w.asid && t.bind.d.layout == 3 && frames.contains t.pageFrame &&
      (!keys || t.bind.d.kv == 0) && s.tilePool w t == some pool).map fun t => (x.1, t)

/-- Drop tiles without write-back, with the pending faults of held ones (R149, step 3). -/
def State.dropPages (s : State) (l : List (Nat × Tile)) : State :=
  l.foldl (fun s x => match s.task x.1 with
    | some t => if t.uid == x.2.owner then s.discard x.1 [x.2] else s.dropTiles x.1 [x.2]
    | none => s.dropTiles x.1 [x.2]) s

/-- Write back and drop tiles, each as it stands when its turn comes; the first fault stops, and its tile stays held with its fault
pending (R149, step 1). -/
def State.flushPages (s : State) : List (Nat × Tile) → State × Option FaultInfo
  | [] => (s, none)
  | x :: l =>
    match (s.core x.1).tile x.2.name with
    | none => s.flushPages l
    | some t =>
      match (if t.dirty then s.writeBack x.1 t else (s, none)) with
      | (s, some f) => (s.noteHeld x.1 t f, some f)
      | (s, none) => (s.dropTiles x.1 [t]).flushPages l

/-- The key descriptors of every layer, checked by R152; a reserved bit of one is RESERVED_FIELD (R2, R81). -/
def State.readKeys (s : State) (w : Who) (x : SeqD) : List Nat → Except Ran (State × List TDesc)
  | [] => .ok (s, [])
  | l :: ls =>
    match s.readNat w ((x.ktab + 8 * l) % 2 ^ 56) 8 with
    | (s, .error e) => .error (Ran.ofStop s e 0)
    | (s, .ok a) =>
      if 2 ^ 56 ≤ a then .error (Ran.status s 6)
      else
        match s.readDesc w 0 a with
        | (s, .error e) => .error (Ran.ofStop s e 0)
        | (s, .ok (.error f)) => .error (if f.cause = .reservedField then reservedAt s a else Ran.status s 6)
        | (s, .ok (.ok b)) =>
          let d := b.d
          if d.layout != 3 || d.kv != 0 || d.seq != x.addr || d.ty.isInt || 32 * 2 ^ d.hdim < x.rdim then
            .error (Ran.status s 6)
          else
            match s.readKeys w x ls with
            | .ok (s, r) => .ok (s, d :: r)
            | e => e

/-- One rotation of a pair by R152: the new bits of the even and the odd element. -/
def rotatePair (ty : ETy) (sn cs : FVal) (x y : Nat) : Nat × Nat :=
  let a := unpack ty false x
  let b := unpack ty false y
  let sat := ty = .e4m3 || ty = .e5m2
  let even := addVal false (mulVal a cs).val (mulVal b sn).val.neg
  let odd := addVal false (mulVal a sn).val (mulVal b cs).val
  ((even.to ty .rne sat false).1, (odd.to ty .rne sat false).1)

/-- w(i), and the sine and cosine of the angle for a distance (R152). -/
def rotFreq (x : SeqD) (i : Nat) : Nat :=
  let lt := ((log2T (f32Val x.theta)).to .f32 false).1
  let n := (mulVal (f32Val lt) (.fin (exactInt (2 * i)))).val.neg
  let q := (divVal n (.fin (exactInt x.rdim))).f32
  ((exp2T (f32Val q)).to .f32 false).1
def rotAngle (x : SeqD) (d i : Nat) : FVal × FVal :=
  let a := (mulVal (.fin (exactInt (-(d : Int)))) (f32Val (rotFreq x i))).f32
  let (sn, cs) := sincosT (f32Val a)
  (f32Val (sn.to .f32 false).1, f32Val (cs.to .f32 false).1)

/-- Re-rotate one row of one head at an address. -/
def State.rotateRow (s : State) (w : Who) (x : SeqD) (ty : ETy) (a d : Nat) : State × Option XlStop :=
  let size := ty.width / 8
  match s.readRun w .rd a (x.rdim * size) with
  | (s, .error e) => (s, some e)
  | (s, .ok l) =>
    let elem (i : Nat) : Nat := leNat ((l.drop (i * size)).take size)
    let new := (List.range (x.rdim / 2)).flatMap fun i =>
      let (sn, cs) := rotAngle x d i
      let (p, q) := rotatePair ty sn cs (elem (2 * i)) (elem (2 * i + 1))
      leBytes size p ++ leBytes size q
    s.writeHome w a new

/-- Every row of one layer that is re-rotated, as (address, distance), in ascending block, slot and head. -/
def rotRows (d : TDesc) (gone kept : List Block) : List (Nat × Nat) :=
  let size := d.ty.width / 8
  let width := 32 * 2 ^ d.hdim
  let page := 2 * 64 * d.heads * width * size
  kept.flatMap fun b => (List.range b.count).flatMap fun r =>
    let k := retiredBelow gone (b.first + r)
    if k = 0 then []
    else (List.range d.heads).map fun h =>
      ((d.base + b.frame * page + (h * 64 + r) * width * size) % 2 ^ 56, k)

/-- (log 37 DEDUCED) -/
def State.rotateAll (s : State) (w : Who) (x : SeqD) : List (ETy × Nat × Nat) → State × Option XlStop
  | [] => (s, none)
  | r :: l =>
    match s.rotateRow w x r.1 r.2.1 r.2.2 with
    | (s, none) => s.rotateAll w x l
    | e => e

/-- The writes of the renumbering (R150), entries the job did not retire alone. -/
def renumber (x : SeqD) (bs : List Block) (c : BitVec 1024) (gone : List Block) (cursors : List Nat) :
    List (Nat × List Byte) :=
  (((bs.zip (List.range x.nblk)).filter fun b => !spanMatches c b.1).map fun b =>
    x.entry b.2 { b.1 with first := closeMap gone b.1.first }) ++
  [x.wNextpos (closeMap gone x.nextpos), x.wCommit (closeMap gone x.commit), x.wCursors (cursors.map (closeMap gone))]

/-- The checks of CLOSE_ROT before any change (R152): the key descriptors. A misaligned KTAB is BAD_SEQUENCE like every other
misaligned address of the descriptor; neither R140 nor R152 lists it. (log 66 DESIGN CHOICE) -/
def State.rotChecks (s : State) (w : Who) (x : SeqD) (delta : Nat) : Except Ran (State × List TDesc) :=
  match f32Val x.theta with
  | .fin _ =>
    if cmpVal (f32Val x.theta) (.fin (exactInt 1)) != .gt || x.ktab % 8 != 0 then .error (Ran.status s 6)
    else
      match s.readKeys w x (List.range x.nlayer) with
      | .error e => .error e
      | .ok r => if 2 ^ 26 ≤ delta then .error (Ran.status r.1 7) else .ok r
  | _ => .error (Ran.status s 6)

/-- The rotations of step 4, in ascending layer. (log 37 DEDUCED) -/
def rotPlan (ds : List TDesc) (gone kept : List Block) : List (ETy × Nat × Nat) :=
  ds.flatMap fun d => (rotRows d gone kept).map fun r => (d.ty, r.1, r.2)

/-- JSPAN: the steps of R149 in order. A fault after the retire step ends the job with its entries retired; the spec does not say
what becomes of their frames then, and the model places none on the pending list. (log 67 DESIGN CHOICE) -/
def spanWork (s : State) (w : Who) (j : Job) : Except Ran Ran := do
  let (s, x) ← s.readSeq w (cardSeq j.card)
  let (s, bs) ← s.readEntries w x 0 x.nblk
  let gone := bs.filter (spanMatches j.card)
  let delta := (gone.map (·.count)).sum
  if gone.isEmpty then pure (Ran.status s 0)
  else
    let rot := cardMode j.card = 2 && x.rdim != 0
    let kept := bs.filter fun b => b.st = 1 && !spanMatches j.card b && retiredBelow gone (b.first + b.count - 1) != 0
    let _ ← s.needPool j.ctx x.pool
    let (s, ds) ← if rot then s.rotChecks w x delta else pure (s, [])
    let (s, cursors) ← if cardMode j.card = 0 then pure (s, []) else s.readCursors w x
    if !s.pendRoom j.die gone.length then pure .wait
    else
      let (s, f) := if rot then s.flushPages (s.pageTiles w x.pool (kept.map (·.frame)) true) else (s, none)
      match f with
      | some f => pure (.done s (.faulted f 0))
      | none =>
        let s ← s.writeAll w (((bs.zip (List.range x.nblk)).filter fun b => spanMatches j.card b.1).map fun b =>
          x.entry b.2 { b.1 with st := 2 })
        let s := s.dropPages (s.pageTiles w x.pool (gone.map (·.frame)) false)
        match (if rot then s.rotateAll w x (rotPlan ds gone kept) else (s, none)) with
        | (s, some e) => pure (Ran.ofStop s e 0)
        | (s, none) =>
          let s ← s.writeAll w ((if cardMode j.card = 0 then [] else renumber x bs j.card gone cursors) ++ [x.wRgen])
          pure (.done (s.pendPut j x.pool (gone.map (·.frame))) (.completed 0 gone.length delta))

def execSpanKeep (s : State) : Host.Outcome State Fault Refusal :=
  s.runSpan (fun j => cardKind j.card == 5 && (cardMode j.card == 0 || cardMode j.card == 3)) spanWork
def execSpanClose (s : State) : Host.Outcome State Fault Refusal :=
  s.runSpan (fun j => cardKind j.card == 5 && cardMode j.card == 1) spanWork
def execSpanCloseRot (s : State) : Host.Outcome State Fault Refusal :=
  s.runSpan (fun j => cardKind j.card == 5 && cardMode j.card == 2) spanWork

/-! ## JCOMMIT (R156, R157) -/

def commitWork (s : State) (w : Who) (j : Job) : Except Ran Ran := do
  let n := cardN j.card
  let (s, x) ← s.readSeq w (cardSeq j.card)
  let (s, cursors) ← s.readCursors w x
  if n < x.commit then pure (Ran.status s 5)
  else if x.nextpos < n then pure (Ran.status s 4)
  else
    match (List.range x.nlayer).find? fun l => cursors.getD l 0 < n with
    | some l => pure (.done s (.completed 3 0 l))
    | none =>
      let s ← s.writeAll w [x.wCommit n]
      pure (Ran.status s 0)
def execCommitJob (s : State) : Host.Outcome State Fault Refusal :=
  s.runSpan (fun j => cardKind j.card == 6 && !j.card.getLsbD 377) commitWork

/-- An entry after repair at COMMIT `c` (R157): one that becomes empty is all zero (R360). -/
def repairBlock (c : Nat) (b : Block) : Block :=
  if b.st = 0 then b
  else if c ≤ b.first then ⟨0, 0, 0, 0, 0, 0⟩
  else if b.st = 1 && c < b.first + b.count then { b with count := c - b.first } else b

/-- (log 36 DEDUCED) -/
def repairWork (s : State) (w : Who) (j : Job) : Except Ran Ran := do
  let (s, x) ← s.readSeq w (cardSeq j.card)
  let (s, bs) ← s.readEntries w x 0 x.nblk
  let freed := (bs.filter fun b => b.st = 1 && x.commit ≤ b.first).map (·.frame)
  let _ ← if freed.isEmpty then pure () else (s.needPool j.ctx x.pool).map fun _ => ()
  if !s.pendRoom j.die freed.length then pure .wait
  else
    let new := bs.map (repairBlock x.commit)
    let last := (List.range x.nblk).foldl (fun m b => if (new[b]?.map (·.st)).getD 0 != 0 then b + 1 else m) 0
    let s ← s.writeAll w (((new.zip (List.range x.nblk)).filter fun b => bs[b.2]? != some b.1).map
      (fun b => x.entry b.2 b.1) ++
      [x.wCursors (List.replicate x.nlayer x.commit), x.wNextpos x.commit, x.wNblk last])
    pure (.done (s.pendPut j x.pool freed) (.completed 0 0 0))
def execCommitRepair (s : State) : Host.Outcome State Fault Refusal :=
  s.runSpan (fun j => cardKind j.card == 6 && j.card.getLsbD 377) repairWork

end Sys2Proof.Machine
end

