-- ==== Sys2Proof/Machine/Steps.lean ====
section
/-! DEFINITION. What the part does by itself for a core and for memory: pending signals (02, R33), the end of a task (02, R25),
parked words and fills (04, R94 to R97), recalls (R107), writes crossing to the other die (05, R127), the control node's
accesses (01, R17; 05, R133; 21, R435) and refused accesses (21, R433). -/

namespace Sys2Proof.Machine

/-! ## Signals (R33) -/

/-- Whether what a signal waits for has come, for a task of a context. -/
def State.tokenMet (s : State) (t : Task) (k : Token) : Bool :=
  match k with
  | .run g n => !((t.gen g).active && (t.gen g).run == n)
  | .reqs l => !(s.reqs.any fun q => l.contains q.id) && !(t.groups.any fun g => g.2.st == .busy && l.contains g.2.reqId)
  | .job h => match t.ctx with
    | some n => 2 ≤ s.jobFate n (BitVec.ofNat 32 h)
    | none => true
  | .writes die n => stampReached (s.appliedOf (s.stampAt die)) n
  | .resumed => t.saved.isNone

/-- The image at an address with another task. -/
def SavedTask.replaced (a : Nat) (t : Task) (x : SavedTask) : SavedTask := if x.addr == a then { x with task := t } else x

/-- SIGNAL_CLAUSE: the earliest signal whose point has come is applied, on its core or in the save image (R33, R34, R342). -/
def execSignalClause (s : State) : Host.Outcome State Fault Refusal :=
  let u := s.input.unit
  match s.unitTask u with
  | none => .next s
  | some t =>
    match t.sigs.find? fun p => p.until_.all (s.tokenMet t) with
    | none => .next s
    | some p =>
      let t' : Task := { t with sigs := t.sigs.erase p }
      if u < 194 then .next ((s.setTask u t').ownSignal u p.eng p.pc p.clause p.ids)
      else
        match s.images[u - 194]? with
        | none => .next s
        | some m =>
          let s := { s with images := s.images.map (SavedTask.replaced m.addr t') }
          let core := ((s.teamOf m.task).map fun tm => tm.base + m.task.rank).getD 0
          .next (s.signalImage m p.clause.sem (p.clause.inc.setWidth 16 + 1) (semFault core p.clause.sem p.pc))

/-! ## The end of a task (R25) -/

/-- Every operation that a task has issued has completed locally. A deferred failure that is recorded once F has obeyed EXIT is
taken by no word any more, and R25 and R320 do not say how the task ends then: in the model it does not end. (log 82 DESIGN CHOICE) -/
def State.localDone (s : State) (t : Task) : Bool :=
  t.live.isEmpty && t.replay.isEmpty && t.faults.isEmpty && t.defer.isEmpty && t.gens.all (fun g => !g.2.active) &&
    t.groups.all (fun g => g.2.st != .busy) && t.sigs.all (fun p => p.until_.all fun k => match k with
      | .writes .. => true
      | k => s.tokenMet t k) &&
    match t.ctx with
    | some n => (s.ownReqs n t.image).isEmpty && t.jobs.all fun h => s.jobFate n (BitVec.ofNat 32 h) != 0
    | none => true

/-- Every pin is released, and held tiles are written back once more; one that faults again is dropped, with a record, and spoils its
grid. -/
def State.endTiles (s : State) (c : Nat) (t : Task) : State :=
  let s := s.unpinAll c
  ((s.core c).tiles.filter fun x => x.owner == t.uid && x.held.isSome).foldl (fun s x =>
    match (s.core c).tile x.name with
    | none => s
    | some x =>
      match s.writeBack c x with
      | (s, none) => s
      | (s, some f) => s.dropEnded c x f) s
/-- The image that an ended task reserved is free again (R391). -/
def State.releaseImage (s : State) (t : Task) : State :=
  match t.ctx with
  | none => s
  | some n =>
    { s with
      reservedImages := s.reservedImages.filter (· != (n, t.image))
      teams := s.teams.map fun tm => if tm.ctx == n then { tm with images := tm.images.filter (· != t.image) } else tm }

/-- A team with no task left on a core has ended, or is saved when some of its tasks stopped before (R25, R420).
(log 8 DESIGN CHOICE) -/
def State.noteEnd (s : State) (t : Team) : State :=
  if !(s.teamTasks t).isEmpty then s
  else if s.images.any fun x => x.task.node == t.node && x.task.team == t.num then s.noteSaved t .safe
  else (s.dropTeam t true .none).retimeNode t.node

def execTaskEnd (s : State) : Host.Outcome State Fault Refusal :=
  let c := s.input.unit
  match s.task c with
  | none => .next s
  | some t =>
    if t.kernel || !s.localDone t then .next s
    else
      let s := ((s.endTiles c t).giveUpLease c).leaveArray c
      let s := s.freeGroups t.uid
      let s := (s.setCore c { s.core c with task := none }).freshCore c
      let s := s.releaseImage t
      match s.teamOf t with
      | some tm => .next (s.noteEnd tm)
      | none => .next s

/-! ## Parked words (R95) -/

/-- What a parked word does. -/
def tileWordOf (i : Instr) : Option TileWord :=
  match i with
  | .accz o => some (acczWord o)
  | .accld o => some (accldWord o)
  | .accst o => some (accstWord o)
  | .mma o => some (mmaWord o)
  | .attq o => some (attqWord o)
  | .attkv o => some (attkvWord o)
  | .attfin o => some (attfinWord o)
  | .attst o => some (attstWord o)
  | .attmrg o => some (attmrgWord o)
  | .tfill o => some (tfillWord o)
  | .tpin o => some (tpinWord o)
  | .tzero o => some (tzeroWord o)
  | .tcopy o => some (tcopyWord o)
  | _ => none

def Parked.same (p q : Parked) : Bool := p.env.eng == q.env.eng && p.epoch == q.epoch && p.path == q.path
/-- A word of the strand that stands earlier in the same part of its run is parked too: its fault comes first (R97). -/
def Task.parkedEarlier (t : Task) (e : Eng) (epoch path : Nat) : Bool :=
  t.replay.any fun w => w.env.eng == e && t.inPart w.epoch == t.inPart epoch && before w.epoch w.path epoch path

/-- A fault at a parked word (R440): ORIGIN 1, its entry stays and its strand's counter does not move; for a TPIN's status store
ORIGIN 0, after which its entry goes (R297). -/
def State.parkFault (s : State) (c : Nat) (e : Eng) (pc : Va) (f : FaultInfo) : State :=
  s.taskFault c { f with origin := if f.after then 0 else 1, strand := some e, pc := pc, parked := true }

/-- A parked word may execute, in a handler too (R455): nothing has stopped its task, and it is not the word whose fault the handler
was entered with (R440, R447). (log 25 DEDUCED) -/
def Task.mayReplay (t : Task) (p : Parked) : Bool :=
  t.faults.isEmpty && !((t.saved.bind (·.parked)).any fun x => x.1 == p.env.eng && x.2 == p.env.pc && !(t.inPart p.epoch))

/-- A parked word has completed: its entry goes, and its signal at `done` or `vis` follows, which stands for what it has written. -/
def State.unpark (s : State) (c : Nat) (p : Parked) (ids : List Nat) : State :=
  let s := s.modTask c fun t => ({ t with replay := t.replay.filter fun w => !w.same p } : Task).settle
  match p.clauses.sig with
  | some g => if g.pt = .issue then s else s.signalFor c p.env.eng p.env.pc g [] ids
  | none => s

/-- A parked word with its refusal noted. -/
def Parked.noteRetry (p : Parked) (r : Retry) (w : Parked) : Parked := if w.same p then { w with retry := some r } else w
/-- A parked word's access is refused (R433). (log 10 DEDUCED) -/
def State.parkRefused (s : State) (c : Nat) (t : Task) (p : Parked) (addr : Va) : State :=
  let now := s.now (dieOf c)
  if Retry.over p.retry now (s.rtmoOf t) && !(t.parkedEarlier p.env.eng p.epoch p.path) then
    s.parkFault c p.env.eng p.env.pc { cause := .migrationBusy, addr := addr }
  else
    s.setTask c { t with replay := t.replay.map (p.noteRetry (Retry.again p.retry now addr)) }

/-- A parked word whose tiles are all resident executes. -/
def State.replayWord (s : State) (c : Nat) (t : Task) (p : Parked) (w : TileWord) : State :=
  let a : Agent := .strand c p.env.eng
  match w.act p.env { s with cur := ⟨c, p.env.eng, p.clauses, 0⟩ } c t p.uses with
  | .done x => ((x.finishUses c t p.uses).wroteAs s (some a)).unpark c p (x.wroteSince s.order.next (some a))
  | .wait => s
  | .refused x => s.parkRefused c t p x.cur.addr
  | .fault x f =>
    if t.parkedEarlier p.env.eng p.epoch p.path then s
    else ((if f.after then x.finishUses c t p.uses else x).wroteAs s (some a)).parkFault c p.env.eng p.env.pc f

/-- REPLAY_EXECUTE: a parked word executes once its tiles are resident, an array word only under the lease and within its
quantum (R262); tiles that have gone again are filled anew. -/
def execReplayExecute (s : State) : Host.Outcome State Fault Refusal :=
  let c := s.input.unit
  match s.task c with
  | none => .next s
  | some t =>
    match t.replay[s.input.idx]? with
    | none => .next s
    | some p =>
      match tileWordOf p.instr with
      | none => .next s
      | some w =>
        if !t.mayReplay p || Retry.early p.retry (s.now (dieOf c)) then .next s
        else if !s.allHit t p.uses then .next (s.startFills c p.env.eng p.epoch p.path p.env.runs t p.uses)
        else if (accOf p.instr).isSome && ((s.cluster c).holder != some c || s.mustPass (s.cluster c)) then .next s
        else .next (s.replayWord c t p w)

/-! ## Fills (R97) and itineraries (R94) -/

/-- The task whose cache and binding a fill uses. -/
def State.fillTask (s : State) (c : Nat) (t : Task) (core : Nat) : Option Task := if core = c then some t else s.task core

/-- The peer a fill is for has the slot bound to another descriptor than the word's own task, or to none (R98). -/
def State.peerMoved (s : State) (c : Nat) (t : Task) (f : Fill) : Bool :=
  f.core != c && match t.binding f.slot with
    | some b => !s.peerBound c f.core f.slot b
    | none => false
def Fill.use (f : Fill) : TileUse := ⟨f.core, f.slot, f.k, false, true, false, false⟩

/-- A fill of an A word waits for the strand's earlier accesses to its places (R304, R120). -/
def State.fillBehind (s : State) (c : Nat) (t o : Task) (f : Fill) : Bool :=
  s.aBehind c t f.runs (fun e p => before e p f.epoch f.path) (s.tilePlaces (o.who f.core) o f.slot f.k)

/-- A fill reads its tile and installs it, in the order of R97. A stale tile of the same name is written back before (R89), and a
fill of an A word waits for earlier accesses at the same places (R304). (log 20 DEDUCED) -/
def State.runFill (s : State) (c : Nat) (t : Task) (i : Nat) (f : Fill) : State :=
  let gone (s : State) : State := s.modTask c fun t => { t with fills := t.fills.eraseIdx i }
  let word := t.replay.find? fun w => w.env.eng == f.eng && w.epoch == f.epoch && w.path == f.path
  match word, s.fillTask c t f.core with
  | none, _ => gone s
  | some p, owner =>
    let bad (s : State) (x : FaultInfo) : State :=
      if t.parkedEarlier f.eng f.epoch f.path then s else (gone s).parkFault c f.eng p.env.pc x
    if s.peerMoved c t f then bad s (tileFault .peerSlotMismatch f.slot f.k)
    else
      match owner with
      | none => bad s (tileFault .slotUnbound f.slot f.k)
      | some o =>
        if (s.hitTile t f.use).isSome then gone s
        else if f.eng == .a && s.fillBehind c t o f then s
        else
          match s.flushStale t [f.use] with
          | (s, some x) => bad s x
          | (s, none) =>
            let w := { o.who f.core with agent := some (.strand c f.eng), place := some (f.runs, f.epoch, f.path) }
            match s.readTile w o f.slot f.k, o.binding f.slot with
            | (s, .error x), _ => bad s x
            | (s, .ok _), none => bad s (tileFault .slotUnbound f.slot f.k)
            | (s, .ok y), some b =>
              match s.makeRoom f.core ⟨t.asid, f.slot, f.k⟩ [] with
              | .ok s way pin => gone (s.installTile f.core (s.newTile o f.slot f.k b f.av way pin (some y)))
              | .wait => s
              | .full => bad s (tileFault .tileSetFull f.slot f.k)
              | .fault s x => bad s x

/-- The next fill of an itinerary: one that fails, or finds no eligible way, is skipped and counted. (log 53 DEDUCED) -/
def State.runPrefetch (s : State) (c : Nat) (t : Task) (i : Nat) (x : Itinerary) : State :=
  let rest (s : State) : State := s.modTask c fun t =>
    let todo := x.todo.drop 1
    { t with itins := if todo.isEmpty then t.itins.eraseIdx i else t.itins.set i { x with todo := todo } }
  let skip (s : State) : State := rest (s.setCore c { s.core c with skips := (s.core c).skips + 1 })
  match x.todo, t.binding x.slot with
  | k :: _, some b =>
    let u : TileUse := ⟨c, x.slot, k, false, true, false, false⟩
    if (s.hitTile t u).isSome then rest s
    else if s.aBehind c t x.runs (fun e p => before e p x.epoch x.path) (s.tilePlaces (t.who c) t x.slot k) then s
    else
      match s.flushStale t [u] with
      | (s, some _) => skip s
      | (s, none) =>
        match s.readTile { t.whoMap c .a with place := some (x.runs, x.epoch, x.path) } t x.slot k with
        | (s, .error _) => skip s
        | (s, .ok y) =>
          match s.makeRoom c ⟨t.asid, x.slot, k⟩ [] with
          | .ok s way pin => rest (s.installTile c (s.newTile t x.slot k b b.av way pin (some y)))
          | .fault s _ => skip s
          | _ => skip s
  | _, _ => skip s

/-- TILE_FILL: the numbered fill of a core's task, or past those the next one of an itinerary. -/
def execTileFill (s : State) : Host.Outcome State Fault Refusal :=
  let c := s.input.unit
  let i := s.input.idx
  match s.task c with
  | none => .next s
  | some t =>
    match t.fills[i]? with
    | some f => .next (s.runFill c t i f)
    | none =>
      match t.itins[i - t.fills.length]? with
      | some x => .next (s.runPrefetch c t (i - t.fills.length) x)
      | none => .next s

/-- The oldest registration of a channel's directory (R107). -/
def State.oldestOf (s : State) (channel : Nat) : Option (Nat × Nat × TileName) :=
  s.dirty.find? fun d => channelOf (d.1 * 64) == channel
/-- TILE_WRITE_BACK: a channel's directory without a free record recalls its oldest registration (R107). (log 20 DEDUCED) -/
def execTileWriteBack (s : State) : Host.Outcome State Fault Refusal :=
  match s.oldestOf s.input.unit with
  | some d => .next (s.recallOne d)
  | none => .next s

/-! ## Writes between the dies (R127) -/

/-- CAUSAL_WRITE_APPLY: the oldest write of a die in flight is applied at its home, once every write it depends on is.
(log 7 DEDUCED) -/
def execCausalWriteApply (s : State) : Host.Outcome State Fault Refusal := .next ((s.applyHead s.input.unit).getD s)

/-! ## The control node and register writes (R17, R133, R435, R3, R399) -/

/-- Why an access at the module ordering point fails: a check of its transfer (R111), or a lost line that it reads, or writes in part
(R112). -/
def State.pointStop (s : State) (pa n : Nat) (write : Bool) : Option Cause :=
  if s.mismatch then some .checkMismatch
  else if (linesOf pa n).any fun l => s.lost.contains l && !(write && pa ≤ l * 64 && l * 64 + 64 ≤ pa + n) then
    some .uncorrectableData
  else none
/-- It is reported to the Binnacle, whose access it was (R110, R112). (log 38 DEDUCED) -/
def State.pointFail (s : State) (pa : Nat) (c : Cause) : State :=
  { s with mismatch := s.mismatch && c != Cause.checkMismatch }.manage 0
    { cause := c, addr := BitVec.ofNat 56 pa, info := if c == Cause.checkMismatch then 4 else 0 }

/-- A write at the module ordering point: visible to both dies before the next one (R133). (log 38 DEDUCED) -/
def State.pointWrite (s : State) (pa : Nat) (b : List Byte) : State :=
  match whereIs pa, s.pointStop pa b.length true with
  | .hbm, none => if pa + b.length ≤ hbmEnd then s.storeAtHome true pa b else s
  | .log, none => s.storeAtHome true pa b
  | .hbm, some c | .log, some c => s.pointFail pa c
  | .page .., _ | .temp .., _ | .window .., _ => s.regWrite true pa b
  | _, _ => s

/-- A read at the ordering point: the bytes, or why it fails. (log 38 DEDUCED) -/
def State.pointRead (s : State) (pa n : Nat) : Except Cause (List Byte) :=
  match whereIs pa, s.pointStop pa n false with
  | .hbm, none | .log, none => .ok ((List.range n).map fun i => s.homeByte (pa + i))
  | .hbm, some c | .log, some c => .error c
  | _, _ => .ok (s.regBytes pa n)

/-- The Mailbox engine, which stands on die 0, refuses everything until READY (R483), and nothing reaches it once die 1 has found
that die lost (R17). (log 38 DEDUCED) -/
def State.mailboxUp (s : State) : Bool := s.boot == .ready && !(s.router 1).partnerLost
/-- A control-node access to an address: refused, or what it does. -/
def State.mailbox (s : State) (a : Nat) (f : State) : Host.Outcome State Fault Refusal :=
  .next (if s.mailboxUp then f else { s with outbox := s.outbox ++ [.notReady a] })
/-- The answer to the control node. -/
def State.answer (s : State) (a : Nat) (b : List Byte) : State := { s with outbox := s.outbox ++ [OutMsg.answer a b] }

def execControlNodeWrite (s : State) : Host.Outcome State Fault Refusal :=
  match s.input.load with
  | .bytes b => s.mailbox s.input.unit (s.pointWrite s.input.unit b)
  | _ => .next s

/-- A read that fails is answered with no bytes. (log 38 DEDUCED) -/
def execControlNodeRead (s : State) : Host.Outcome State Fault Refusal :=
  let a := s.input.unit
  s.mailbox a (match s.pointRead a s.input.idx with
    | .ok b => s.answer a b
    | .error c => (s.answer a []).pointFail a c)

/-- MAILBOX_CAS (R435): 8 aligned bytes, in one order with everything before it (R133). One that is misaligned, or that fails, is
answered with no bytes and changes nothing. (log 38 DEDUCED) -/
def execMailboxCas (s : State) : Host.Outcome State Fault Refusal :=
  let a := s.input.unit
  match s.input.load with
  | .pair old new =>
    s.mailbox a
      (if a % 8 != 0 then s.answer a []
      else
        match s.pointStop a 8 false with
        | some c => (s.answer a []).pointFail a c
        | none =>
          let s := s.drain (s.flightIds 0 ++ s.flightIds 1)
          let (s, v) := s.atomicAt { die := servedBy a, ctx := none, asid := 0 } a 8 (casFn old.toNat new.toNat)
          { s with outbox := s.outbox ++ [.casAnswer a (BitVec.ofNat 64 v)] })
  | _ => .next s

/-- QCFG_WRITE and WPTR_WRITE: the registers of R399 as the control node writes them. -/
def execQcfgWrite (s : State) : Host.Outcome State Fault Refusal :=
  let q := s.input.unit
  match s.input.load with
  | .word v => if q < 256 then s.mailbox (hbmEnd + 4096 * q) (s.writeQcfg q v) else .next s
  | _ => .next s
def execWptrWrite (s : State) : Host.Outcome State Fault Refusal :=
  let q := s.input.unit
  match s.input.load with
  | .word v => if q < 256 then s.mailbox (hbmEnd + 4096 * q + 0x100) (s.writeQreg false q 0x100 v) else .next s
  | _ => .next s
/-- REGISTER_WRITE: a 64-bit write of a register above HBM, by its Access codes (R3); a misaligned one changes nothing. -/
def execRegisterWrite (s : State) : Host.Outcome State Fault Refusal :=
  let a := s.input.unit
  match s.input.load with
  | .word v => s.mailbox a (if a % 8 = 0 then s.regPut true a 8 v.toNat else s)
  | _ => .next s

/-! ## Refused accesses (R433) -/

/-- The strand of a number. -/
def engOf (n : Nat) : Eng :=
  match n with
  | 1 => .v | 2 => .m | 3 => .a | 4 => .f | 5 => .j | _ => .s

/-- REFUSED_ACCESS_RETRY: the access goes again when its gap is over, and faults MIGRATION_BUSY once RTMO has passed.
(log 10 DEDUCED) -/
def execRefusedAccessRetry (s : State) : Host.Outcome State Fault Refusal :=
  let c := s.input.unit
  let e := match s.input.load with
    | .num n => engOf n
    | _ => .s
  match s.task c with
  | none => .next s
  | some t =>
    let x := t.strand e
    match x.retry with
    | none => .next s
    | some r =>
      let now := s.now (dieOf c)
      if r.go then .next s
      else if s.rtmoOf t ≤ (now - r.since).toNat then
        .next ((s.setTask c (t.setStrand e { x with retry := none })).takeFault c e { cause := .migrationBusy, addr := r.addr })
      else if r.next ≤ now then .next (s.setTask c (t.setStrand e { x with retry := some { r with go := true } }))
      else .next s

end Sys2Proof.Machine
end

