-- ==== Sys2Proof/Machine/FabricMgmt.lean ====
section
/-! DEFINITION. The links and the fabric window (23, R457, R458, R464, R469 to R473): ports going down and coming up, notices,
the loss of the die-to-die link with what R419 and R39 make of it, and the writes of the window's registers and tables. -/

namespace Sys2Proof.Machine

/-! ## Notices (R470) -/

def noticeBits (n : Notice) : BitVec 128 :=
  n.stamp ++ n.near ++ n.far ++ n.dim ++ n.kind ++ n.cause ++ 0#23 ++ 1#1
/-- Claim an entry of the notice log and write it, or drop it and count it. -/
def Router.logNotice (r : Router) (n : Notice) : Router :=
  let k := r.nwidx.toNat % 256
  let r := { r with nwidx := r.nwidx + 1, seen := r.seen ++ [n] }
  if (SMap.look (0 : BitVec 128) r.notices k).getLsbD 0 then { r with nlost := r.nlost + 1 }
  else { r with notices := SMap.put 0 r.notices k (noticeBits n) }

/-- The up dimension ports of a router but the one a notice came by. -/
def Router.others (r : Router) (arrived : Nat) : List Nat :=
  ((List.range 13).map (· + 1)).filter fun p => p != arrived && r.up p

/-- A request's path could have crossed a link (R463, R464): some way from its source to its destination, over each dimension in which
they differ at most once and with at most one other hop, crosses the link's dimension at one of its ends. (log 52 DEDUCED) -/
def mayCross (src dst near : BitVec 14) (dim : Nat) : Bool :=
  let x := src ^^^ dst
  let off := ((List.range 14).filter fun i => i != dim && !x.getLsbD i && (near ^^^ src).getLsbD i).length
  if x.getLsbD dim then off ≤ 1 else off = 0
/-- A request that left the module and is not acknowledged is sent again when its path could have crossed a link that went down, over
the routes then in force (R464): its label and its bank stay those of its injection (R460, R467). -/
def FReq.resend (die : Nat) (src : BitVec 14) (n : Notice) (q : FReq) : FReq :=
  let cross := match q.phys with
    | some p => mayCross src p n.near n.dim.toNat
    | none => false
  if q.die = die && q.performed && q.back.isNone && q.failed.isNone && cross then { q with performed := false } else q

/-- The tasks of the module, running and saved, each with its die. -/
def State.placedTasks (s : State) : List (Nat × Task) :=
  s.cores.filterMap (fun x => x.2.task.map fun t => (dieOf x.1, t)) ++
    s.images.filterMap fun m => (s.teamOf m.task).map fun tm => (dieOf tm.base, m.task)

/-- A participant of a domain-level barrier is on the die of a physical label: a task of this module's, arrived or not, or
one of another module whose arrival came from there (R39). -/
def State.joins (s : State) (r : Router) (p : BitVec 14) (b : Barrier) : Bool :=
  b.level == 3 &&
    ((s.placedTasks.any fun x => (s.router x.1).phys == p && s.barKey x.2 3 == b.key) ||
      b.remote.any fun l => (r.label r.inj l).extractLsb' 0 14 == p)
/-- A participant of another module that has not arrived at a domain-level barrier may stand on the die of a label, none of this
module's: there are more participants than tasks here and arrivals from elsewhere. (log 70 DESIGN CHOICE) -/
def State.farJoins (s : State) (p : BitVec 14) (b : Barrier) : Bool :=
  let here := s.placedTasks.filter fun x => s.barKey x.2 3 == b.key
  b.level == 3 && p != (s.router 0).phys && p != (s.router 1).phys &&
    (here.all fun x => here.length + b.remote.length < x.2.barCount 3) && Config.farJoins s.ctr b.episode p
/-- A link-failure notice gives up the waiting domain-level barriers with a participant on a die that it names, arrived or not
(R39). (log 70 DESIGN CHOICE) -/
def State.cutDomain (s : State) (die : Nat) (n : Notice) : State :=
  let r := s.router die
  let l := [n.near, n.far].filter r.named
  if n.kind = 1 then s else s.abandon .linkLost fun b => l.any fun p => s.joins r p b || s.farJoins p b

/-- A notice reaches a die for the first time: it is logged and forwarded, a link down has requests resent, and barriers of
the domain end with a die that it names. -/
def State.takeNotice (s : State) (die arrived : Nat) (n : Notice) : State :=
  let r := s.router die
  if r.seen.contains n then s
  else
    let s := s.setRouter die (r.logNotice n)
    let s := { s with outbox := s.outbox ++ (r.others arrived).map fun p => OutMsg.notice die p n }
    let s := if n.kind = 0 then { s with reqs := s.reqs.map (FReq.resend die r.phys n) } else s
    s.cutDomain die n

/-- A notice spreads over the module: to the die given, and over port 0, where both its ends are up, to the other. The control
node learns of it through the Salay port (numbered 14 here). (log 44 DEDUCED, 52 DEDUCED) -/
def State.flood (s : State) (die : Nat) (n : Notice) : State :=
  let s := (s.takeNotice die 14 n)
  let s := { s with outbox := s.outbox ++ [OutMsg.notice die 14 n] }
  if (s.router 0).up 0 && (s.router 1).up 0 then s.takeNotice (1 - die) 0 n else s

/-! ## The loss of the die-to-die link (R472, R419, R39, R128) -/

/-- A signal that waits for writes now lost is never applied; one whose own writes stand is (R33). (log 8 DESIGN CHOICE) -/
def PendSig.kept (lost : List Nat) (p : PendSig) : Bool := !(p.ids.any lost.contains)
/-- (log 8 DESIGN CHOICE) -/
def Task.dropSigs (lost : List Nat) (t : Task) : Task := { t with sigs := t.sigs.filter (PendSig.kept lost) }

/-- The writes of one die in flight, all homed on the other, are lost with their lines (R128), and the record of the order of accesses
holds nothing of them any more. (log 7 DEDUCED, 8 DESIGN CHOICE) -/
def State.loseFlight (s : State) (die : Nat) : State :=
  let l := s.flight die
  let ids := l.map (·.id)
  let lines := l.flatMap fun w => linesOf w.addr w.bytes.length
  let clean (x : Side) : Side := { x with cells := x.cells.filter fun c => !lines.contains (lineOf c.1) }
  let o : Order := { s.order with
    events := s.order.events.filter fun e => !ids.contains e.id
    sides := (s.order.sides.filter fun x => !ids.contains x.id).map clean }
  let s := { s with wb := SMap.put [] s.wb die [], order := o }
  s.loseLines (1 - die) 0 lines.eraseDups

/-- Every line that a tile cache of the other die held dirty is recorded as lost. -/
def State.loseDirty (s : State) : State :=
  let cross (d : Nat × Nat × TileName) : Bool := servedBy (d.1 * 64) != dieOf d.2.1
  let lines := ((s.dirty.filter cross).map (·.1)).eraseDups
  let s := { s with dirty := s.dirty.filter fun d => !cross d }
  lines.foldl (fun s l => s.loseLines (servedBy (l * 64)) 3 [l]) s

/-- A grid that may use both dies is split: its unstarted teams never start, and those of the other die end at once.
(log 43 DEDUCED) -/
def State.splitGrid (s : State) (n : Node) : State :=
  let die := s.recordDie n
  let s := s.setNode { n with status := 6, cause := .dieLinkLost, state3 := true }
  let s := (s.teams.filter fun t => t.node == n.id && dieOf t.base != die).foldl (fun s t => s.killTeam t .dieLinkLost) s
  s.retimeNode n.id

def spansDies (n : Node) : Bool := recKind n.record = 1 && (launchOf n.record).dies = 3 && n.st == .running
/-- Waiting module-level barriers that lose a participant: their tasks, running or saved, stand on both dies, or a grid of
both dies has teams of theirs still to start (R39, R419). -/
def State.splitBarrier (s : State) (b : Barrier) : Bool :=
  let on (die : Nat) : Bool := s.placedTasks.any fun x => x.1 == die && s.barKey x.2 2 == b.key
  b.level == 2 && ((on 0 && on 1) || s.nodes.any fun n =>
    spansDies n && n.nextTeam < (launchOf n.record).teams &&
      b.key == (launchOf n.record).grid.toNat + n.ctx * 2 ^ 32)

def State.splitModule (s : State) : State :=
  let s := s.abandon .dieLinkLost s.splitBarrier
  let s := (s.nodes.filter spansDies).foldl State.splitGrid s
  let lost := s.flightIds 0 ++ s.flightIds 1
  let s := ((s.loseFlight 0).loseFlight 1).loseDirty
  let f (t : Task) : Task := t.dropSigs lost
  { s with
    cores := s.cores.map fun x => (x.1, { x.2 with task := x.2.task.map f })
    images := s.images.map fun x => { x with task := f x.task } }

/-! ## Ports (R469, R471) -/

/-- A port that was up or training goes down with a cause, and a notice says so; `st` is down or disabled. (log 43 DEDUCED) -/
def State.portDown (s : State) (die p : Nat) (cause : BitVec 3) (st : BitVec 2) : State :=
  let r := s.router die
  let x := r.port p
  let was := s.linkFailed
  let s := s.setRouter die (r.setPort p { x with st := st, cause := cause, downs := x.downs + 1 })
  let s := s.flood die ⟨s.now die, r.phys, x.far, BitVec.ofNat 4 p, 0, cause.setWidth 4⟩
  if p = 0 && !was then s.splitModule else s

/-- Where a port's step takes place, if the port is up. (log 44 DEDUCED) -/
def State.upPort (s : State) (f : Nat → Nat → State) : Host.Outcome State Fault Refusal :=
  let die := s.input.unit
  let p := s.input.idx
  if die < 2 && p < 14 && (s.router die).up p then .next (f die p) else .next s

/-- IDLE_FLIT: it leaves on every up link. -/
def execIdleFlit (s : State) : Host.Outcome State Fault Refusal :=
  s.upPort fun die p => { s with outbox := s.outbox ++ [OutMsg.idle die p] }
def execLinkSilence (s : State) : Host.Outcome State Fault Refusal := s.upPort fun die p => s.portDown die p 2 0
def execLinkReplayLimit (s : State) : Host.Outcome State Fault Refusal := s.upPort fun die p => s.portDown die p 1 0

/-- DIE_LOST: the partner of a die answers on no lane of port 0 and not on its sideband. The port goes down unless it is so already,
its cause becomes 5, and a die-lost notice names the partner (R470). -/
def execDieLost (s : State) : Host.Outcome State Fault Refusal :=
  let die := s.input.unit
  if 2 ≤ die || (s.router die).partnerLost then .next s
  else
    let s := if (s.router die).up 0 then s.portDown die 0 5 0 else s
    let r := s.router die
    let x := r.port 0
    let s := s.setRouter die { r.setPort 0 { x with cause := 5 } with partnerLost := true }
    .next (s.flood die ⟨s.now die, r.phys, x.far, 0, 2, 5⟩)

/-- LINK_NOTICE_RECEIVE: a notice from another die; the input gives the port it came by. -/
def execLinkNoticeReceive (s : State) : Host.Outcome State Fault Refusal :=
  match s.input.load with
  | .notice n =>
    let die := s.input.unit
    if 2 ≤ die || (s.router die).seen.contains n then .next s
    else
      let s := s.takeNotice die s.input.idx n
      .next (if (s.router 0).up 0 && (s.router 1).up 0 then s.takeNotice (1 - die) 0 n else s)
  | _ => .next s

/-- PCTL_RETRAIN: a RETRAIN that was written starts training a down port that is not held disabled. -/
def execPctlRetrain (s : State) : Host.Outcome State Fault Refusal :=
  let die := s.input.unit
  let p := s.input.idx
  let r := s.router die
  let x := r.port p
  if die < 2 && p < 14 && x.retrain then
    .next (s.setRouter die (r.setPort p { x with retrain := false, st := if x.st = 0 && !x.dis then 1 else x.st }))
  else .next s

/-- PCTL_DIS: a port whose DIS is set is disabled; with DIS clear again it is down. -/
def execPctlDis (s : State) : Host.Outcome State Fault Refusal :=
  let die := s.input.unit
  let p := s.input.idx
  let r := s.router die
  let x := r.port p
  if 2 ≤ die || 14 ≤ p then .next s
  else if x.dis && x.st = 2 then .next (s.portDown die p 4 3)
  else if x.dis && x.st != 3 then .next (s.setRouter die (r.setPort p { x with st := 3, cause := 4 }))
  else if !x.dis && x.st = 3 then .next (s.setRouter die (r.setPort p { x with st := 0 }))
  else .next s

/-- Before port 0 comes up the causal stamps of both dies are cleared and their gateway caches emptied (R473): the writes in flight
are those between the dies; the writes of a die to its own memory have been performed. (log 46 DEDUCED) -/
def State.relink (s : State) : State := { ((s.loseFlight 0).loseFlight 1) with applied := [], issued := [] }

/-- A port has trained: port 0, which needs both its ends, after its stamps were cleared (R473); its notice follows (R470, R471). -/
def State.portUp (s : State) (die p : Nat) (far : BitVec 14) : State :=
  let s := if p = 0 && s.linkFailed then s.relink else s
  let r := s.router die
  let x := r.port p
  let r := r.setPort p { x with st := 2, far := far }
  let s := s.setRouter die (if p = 0 then { r with partnerLost := false } else r)
  s.flood die ⟨s.now die, r.phys, far, BitVec.ofNat 4 p, 1, x.cause.setWidth 4⟩

/-- LINK_TRAINING_DONE: the port comes up with a link-up notice, or stays down with its cause; a far label other than the one expected
takes it down with a notice (R469 to R471). -/
def execLinkTrainingDone (s : State) : Host.Outcome State Fault Refusal :=
  match s.input.load with
  | .trained far ok =>
    let die := s.input.unit
    let p := s.input.idx
    let r := s.router die
    let x := r.port p
    let other := (s.router (1 - die)).port 0
    if 2 ≤ die || 14 ≤ p || x.st != 1 then .next s
    else if x.chk && far != x.expect then .next ((s.setRouter die (r.setPort p { x with far := far })).portDown die p 3 0)
    else if !ok then .next (s.setRouter die (r.setPort p { x with st := 0, far := far, cause := 2 }))
    else if p = 0 && other.st != 2 && other.st != 1 then .next s
    else .next (s.portUp die p far)
  | _ => .next s

/-! ## The window's registers and tables (R457, R458) -/

/-- The address of a register of a die's fabric window (R457). -/
def windowAt (die off : Nat) : Nat := 0x9020000000 + die * 0x100000 + off
/-- FEPOCH_WRITE, by the control node: the Mailbox engine applies it (R457, R483). -/
def execFepochWrite (s : State) : Host.Outcome State Fault Refusal :=
  match s.input.load with
  | .word v =>
    if s.input.unit < 2 then s.mailbox (windowAt s.input.unit 8) (s.writeFepoch s.input.unit v) else .next s
  | _ => .next s
/-- WINDOW_TABLE_WRITE: a 4-byte write into a label, route or key bank, by the control node (R457, R483). -/
def execWindowTableWrite (s : State) : Host.Outcome State Fault Refusal :=
  match s.input.load with
  | .word v =>
    let off := s.input.idx
    if s.input.unit < 2 && 0x10000 ≤ off && off < 0x40400 && off % 4 = 0 then
      s.mailbox (windowAt s.input.unit off) (s.writeTable s.input.unit off (v.toNat % 2 ^ 32))
    else .next s
  | _ => .next s

end Sys2Proof.Machine
end

