-- ==== Sys2Proof/Machine/Bringup.lean ====
section
/-! DEFINITION. Reset and boot (25, R481 to R483), attestation (R484), sensors (R485 to R487) and the Chronometer's reference
(R488, R489). -/

namespace Sys2Proof.Machine

/-! ## Reset (R481, R483) -/

/-- Every reset restarts at ROM: memory, images and logs are lost. What has left the module, and the model's own turns
and counter, go on. (log 46 DEDUCED) -/
def State.reboot (s : State) : State :=
  { State.reset with outbox := s.outbox, turns := s.turns, ctr := s.ctr, input := s.input }
def execPowerOn (s : State) : Host.Outcome State Fault Refusal := .next s.reboot
def execResetRequest (s : State) : Host.Outcome State Fault Refusal := .next s.reboot

/-! ## Boot -/

/-- FIRMWARE_FETCH_RETRY: from ROM, and then every 100 ms, the firmware is asked for. -/
def execFirmwareFetchRetry (s : State) : Host.Outcome State Fault Refusal :=
  if s.boot == .rom || s.boot == .fetch then
    .next { s with boot := .fetch, outbox := s.outbox ++ [OutMsg.imageRequest] }
  else .next s

/-- A kernel image can be placed on its die (R482). -/
def kernelOk (die : Nat) (k : KernelImage) : Bool :=
  k.entry % 16 = 0 && k.load ≤ k.entry && k.entry < k.load + k.bytes.length &&
    k.load + k.bytes.length ≤ hbmEnd && homeDie k.load = die && homeDie (k.load + k.bytes.length - 1) = die
/-- INIT succeeds (R481, R482). (log 45 DESIGN CHOICE) -/
def initOk (v : FwValues) : Bool :=
  v.trained && (List.range 2).all fun d => match v.kernels[d]? with
    | some (some k) => kernelOk d k
    | _ => false

/-- One bank of a key table as INIT writes it (R465). -/
def keyBank (l : List (BitVec 64)) : List (BitVec 64) := ((l ++ List.replicate (64 - l.length) 0).take 64).map keyEntry
/-- The router of a die as INIT sets it (R458, R459, R462, R465, R469): port 0 is trained in INIT, the others stay down until READY
(R481). (log 44 DEDUCED, 45 DESIGN CHOICE) -/
def initRouter (v : FwValues) (d : Nat) : Router :=
  let phys (k : Nat) : BitVec 14 := v.phys.getD k 0
  let banks := v.keys.getD d []
  let port (p : Nat) : Port := {
    chk := (v.chk.getD d []).getD p false, expect := (v.expect.getD d []).getD p 0, far := if p = 0 then phys (1 - d) else 0
    st := if p = 0 then 2 else 0 }
  { lself := v.lself.getD d 0, phys := phys d, accept := 1, inj := false
    keys := SMap.ofVals 0 (keyBank (banks.getD 0 []) ++ keyBank (banks.getD 1 []))
    ports := SMap.ofVals {} ((List.range 14).map port) }
/-- At READY the dimension ports train (R481). -/
def Router.trainPorts (r : Router) : Router :=
  ((List.range 13).map (· + 1)).foldl (fun r p => r.setPort p { r.port p with st := 1 }) r
/-- A temperature point with the limits INIT gives it (R485): a TRIP above 0x06e0 is stored as that. -/
def initSensor (x : BitVec 16 × BitVec 16) : Sensor :=
  { trip := if (0x06e0 : BitVec 16).slt x.1 then 0x06e0 else x.1, throt := x.2 }

/-- The kernel core of a die starts (R482). -/
def State.startKernel (s : State) (d entry : Nat) : State :=
  let t : Task := { kernel := true, s := SMap.put 0 (SMap.put 0 [] 1 (BitVec.ofNat 64 d)) 2 s.ctxtab }
  s.setCore (kernelCore d) { task := some (t.setStrand .s { pc := BitVec.ofNat 56 entry }) }

/-- INIT (R481): every `fw` field takes its value and the kernel images are placed, as instruction fetch sees them (R482).
(log 45 DESIGN CHOICE) -/
def State.initPart (s : State) (v : FwValues) : State :=
  let regs (p : PartRegs) : PartRegs :=
    PartRegs.put (PartRegs.put (PartRegs.put (PartRegs.put partReset 0 p.pclu) 1 p.pstk) 2 p.pque) 3 p.pfab
  let ks := v.kernels.filterMap id
  let s := { s with
    ctxtab := v.ctxtab &&& 0xffffffff80000
    parts := SMap.ofVals partReset ((v.parts.take 8).map regs)
    routers := SMap.ofVals {} ((List.range 2).map (initRouter v))
    sensors := SMap.ofVals {} ((v.temps.take 64).map initSensor)
    kernels := SMap.ofVals ⟨[], 0, 0⟩ ks }
  ks.foldl (fun s k => s.homeStore k.load k.bytes) s

/-- SYNC has loaded the reference (R488), and READY: the ports train, and the kernel cores start. (log 4 DESIGN CHOICE,
44 DEDUCED) -/
def State.ready (s : State) (v : FwValues) : State :=
  let s := { s with
    chrono := v.chrono
    skew := 0
    slew := []
    slewAt := SMap.ofVals 0 [v.chrono, v.chrono]
    lastRef := SMap.ofVals 0 [v.chrono, v.chrono]
    boot := .ready }
  let s := [0, 1].foldl (fun s d => s.setRouter d (s.router d).trainPorts) s
  ((v.kernels.filterMap id).zip [0, 1]).foldl (fun s x => s.startKernel x.2 x.1.entry) s

/-- A step of the boot sequence fails (R481): it is reported, and the module waits for a reset. -/
def State.bootFails (s : State) (b : BootState) : State := { s with boot := b, outbox := s.outbox ++ [OutMsg.failureReport] }
/-- INIT, SYNC and READY. -/
def State.bringUp (s : State) (v : FwValues) : State :=
  if !initOk v then s.bootFails .init
  else
    let s := s.initPart v
    if v.synced then s.ready v else s.bootFails .sync

/-- FIRMWARE_IMAGE: a bad signature discards the image and asks again; a good one runs, up to READY or to the step that fails.
(log 45 DESIGN CHOICE) -/
def execFirmwareImage (s : State) : Host.Outcome State Fault Refusal :=
  match s.input.load with
  | .image b sig v =>
    if s.boot != .fetch then .next s
    else if !Config.signatureGood b sig then .next { s with outbox := s.outbox ++ [OutMsg.imageRequest] }
    else .next ({ s with firmware := b, digest := Config.sha256 b }.bringUp v)
  | _ => .next s

/-! ## Attestation (R484) -/

def BootState.num (b : BootState) : Nat :=
  match b with
  | .rom => 1 | .fetch => 2 | .verify => 3 | .init => 4 | .sync => 5 | .ready => 6

/-- ATTESTATION_REQUEST: the report and its signature over SHA-256 of its items. (log 45 DESIGN CHOICE) -/
def execAttestationRequest (s : State) : Host.Outcome State Fault Refusal :=
  match s.input.load with
  | .nonce n =>
    let keys := [Config.identityKey 0, Config.identityKey 1]
    let items := (keys.flatMap fun k => leBytes 64 k.toNat) ++ leBytes 32 s.digest.toNat ++ leBytes 2 1 ++
      leBytes 1 s.boot.num ++ leBytes 32 n.toNat ++ leBytes 8 (s.now 0).toNat
    .next { s with outbox := s.outbox ++
      [OutMsg.attestation keys s.digest 1 s.boot n (s.now 0) (Config.sign (Config.sha256 items))] }
  | _ => .next s

/-! ## Sensors (R485, R487) -/

/-- One temperature point takes its new value; passing THROT sets OVER. Whether it passed. (log 47 DEDUCED) -/
def Sensor.refresh (x : Sensor) (v : BitVec 16) : Sensor × Bool :=
  let was := x.passed && x.throt.slt x.value
  let hot := x.throt.slt v
  ({ x with value := v, passed := x.passed || hot }, hot && !was)
/-- (log 47 DEDUCED) -/
def Sensor.tripped (x : Sensor) : Bool := x.trip.slt x.value

/-- The sensors from number `n` up take their values; each that passes THROT, or stands above TRIP, leaves a record.
(log 46 DEDUCED) -/
def State.refreshFrom (s : State) : Nat → List (BitVec 16) → State
  | _, [] => s
  | n, v :: l =>
    let (x, told) := (SMap.look ({} : Sensor) s.sensors n).refresh v
    let s := { s with sensors := SMap.put {} s.sensors n x }
    (if told || x.tripped then s.manage 0 { cause := .sensorLimit, info := BitVec.ofNat 64 n } else s).refreshFrom (n + 1) l

/-- SENSOR_REFRESH: a point above TRIP resets the module, its record sent before. (log 47 DEDUCED) -/
def execSensorRefresh (s : State) : Host.Outcome State Fault Refusal :=
  match s.input.load with
  | .sensors temps rails =>
    let s := { s with rails := SMap.ofVals 0 (rails.take 32) }.refreshFrom 0 (temps.take 64)
    .next (if s.sensors.any fun x => x.2.tripped then s.reboot else s)
  | _ => .next s

/-! ## The Chronometer (R488, R489) -/

/-- CHRONO_EXCHANGE: a die that exchanges references learns by how much its count is behind or ahead; the correction is slewed in as
time passes (State.passTime). -/
def execChronoExchange (s : State) : Host.Outcome State Fault Refusal :=
  match s.input.load with
  | .word v =>
    let die := s.input.unit
    if die < 2 && s.boot == .ready then
      .next { s with
        slew := SMap.put 0 s.slew die (v - s.now die).toInt
        lastRef := SMap.put 0 s.lastRef die (s.now die)
        refLost := s.refLost.filter (· != die) }
    else .next s
  | _ => .next s

/-- REFERENCE_LOSS: 100 ms without an exchange leave one record. -/
def execReferenceLoss (s : State) : Host.Outcome State Fault Refusal :=
  let die := s.input.unit
  if die < 2 && s.boot == .ready && !s.refLost.contains die &&
      100000000 ≤ (s.now die - SMap.look 0 s.lastRef die).toNat then
    .next ({ s with refLost := s.refLost ++ [die] }.manage die { cause := .sensorLimit, info := 0x100 })
  else .next s

end Sys2Proof.Machine
end

