-- ==== Sys2Proof/Machine/MatrixSteps.lean ====
section
/-! DEFINITION. What the arbiter and the array of a cluster do by themselves (10, R262, R283): granting the lease, passing it on,
and the current level. A cycle of the 1.05 GHz clock is 20/21 of a tick. -/

namespace Sys2Proof.Machine

def State.clusterAt (s : State) (k : Nat) : Cluster := SMap.look {} s.clusters k
def State.putCluster (s : State) (k : Nat) (x : Cluster) : State := { s with clusters := SMap.put {} s.clusters k x }
/-- Cycles as ticks of the Chronometer. (log 6 DEDUCED, 48 DEDUCED) -/
def cycleTicks (n : Nat) : Nat := n * 20 / 21

/-- The cores of a cluster in ascending order after the last holder (R262). Before there has been one, which the rule does not treat,
the cluster's first core counts as the last. (log 74 DESIGN CHOICE) -/
def grantOrder (k last : Nat) : List Nat := (List.range 4).map fun i => 4 * k + (last % 4 + 1 + i) % 4

/-- LEASE_GRANT: the first requesting core in that order takes the lease, and its quantum opens. -/
def execLeaseGrant (s : State) : Host.Outcome State Fault Refusal :=
  let k := s.input.unit
  let cl := s.clusterAt k
  match cl.holder, (grantOrder k cl.last).find? fun c => cl.reqs.contains c with
  | none, some c =>
    .next (s.putCluster k { s.openQuantum c cl with holder := some c, reqs := cl.reqs.filter (· != c), last := c })
  | _, _ => .next s

/-- LEASE_QUANTUM_EXPIRY: at a bound the lease passes when another core requests, the former holder's request staying
posted; when none does, the quantum restarts. (log 48 DEDUCED) -/
def execLeaseQuantumExpiry (s : State) : Host.Outcome State Fault Refusal :=
  let k := s.input.unit
  let cl := s.clusterAt k
  match cl.holder with
  | none => .next s
  | some c =>
    if s.mustPass cl then .next (s.putCluster k { cl with holder := none, last := c, reqs := cl.reqs ++ [c] })
    else if cl.reqs.isEmpty && s.quantumOver cl then .next (s.putCluster k (s.openQuantum c cl))
    else .next s

/-- A temperature point above THROT holds every level at 4 eighths or below (25, R487). (log 47 DEDUCED) -/
def State.levelCap (s : State) : Nat := if s.sensors.any fun x => x.2.throt.slt x.2.value then 4 else 8

/-- ARRAY_LEVEL_STEP: one eighth up while work is pending or a declaration stands, one down while ramp-down runs.
(log 48 DEDUCED) -/
def execArrayLevelStep (s : State) : Host.Outcome State Fault Refusal :=
  let k := s.input.unit
  let cl := s.clusterAt k
  if !cl.bursts.isEmpty || s.workPending cl then
    .next (s.putCluster k { cl with level := min s.levelCap (cl.level + 1), falling := false })
  else .next (s.putCluster k { cl with level := min s.levelCap (if cl.falling then cl.level - 1 else cl.level) })

/-- BURST_LAPSE: a declaration without an array word of its core for 4,096 cycles is over. -/
def execBurstLapse (s : State) : Host.Outcome State Fault Refusal :=
  let c := s.input.unit
  let cl := s.cluster c
  .next (s.setCluster c { cl with
    bursts := cl.bursts.filter fun b => !(b.1 == c && cycleTicks 4096 ≤ (s.now (dieOf c) - b.2).toNat) })

/-- RAMP_DOWN_START: with no declaration, 256 cycles after the last array work, or at its end after an MBURST.end. -/
def execRampDownStart (s : State) : Host.Outcome State Fault Refusal :=
  let k := s.input.unit
  let cl := s.clusterAt k
  if cl.bursts.isEmpty && !s.workPending cl && (cl.soon || cycleTicks 256 ≤ (s.now (dieOf (4 * k)) - cl.lastWork).toNat) then
    .next (s.putCluster k { cl with falling := true, soon := false })
  else .next s

end Sys2Proof.Machine
end

