-- ==== Sys2Proof/Machine/Traps.lean ====
section
/-! DEFINITION. Delivering faults (22, R437 to R439, R447, R449), stopping and saving teams (02, R43; 20, R420; 07, R192), and
resuming them (22, R453, R454; 02, R41, R42). -/

namespace Sys2Proof.Machine

/-! ## Delivery (R437 to R439) -/

/-- The order of R439 among faults of one task: by stamp, then S, V, M, A, F, J. -/
def FaultInfo.key (f : FaultInfo) : Nat :=
  f.stamp.toNat * 16 + match f.strand with
    | some e => Eng.num e
    | none => 15
def firstFault : List FaultInfo → Option FaultInfo
  | [] => none
  | f :: l =>
    match firstFault l with
    | none => some f
    | some g => if g.key < f.key then some g else some f

/-- Write the records that wait: those of jobs, of generator runs and of the part's own steps (R437). (log 25 DEDUCED) -/
def State.flushRecords (s : State) : State :=
  s.records.foldl (fun s r => if r.cls = 1 then s.kernelRecord r else s.writeRecord r) { s with records := [] }

/-- The faults that are recorded in place of being delivered (R439): their words are restart points. (log 25 DEDUCED) -/
def State.recordOthers (s : State) (c : Nat) (t : Task) (l : List FaultInfo) : State :=
  l.foldl (fun s f => s.writeRecord (taskRecord c t f (if f.cause.isUser then 0 else 1) false false)) s
/-- A signal of the task's own whose overflow was recorded in place of being delivered: it is tried again (R34, R439). -/
def FaultInfo.signal (f : FaultInfo) (l : List Token) : Option PendSig :=
  match f.again, f.strand with
  | some (g, ids), some e => some ⟨g, e, f.pc, l, ids⟩
  | _, _ => none
/-- The task as the first of its faults finds it: the others' own signals are tried again, once it has left the handler where one is
entered, and the fault's word is passed where its restart point follows it (R439, R440). -/
def Task.atFault (t : Task) (f : FaultInfo) (l : List Token) : Task :=
  let t := { t with sigs := t.sigs ++ (t.faults.erase f).filterMap (·.signal l) }
  match f.after, f.strand with
  | true, some e =>
    if f.parked then { t with replay := t.replay.eraseP fun w => w.env.eng == e && w.env.pc == f.pc } else t.fall e
  | _, _ => t

/-- A task is saved at once, with its team or its whole co-resident grid, or ended with it when the loss of the die-to-die
link split its grid (R437, R419). -/
def State.stopGang (s : State) (c : Nat) (t : Task) (cause : Cause) : State :=
  match s.teamOf t with
  | none => s.saveTask c (.fault cause) none
  | some tm =>
    if cause = .dieLinkLost && (s.node t.node).any fun n => n.status = 6 then s.killTeam tm cause
    else s.saveGang tm (.fault cause)

/-- Whether the save that a kernel-class delivery makes may take place: every access of the gang is performed (R43, R134). -/
def State.maySave (s : State) (c : Nat) (t : Task) : Bool :=
  match s.teamOf t with
  | none => s.coreDrained c t
  | some tm => s.gangDrained (s.gang tm)

/-- Deliver in class kernel; the second record of R447 follows where the user frame failed. (log 26 DEDUCED) -/
def State.deliverKernel (s : State) (c : Nat) (t : Task) (f : FaultInfo) (frame : Bool) : State :=
  let s := s.setCore c { s.core c with task := some { t with faults := [] } }
  let s := s.kernelRecord (taskRecord c t f 1 f.cause.isUser true)
  let g : FaultInfo := { cause := .uframeFault, strand := f.strand, pc := f.pc, addr := BitVec.ofNat 56 t.ufFrame }
  let s := if frame then s.kernelRecord (taskRecord c t g 1 false true) else s
  s.stopGang c t f.cause

/-- Deliver the first fault of a task. (log 9 DEDUCED, 25 DEDUCED) -/
def State.deliver (s : State) (c : Nat) (t : Task) (f : FaultInfo) : State :=
  let others := t.faults.erase f
  if f.cause.isUser && t.ufEn && !t.ufBusy then
    let u := t.atFault f [.resumed]
    match (s.recordOthers c u others).enterHandler c u f with
    | .ok s2 => s2
    | .error s2 => if s.maySave c t then s2.deliverKernel c (t.atFault f []) f true else s
  else if s.maySave c t then
    let u := t.atFault f []
    (s.recordOthers c u others).deliverKernel c u f false
  else s

/-- FAULT_DELIVERY, for the task of a core; first the records of causes that stop no task are written. -/
def execFaultDelivery (s : State) : Host.Outcome State Fault Refusal :=
  let c := s.input.unit
  let s := s.flushRecords
  match s.task c with
  | none => .next s
  | some t =>
    match t.kernel, firstFault t.faults with
    | false, some f => .next (s.deliver c t f)
    | _, _ => .next s

/-! ## Stops (R43, R420) -/

/-- Every live strand of a task has reached the word it stops at. (log 23 DEDUCED) -/
def Task.atStop (t : Task) : Bool :=
  match t.stopAt with
  | none => false
  | some (e, p) => !t.live.isEmpty && t.live.all fun x => !(before x.epoch x.path e p)

/-- The mask of the safe point a task stopped at; none where the save must be an immediate one (R191, R192). -/
def State.stopMask (s : State) (c : Nat) (t : Task) : Option (Option (BitVec 1024)) :=
  match t.stopLive with
  | none => some none
  | some i =>
    match (s.launchOfNode t.node).bind fun l => s.liveMask (t.who c) l i with
    | some m => some (some m)
    | none => none
/-- The address of the live mask a task stops under, where it has a reserved bit (R2). (log 59 DEDUCED) -/
def State.badMask (s : State) (c : Nat) (t : Task) : Option Nat :=
  match s.stopMask c t, t.stopLive, s.launchOfNode t.node with
  | some (some m), some i, some l => if maskBroken m then some (l.maskAddr i) else none
  | _, _, _ => none
/-- How a task is saved (R420): under the mask of the safe point at which all its strands stand, else at once. -/
def State.stopOf (s : State) (c : Nat) (t : Task) : StopKind × Option (BitVec 1024) :=
  match t.atStop && (s.badMask c t).isNone, s.stopMask c t with
  | true, some m => (.safe, m)
  | _, _ => (.immediate, none)

/-- SAFE_POINT_STOP: every task of the team has stopped, and they are saved together, so that the tasks of a team stay resident
together (R43, R44). -/
def execSafePointStop (s : State) : Host.Outcome State Fault Refusal :=
  match (s.task s.input.unit).bind s.teamOf with
  | none => .next s
  | some tm =>
    let l := s.teamTasks tm
    if !(l.all fun x => x.2.atStop && x.2.faults.isEmpty) || !s.gangDrained [tm] then .next s
    else
      match l.findSome? fun x => (s.badMask x.1 x.2).map fun a => (x.1, a) with
      | some (c, a) => .next (s.taskFault c { cause := .reservedField, addr := BitVec.ofNat 56 a })
      | none => .next (s.saveTeam s.stopOf .safe tm)

/-- A launch without usable safe points stops its teams at once (R191, R403). -/
def State.noSafePoints (s : State) (t : Team) : Bool := (s.teamTasks t).any fun x => (s.taskSafePoints x.1 x.2).isNone

/-- PREEMPT_DEADLINE: a team asked to stop is saved when DEADLINE is over, or when it has no safe points: those of its tasks that
still run at once, those that have stopped under their safe points. -/
def execPreemptDeadline (s : State) : Host.Outcome State Fault Refusal :=
  match (s.task s.input.unit).bind s.teamOf with
  | none => .next s
  | some t =>
    match t.asked, s.node t.node with
    | some a, some n =>
      let due := bits (s.queue n.queue).qtime 63 48 * 1000 ≤ (s.now (dieOf t.base) - a).toNat
      let calm := (s.teamTasks t).all fun x => x.2.faults.all fun f => f.cause.isUser
      if (due || s.noSafePoints t) && calm && s.gangDrained [t] then .next (s.saveTeam s.stopOf .immediate t) else .next s
    | _, _ => .next s

/-! ## Resuming (R453) -/

/-- An index register's section as State.sections lays it out. (log 21 DESIGN CHOICE) -/
def State.physIndex (s : State) (a : Nat) : IndexReg :=
  let m := s.physNat (a + 1032) 8
  { ent := SMap.ofVals 0 ((s.physList a 4 256).map (BitVec.ofNat 32))
    len := min 256 (s.physNat (a + 1024) 4)
    bound := BitVec.ofNat 32 (s.physNat (a + 1028) 4)
    mark := if m / 2 ^ 63 = 1 then some (BitVec.ofNat 56 m, BitVec.ofNat 32 (s.physNat (a + 1040) 4)) else none }

/-- The register, index and vector sections of an image as memory holds them: kernel software may have rewritten
them (R452). Read-only registers stay as the task left them. -/
def State.readImage (s : State) (a : Nat) (t : Task) : Task :=
  let sems := (s.physList (a + 0x2a00) 4 256).map fun v => (⟨BitVec.ofNat 16 v, BitVec.ofNat 8 (v / 2 ^ 16)⟩ : Sem)
  let csr (n : Nat) : Word := BitVec.ofNat 64 (s.physNat (a + 0x2e00 + 8 * n) 8)
  let seed := csr 2
  { t with
    s := SMap.ofVals 0 (0 :: ((s.physList (a + 0x2008) 8 63).map (BitVec.ofNat 64)))
    k := SMap.ofVals 0 ((s.physList (a + 0x2200) 16 32).map (BitVec.ofNat 128))
    p := SMap.ofVals 0 ((s.physList (a + 0x2400) 16 64).map (BitVec.ofNat 128))
    g := SMap.ofVals 0 ((s.physList (a + 0x2800) 32 16).map (BitVec.ofNat 256))
    sem := SMap.ofVals {} sems
    i := SMap.ofVals {} ((List.range 16).map fun n => s.physIndex (a + 0x3000 + 1280 * n))
    v := SMap.ofVals 0 ((s.physList (a + 0x35000) 256 768).map (BitVec.ofNat 2048))
    fpctl := writeFpctl (csr 0)
    fpstat := csr 1 &&& 0x3f
    lseed := lfsrFix (seed.extractLsb' 32 32) ++ lfsrFix (seed.extractLsb' 0 32)
    rrb := BitVec.ofNat 10 ((csr 3).toNat % 1024 % 640)
    prb := (csr 4).setWidth 5
    win := BitVec.ofNat 13 (max 16 (min 4096 ((csr 5).toNat % 2 ^ 13)))
    domain := writeDomain t.domain (csr 19)
    sticky := (csr 32).setWidth 6
    ufentry := writeUfentry t.ufentry (csr 33) }

/-- What a strand was doing between two of its steps is begun anew; a BAR that has arrived stays so (R41), and so does a
SEMWAIT that was satisfied (R32). -/
def Strand.resumed (x : Strand) : Strand :=
  { x with
    retry := none
    phase := match x.phase with
      | .barred n => .barred n
      | .issued => .issued
      | .fresh => .fresh
      | .woken => .woken
      | _ => .begun }

/-- Group slots that were joined from another die are aborted; one whose contribution has gone out is so once its output has been
written (R335, R370). -/
def Task.moveGroups (t : Task) (label : BitVec 14) : Task :=
  { t with groups := t.groups.map fun x =>
      (x.1, if x.2.label = label then x.2
        else match x.2.st with
          | .ready => { x.2 with st := .aborted, cause := .peerAbsent }
          | .busy => { x.2 with moved := true }
          | _ => x.2) }
def Task.lostGroups (t : Task) (label : BitVec 14) : List Nat :=
  (t.groups.filter fun x => (x.2.st == .ready || x.2.st == .busy) && x.2.label != label).map (·.1)

/-- A fault that a task takes as it resumes (R453): at its core's count, before the user fault that it brought back, those of held
tiles before an overflow recorded meanwhile. -/
def FaultInfo.atResume (f : FaultInfo) : FaultInfo := { f with stamp := if f.origin = 8 then 0 else 1 }
/-- The task of an image as it stands on a core: no strand goes on before a user fault that was pending is delivered (R453). -/
def State.resumedTask (s : State) (m : SavedTask) (c : Nat) : Task :=
  let t := ((s.readImage m.addr m.task).moveGroups (s.router (dieOf c)).lself).placedAt c
  { t with
    strands := t.strands.map fun x => (x.1, x.2.resumed)
    taskid := taskidOf t.asid c
    faults := (t.faults.map fun f => { f with all := true }) ++ m.pending.map FaultInfo.atResume
    leaseReq := false
    leaseHeld := false
    stop := none
    stopAt := none
    stopLive := none }

/-- The bytes that a held tile still has to write: of a packed-sparse one those of its rows not committed (R102). -/
def Tile.unwritten (t : Tile) : List EWrite :=
  if t.bind.d.layout = 2 then (packedHeld t t.fromRow).1.map fun x => ⟨x.1, none, x.2⟩ else tileWrites t
/-- A held tile that has come back registers its lines anew, and reads of memory are forwarded from it (R100, R106). -/
def State.reregister (s : State) (c : Nat) (x : Tile) : State :=
  match s.place (x.who c none) .wb ⟨[], []⟩ x.unwritten with
  | (_, .error _) => s.modTile c x.name fun t => { t with fwd := [] }
  | (_, .ok p) =>
    let lines := (if x.bind.d.layout = 2 then s.linesLeft c x x.fromRow else p.lines).filter fun l => !x.passed.contains l
    { s with dirty := s.dirty ++ lines.map fun l => (l, c, x.name) }.modTile c x.name fun t =>
      { t with fwd := p.cells.filter fun b => !x.passed.contains (lineOf b.1) }

/-- Held tiles come back as held (R453); none while one waits for a way. -/
def State.reinstall (s : State) (c : Nat) : List Tile → Option State
  | [] => some s
  | x :: l =>
    match s.makeRoom c x.name [] with
    | .ok s way _ => ((s.installTile c { x with way := way }).reregister c x).reinstall c l
    | _ => none

/-- Resume one task on a core (R453), none while it waits: its image is empty from then on (R452). -/
def State.resumeTask (s : State) (m : SavedTask) (c : Nat) : Option State :=
  match s.reinstall c m.held with
  | none => none
  | some s =>
    let t := s.resumedTask m c
    let s := { s with images := s.images.filter fun x => x.addr != m.addr }.quietStore (m.addr + 48) [0]
    let s := (m.task.lostGroups (s.router (dieOf c)).lself).foldl (fun s g => s.unreserve t.uid g) s
    let s := (s.setCore c { s.core c with task := some t }).switchTiles c t.asid
    let cl := s.cluster c
    some (if m.task.leaseHeld || m.task.leaseReq then s.setCluster c { cl with reqs := cl.reqs ++ [c] } else s)

/-- A team on its new cores; none while a tile waits. -/
def State.resumeAt (s : State) (t : Team) (b : Nat) : Option State :=
  let imgs := s.images.filter fun x => x.task.node == t.node && x.task.team == t.num
  match imgs.foldl (fun o m => o.bind fun s => s.resumeTask m (b + m.task.rank)) (some s) with
  | none => none
  | some s =>
    some ((s.setTeam { t with base := b, st := .running, placed := s.now (dieOf b), asked := none }).fetchAgain
      ((List.range t.size).map (· + b)))

/-- An image of a team is not as the part left it: a wrong CHECK or STOP, or another change of R452, a reserved place that holds
other than zero among them (R2). (log 22 DEDUCED) -/
def State.imageBad (s : State) (m : SavedTask) : Bool :=
  let stop := s.physNat (m.addr + 48) 1
  s.opaqueCellsOf m.addr m.ext != m.opaqueCells || stop = 0 || stop = 4 ||
    (List.range 0x78).any fun i => s.homeByte (m.addr + 0x2f88 + i) != 0
/-- A line of an image or its extension is lost (R454). -/
def State.imageLost (s : State) (m : SavedTask) : Bool :=
  s.lost.any fun l => (m.addr ≤ l * 64 && l * 64 < m.addr + 2 ^ 20) || (m.ext ≤ l * 64 && l * 64 < m.ext + 2 ^ 21)

/-- An image that cannot be resumed: IMAGE_INVALID leaves it saved until RESUME; lost data ends its team. -/
def State.refuseImage (s : State) (t : Team) (m : SavedTask) (c : Cause) : State :=
  let r : RecordOut := {
    ctx := some t.ctx, die := dieOf t.base, cls := 1, image := BitVec.ofNat 32 m.task.image, asid := m.task.asid
    info := { cause := c } }
  let s := s.kernelRecord r
  if c = .saveFailed then s.killTeam t c
  else ((s.gang t).foldl (fun s g => s.setTeam { g with st := if g.st = .saved then .faulted else g.st }) s).retimeNode t.node

/-- The teams of a grid and the bases chosen for them, all saved and the whole grid if it is co-resident (R41, R42).
(log 24 DEDUCED) -/
def State.resumeSet (s : State) (n : Node) (place : List (Nat × Nat)) : Option (List (Team × Nat)) :=
  let l := launchOf n.record
  let size := teamSize l.team
  let mine := s.teams.filter fun t => t.node == n.id
  let chosen := place.filterMap fun x => (mine.find? fun t => t.num == x.1 && t.st == .saved).map fun t => (t, x.2)
  let bs := place.map (·.2)
  let sameDies := (chosen.filter fun x => dieOf x.1.base == 1).length = (bs.filter fun b => dieOf b == 1).length
  if chosen.length = place.length && !place.isEmpty && ((place.map (·.1)).eraseDups.length = place.length) &&
      bs.all (s.baseOk n size) && apart size bs && s.picked n false bs &&
      (if l.cores then place.length = mine.length && sameDies else place.length = 1) then some chosen else none

/-- TEAM_RESUME: a saved team, or a whole co-resident grid, is placed and each of its tasks restored. -/
def execTeamResume (s : State) : Host.Outcome State Fault Refusal :=
  match s.node s.input.unit, s.input.load with
  | some n, .place l =>
    if !s.wantsCores n || (s.badCtx n.ctx).isSome then .next s
    else
      match s.resumeSet n l with
      | none => .next s
      | some x =>
        let imgs := s.images.filter fun m => m.task.node == n.id && x.any fun y => y.1.num == m.task.team
        let bad (p : SavedTask → Bool) : Option (Team × SavedTask) :=
          (imgs.find? p).bind fun m => (x.find? fun y => y.1.num == m.task.team).map fun y => (y.1, m)
        match bad s.imageLost, bad s.imageBad with
        | some (t, m), _ => .next (s.refuseImage t m .saveFailed)
        | none, some (t, m) => .next (s.refuseImage t m .imageInvalid)
        | none, none =>
          match x.foldl (fun o y => o.bind fun s => s.resumeAt y.1 y.2) (some s) with
          | some s => .next (s.served n.queue 2)
          | none => .next s
  | _, _ => .next s

end Sys2Proof.Machine
end

