-- ==== Sys2Proof/Machine/VConv.lean ====
section
/-! DEFINITION. Conversions between element types (09, R244 to R247; 03, R50, R62). -/

namespace Sys2Proof.Machine

/-- Lanes of a vector with some replaced: none keeps the old lane of a register and is zero in a store queue. -/
def overLanes (w : Nat) (isReg : Bool) (old : Vec) (l : List (Option Nat)) : Vec :=
  vecOf w ((l.zip (List.range l.length)).map fun x => match x.1 with
    | some v => v
    | none => if isReg then laneAt w old x.2 else 0)

/-- An inactive lane of R228: kept under merging in a register, else zero. -/
def idleLane (z isReg : Bool) (w : Nat) (old : Vec) (i : Nat) : Nat := if isReg && !z then laneAt w old i else 0

def allFlags (l : List (Nat × FFlags)) : FFlags := l.foldl (fun a x => a ||| x.2) 0
def lfsrLeft (r : RoundAt) : Option (BitVec 32) := if r.code = 4 then some r.lfsr else none

/-- VCVT (R244). -/
def execVcvt (o : VCvtOp) (s : State) : Host.Outcome State Fault Refusal :=
  s.runV true [o.a] (some o.d) 1 fun env t vals =>
    let p := t.pread env.prb o.pr.p
    let r := roundAt o.rm env.fpctl t.vst
    let z := ftzOf env.fpctl
    let wd := o.dst.width
    let ws := o.src.width
    let wm := max wd ws
    let n := 2048 / wm
    let g := o.seg.toNat
    let a := vals.getD 0 0
    let old := t.oldOf env.rrb o.d
    if wd < ws then
      let out := (List.range n).map fun i =>
        if laneActive wm p i then convert o.dst o.src (r.mode (g * n + i)) o.sat z (laneAt ws a i)
        else (idleLane o.pr.z o.d.isReg wd old (g * n + i), 0)
      let lanes := (List.range (2048 / wd)).map fun k =>
        if g * n ≤ k && k < g * n + n then some (out.getD (k - g * n) (0, 0)).1 else none
      .ok { puts := [(o.d, overLanes wd o.d.isReg old lanes)], fl := allFlags out, lfsr := lfsrLeft r }
    else
      let out := (List.range n).map fun i =>
        if laneActive wm p i then convert o.dst o.src (r.mode i) o.sat z (laneAt ws a (g * n + i))
        else (idleLane o.pr.z o.d.isReg wd old i, 0)
      .ok { puts := [(o.d, vecOf wd (out.map (·.1)))], fl := allFlags out, lfsr := lfsrLeft r }

/-- VPACK (R245). -/
def execVpack (o : VPackOp) (s : State) : Host.Outcome State Fault Refusal :=
  s.runV true [o.a, o.b] (some o.d) 1 fun env t vals =>
    let p := t.pread env.prb o.pr.p
    let r := roundAt o.rm env.fpctl t.vst
    let z := ftzOf env.fpctl
    let wd := o.dst.width
    let ws := o.src.width
    let n := 2048 / ws
    let old := t.oldOf env.rrb o.d
    let out := (List.range (2 * n)).map fun k =>
      if laneActive ws p (k % n) then
        convert o.dst o.src (r.mode k) o.sat z (laneAt ws (vals.getD (k / n) 0) (k % n))
      else (idleLane o.pr.z o.d.isReg wd old k, 0)
    .ok { puts := [(o.d, vecOf wd (out.map (·.1)))], fl := allFlags out, lfsr := lfsrLeft r }

/-- The destination of the second part of VUNPK. -/
def nextDst (d : VDst) : VDst :=
  match d with
  | .reg n => .reg (n + 1)
  | .push w => .push w

/-- VUNPK (R245). -/
def execVunpk (o : VUnpkOp) (s : State) : Host.Outcome State Fault Refusal :=
  s.runV true [o.a] (some o.d) 2 fun env t vals =>
    let p := t.pread env.prb o.pr.p
    let r := roundAt o.rm env.fpctl t.vst
    let z := ftzOf env.fpctl
    let wd := o.dst.width
    let ws := o.src.width
    let n := 2048 / wd
    let part (h : Nat) (d : VDst) : List (Nat × FFlags) := (List.range n).map fun i =>
      if laneActive wd p i then
        convert o.dst o.src (r.mode (h * n + i)) o.sat z (laneAt ws (vals.getD 0 0) (h * n + i))
      else (idleLane o.pr.z o.d.isReg wd (t.oldOf env.rrb d) i, 0)
    let lo := part 0 o.d
    let hi := part 1 (nextDst o.d)
    .ok { puts := [(o.d, vecOf wd (lo.map (·.1))), (nextDst o.d, vecOf wd (hi.map (·.1)))]
          fl := allFlags lo ||| allFlags hi, lfsr := lfsrLeft r }

/-! ## Block quantisation (R50, R246) -/

def emaxOf : ETy → Int
  | .e2m1 => 2
  | .e4m3 => 8
  | _ => 15

/-- The larger magnitude of two values that are not NaN. -/
def absMax (a b : Exact) : Exact := if cmpExact { a with neg := false } { b with neg := false } == .lt then b else a

/-- The scale of a block of values none of which is NaN (R50). -/
def blockScale (t : ETy) (l : List FVal) : Nat :=
  if l.any FVal.isInf then 254
  else
    let m := l.foldl (fun a x => match x with
      | .fin y => absMax a y
      | _ => a) ⟨false, 0, 0, false⟩
    if m.isZero then 0
    else (clampInt ((m.mant.log2 : Int) + m.exp - emaxOf t + 127) 0 254).toNat

/-- v × 2^e. -/
def FVal.scale (x : FVal) (e : Int) : FVal :=
  match x with
  | .fin y => .fin { y with exp := y.exp + e }
  | x => x

/-- One block: its scale and its elements with their flags; `i0` is the destination lane of its first element. -/
def quantBlock (dst : ETy) (r : RoundAt) (l : List FVal) (i0 : Nat) : Nat × List (Nat × FFlags) :=
  if l.any FVal.isNaN then
    (0xff, l.map fun x => (defaultNaN dst, if x.isSNaN || (dst = .e2m1 && x.isNaN) then flIV else 0))
  else
    let sc := blockScale dst l
    (sc, (l.zip (List.range l.length)).map fun x =>
      Res.to ⟨FVal.scale x.1 (127 - (sc : Int)), 0⟩ dst (r.mode (i0 + x.2)) true false)

/-- VQNT (R246). Where d is a store queue R246 does not say what its entry holds outside segment g: the model pushes zeros there, as
R244 has it for VCVT. (log 77 DESIGN CHOICE) -/
def execVqnt (o : VQntOp) (s : State) : Host.Outcome State Fault Refusal :=
  s.runV true [o.a] (some o.d) 1 fun env t vals =>
    let clash := match o.d with
      | .reg n => physV env.rrb n == physV env.rrb o.b
      | .push _ => false
    if clash then .error .reservedField
    else
      let r := roundAt o.rm env.fpctl t.vst
      let wd := o.dst.width
      let ws := o.src.width
      let n := 2048 / ws
      let g := o.seg.toNat
      let a := vals.getD 0 0
      let blocks := (List.range (n / 32)).map fun j =>
        quantBlock o.dst r ((List.range 32).map fun k => unpack o.src false (laneAt ws a (32 * j + k))) (g * n + 32 * j)
      let es := blocks.flatMap (·.2)
      let lanes := (List.range (2048 / wd)).map fun k =>
        if g * n ≤ k && k < g * n + n then some (es.getD (k - g * n) (0, 0)).1 else none
      let sc := (List.range 256).map fun k =>
        let i := g * (n / 32)
        if i ≤ k && k < i + n / 32 then some (blocks.getD (k - i) (0, [])).1 else none
      .ok { puts := [(o.d, overLanes wd o.d.isReg (t.oldOf env.rrb o.d) lanes),
                     (.reg o.b, overLanes 8 true (t.vread env.rrb o.b) sc)]
            fl := allFlags es, lfsr := lfsrLeft r }

/-- VSCL (R247): a × 2^e formed exactly. -/
def sclVal (a : FVal) (e : Int) : Res := if a.isNaN then nanRes [a] else ⟨FVal.scale a e, 0⟩
def execVscl (o : VF2) (s : State) : Host.Outcome State Fault Refusal :=
  s.floatWord o.ty o.d o.pr [o.a, o.b] o.rm fun r z v i =>
    (sclVal (valAt o.ty z v 0 i) (sval o.ty.width (laneAt o.ty.width (v.getD 1 0) i))).arith o.ty (r.mode i) o.sat z
def execVsclImm (o : VSclI) (s : State) : Host.Outcome State Fault Refusal :=
  s.floatWord o.ty o.d o.pr [o.a] o.rm fun r z v i =>
    (sclVal (valAt o.ty z v 0 i) o.imm.toInt).arith o.ty (r.mode i) o.sat z

end Sys2Proof.Machine
end

