-- ==== Sys2Proof/Machine/VMove.lean ====
section
/-! DEFINITION. Moves, selects and permutes of the V strand (09, R248 to R256). -/

namespace Sys2Proof.Machine

def execVmov (o : VX1) (s : State) : Host.Outcome State Fault Refusal := s.bits1 o fun a => a
/-- VMOVI (R248): it merges inactive lanes. -/
def execVmovi (o : VMoviOp) (s : State) : Host.Outcome State Fault Refusal :=
  s.laneWord o.ty o.d ⟨o.p, false⟩ [] false fun _ _ _ _ _ => o.imm.toNat % 2 ^ o.ty.width

/-- VSEL (R249): the predicate chooses between the sources. -/
def execVsel (o : VSelOp) (s : State) : Host.Outcome State Fault Refusal :=
  s.laneWord o.ty o.d ⟨0, false⟩ [o.a, o.b] (rotP o.p) fun env t _ v i =>
    rawAt o.ty v (if laneActive o.ty.width (t.pread env.prb o.p) i then 0 else 1) i

/-- VPERM (R250). -/
def execVperm (o : VX3) (s : State) : Host.Outcome State Fault Refusal :=
  s.laneWord o.ty o.d o.pr (if o.ty.width = 8 then [o.a, o.b] else [o.a, o.b, o.c]) false fun _ _ _ v i =>
    let n := o.ty.lanes
    let x := rawAt o.ty v 1 i
    if x < n then rawAt o.ty v 0 x else if x < 2 * n then rawAt o.ty v 2 (x - n) else 0

/-- The patterns of R251. -/
def shufLane (pat : ShufPat) (n : Nat) (a b : Nat → Nat) (i : Nat) : Nat :=
  match pat with
  | .zlo => if i % 2 = 0 then a (i / 2) else b (i / 2)
  | .zhi => if i % 2 = 0 then a (n / 2 + i / 2) else b (n / 2 + i / 2)
  | .even => if i < n / 2 then a (2 * i) else b (2 * (i - n / 2))
  | .odd => if i < n / 2 then a (2 * i + 1) else b (2 * (i - n / 2) + 1)
  | .pswap => if i % 2 = 0 then a (i + 1) else a (i - 1)
  | .rev => a (n - 1 - i)
def ShufPat.usesB : ShufPat → Bool
  | .pswap | .rev => false
  | _ => true
def execVshuf (o : VShufOp) (s : State) : Host.Outcome State Fault Refusal :=
  s.laneWord o.ty o.d o.pr (if ShufPat.usesB o.pat then [o.a, o.b] else [o.a]) false fun _ _ _ v i =>
    shufLane o.pat o.ty.lanes (rawAt o.ty v 0) (rawAt o.ty v 1) i

def execVrot (o : VImm1) (s : State) : Host.Outcome State Fault Refusal :=
  s.laneWord o.ty o.d o.pr [o.a] false fun _ _ _ v i =>
    rawAt o.ty v 0 ((i + o.imm.toNat % o.ty.lanes) % o.ty.lanes)
def execVslide (o : VImm2) (s : State) : Host.Outcome State Fault Refusal :=
  s.laneWord o.ty o.d o.pr [o.a, o.b] false fun _ _ _ v i =>
    if i + o.imm.toNat < o.ty.lanes then rawAt o.ty v 0 (i + o.imm.toNat)
    else rawAt o.ty v 1 (i + o.imm.toNat - o.ty.lanes)
def execVbcast (o : VImm1) (s : State) : Host.Outcome State Fault Refusal :=
  s.laneWord o.ty o.d o.pr [o.a] false fun _ _ _ v _ => rawAt o.ty v 0 o.imm.toNat
def execVbcastScalar (o : VBcsOp) (s : State) : Host.Outcome State Fault Refusal :=
  s.laneWord o.ty o.d o.pr [] true fun env _ _ _ _ => (sget env.s o.sa).toNat % 2 ^ o.ty.width
/-- VSETL (R253): one lane, whatever the predicates. -/
def execVsetl (o : VSetlOp) (s : State) : Host.Outcome State Fault Refusal :=
  s.runV true [] (some (.reg o.d)) 0 fun env t _ =>
    let old := t.vread env.rrb o.d
    .ok { puts := [(.reg o.d, vecOf o.ty.width ((List.range o.ty.lanes).map fun i =>
      if i = o.lane.toNat then (sget env.s o.sa).toNat else laneAt o.ty.width old i))] }

/-- VTPOSE (R254): every source is read before any destination is written. -/
def execVtpose (o : VTposeOp) (s : State) : Host.Outcome State Fault Refusal :=
  s.runV (rotV o.d || rotV o.a) [] none 0 fun env t _ =>
    let w := o.ty.width
    let rows := 32 / w
    let src := (List.range (64 / rows)).map fun k => t.vread env.rrb (o.a + BitVec.ofNat 10 k)
    let at_ (row col : Nat) : Nat := laneAt w (src.getD (row / rows) 0) (row % rows * 64 + col)
    .ok { puts := (List.range (64 / rows)).map fun k =>
      (.reg (o.d + BitVec.ofNat 10 k),
        vecOf w ((List.range (64 * rows)).map fun l => at_ (l % 64) (k * rows + l / 64))) }

/-- How many lanes below `i` are active. -/
def activeBelow (w : Nat) (p : BitVec 128) (i : Nat) : Nat := ((List.range i).filter (laneActive w p)).length

def execViota (o : VIotaOp) (s : State) : Host.Outcome State Fault Refusal :=
  s.laneWord o.ty o.d o.pr [] false fun _ _ _ _ i => wrapInt o.ty.width (o.imm.toInt + i)
def execViotaCnt (o : VIotaOp) (s : State) : Host.Outcome State Fault Refusal :=
  s.laneWord o.ty o.d o.pr [] false fun _ _ p _ i =>
    wrapInt o.ty.width (o.imm.toInt + activeBelow o.ty.width p i)

/-- VCOMPR (R256). -/
def execVcompr (o : VComprOp) (s : State) : Host.Outcome State Fault Refusal :=
  s.runV (o.d.rot || o.a.rot || rotP o.p) [o.a] (some o.d) 1 fun env t vals =>
    let p := t.pread env.prb o.p
    let l := ((List.range o.ty.lanes).filter (laneActive o.ty.width p)).map (rawAt o.ty vals 0)
    .ok { puts := [(o.d, vecOf o.ty.width l)] }
def execVexpnd (o : VX1) (s : State) : Host.Outcome State Fault Refusal :=
  s.laneWord o.ty o.d o.pr [o.a] false fun _ _ p v i => rawAt o.ty v 0 (activeBelow o.ty.width p i)

end Sys2Proof.Machine
end

