-- ==== Sys2Proof/Machine/VPred.lean ====
section
/-! DEFINITION. The predicate words (09, R259). -/

namespace Sys2Proof.Machine

/-- A word that writes one predicate from others. -/
def State.predWord (s : State) (d : PReg) (srcs : List PReg) (f : List (BitVec 128) → BitVec 128) :
    Host.Outcome State Fault Refusal :=
  s.runV (rotP d || srcs.any rotP) [] none 0 fun env t _ =>
    .ok { pred := some (d, f (srcs.map (t.pread env.prb))) }
def pAt (l : List (BitVec 128)) (k : Nat) : BitVec 128 := l.getD k 0

def execPand (o : P3) (s : State) : Host.Outcome State Fault Refusal :=
  s.predWord o.d [o.a, o.b] fun l => pAt l 0 &&& pAt l 1
def execPor (o : P3) (s : State) : Host.Outcome State Fault Refusal :=
  s.predWord o.d [o.a, o.b] fun l => pAt l 0 ||| pAt l 1
def execPxor (o : P3) (s : State) : Host.Outcome State Fault Refusal :=
  s.predWord o.d [o.a, o.b] fun l => pAt l 0 ^^^ pAt l 1
def execPnot (o : P2) (s : State) : Host.Outcome State Fault Refusal := s.predWord o.d [o.a] fun l => ~~~ pAt l 0
def execPmov (o : P2) (s : State) : Host.Outcome State Fault Refusal := s.predWord o.d [o.a] fun l => pAt l 0

/-- The lowest lane that a predicate bit governs at width `w`. -/
def laneOfBit (w i : Nat) : Nat := if w = 32 then i / 2 else if w = 16 then i else 2 * i
def predOf (f : Nat → Bool) : BitVec 128 := BitVec.ofNat 128 (packLanes 1 ((List.range 128).map fun i => (f i).toNat))

/-- The patterns of PSET (R259). -/
def psetBits (o : PsetOp) : BitVec 128 :=
  match o.pat with
  | .none => 0
  | .all => BitVec.allOnes 128
  | .first => predOf fun i => laneOfBit o.ty.width i < o.n.toNat
  | .from => predOf fun i => o.n.toNat ≤ laneOfBit o.ty.width i
def execPset (o : PsetOp) (s : State) : Host.Outcome State Fault Refusal := s.predWord o.d [] fun _ => psetBits o

/-- PFIRST (R259): the lowest active lane alone, as the bits that R229 gives it, or at width 8 the one bit that governs
it. -/
def firstBits (w : Nat) (p : BitVec 128) : BitVec 128 :=
  match (List.range (2048 / w)).find? (laneActive w p) with
  | none => 0
  | some k => predOf fun i => if w = 32 then i / 2 == k else if w = 16 then i == k else i == k / 2
def execPfirst (o : PfirstOp) (s : State) : Host.Outcome State Fault Refusal :=
  s.predWord o.d [o.a] fun l => firstBits o.ty.width (pAt l 0)

end Sys2Proof.Machine
end

