-- ==== Sys2Proof/Machine/Dispatch.lean ====
section
/-! DEFINITION. Which meaning each instruction has: one arm per constructor of Instr. -/

namespace Sys2Proof.Machine

/-- (log 54 DESIGN CHOICE) -/
def exec (i : Instr) (s : State) : Host.Outcome State Fault Refusal :=
  match i with
  | .br o => Sys2Proof.Machine.execBr o s
  | .brc o => Sys2Proof.Machine.execBrc o s
  | .brp o => Sys2Proof.Machine.execBrp o s
  | .call o => Sys2Proof.Machine.execCall o s
  | .loop o => Sys2Proof.Machine.execLoop o s
  | .loopm o => Sys2Proof.Machine.execLoopm o s
  | .fork o => Sys2Proof.Machine.execFork o s
  | .winset o => Sys2Proof.Machine.execWinset o s
  | .brx o => Sys2Proof.Machine.execBrx o s
  | .add o => Sys2Proof.Machine.execAdd o s
  | .sub o => Sys2Proof.Machine.execSub o s
  | .addi o => Sys2Proof.Machine.execAddi o s
  | .mul o => Sys2Proof.Machine.execMul o s
  | .mulh o => Sys2Proof.Machine.execMulh o s
  | .mulhn o => Sys2Proof.Machine.execMulhn o s
  | .div o => Sys2Proof.Machine.execDiv o s
  | .divn o => Sys2Proof.Machine.execDivn o s
  | .rem o => Sys2Proof.Machine.execRem o s
  | .remn o => Sys2Proof.Machine.execRemn o s
  | .and o => Sys2Proof.Machine.execAnd o s
  | .or o => Sys2Proof.Machine.execOr o s
  | .xor o => Sys2Proof.Machine.execXor o s
  | .andn o => Sys2Proof.Machine.execAndn o s
  | .shl o => Sys2Proof.Machine.execShl o s
  | .shr o => Sys2Proof.Machine.execShr o s
  | .sra o => Sys2Proof.Machine.execSra o s
  | .rotr o => Sys2Proof.Machine.execRotr o s
  | .cmp o => Sys2Proof.Machine.execCmp o s
  | .min o => Sys2Proof.Machine.execMin o s
  | .max o => Sys2Proof.Machine.execMax o s
  | .minn o => Sys2Proof.Machine.execMinn o s
  | .maxn o => Sys2Proof.Machine.execMaxn o s
  | .sel o => Sys2Proof.Machine.execSel o s
  | .clz o => Sys2Proof.Machine.execClz o s
  | .ctz o => Sys2Proof.Machine.execCtz o s
  | .popc o => Sys2Proof.Machine.execPopc o s
  | .brev o => Sys2Proof.Machine.execBrev o s
  | .bswap o => Sys2Proof.Machine.execBswap o s
  | .extr o => Sys2Proof.Machine.execExtr o s
  | .insr o => Sys2Proof.Machine.execInsr o s
  | .movi o => Sys2Proof.Machine.execMovi o s
  | .mov o => Sys2Proof.Machine.execMov o s
  | .sext o => Sys2Proof.Machine.execSext o s
  | .zext o => Sys2Proof.Machine.execZext o s
  | .getl o => Sys2Proof.Machine.execGetl o s
  | .ld o => Sys2Proof.Machine.execLd o s
  | .st o => Sys2Proof.Machine.execSt o s
  | .lda o => Sys2Proof.Machine.execLda o s
  | .stl o => Sys2Proof.Machine.execStl o s
  | .ldnt o => Sys2Proof.Machine.execLdnt o s
  | .prefl o => Sys2Proof.Machine.execPrefl o s
  | .amoadd o => Sys2Proof.Machine.execAmoadd o s
  | .amoand o => Sys2Proof.Machine.execAmoand o s
  | .amoor o => Sys2Proof.Machine.execAmoor o s
  | .amoxor o => Sys2Proof.Machine.execAmoxor o s
  | .amomin o => Sys2Proof.Machine.execAmomin o s
  | .amomax o => Sys2Proof.Machine.execAmomax o s
  | .amominn o => Sys2Proof.Machine.execAmominn o s
  | .amomaxn o => Sys2Proof.Machine.execAmomaxn o s
  | .amoswp o => Sys2Proof.Machine.execAmoswp o s
  | .cas o => Sys2Proof.Machine.execCas o s
  | .cas2 o => Sys2Proof.Machine.execCas2 o s
  | .amofadd o => Sys2Proof.Machine.execAmofadd o s
  | .fenceAcq o => Sys2Proof.Machine.execFenceAcq o s
  | .fenceRel o => Sys2Proof.Machine.execFenceRel o s
  | .fenceFull o => Sys2Proof.Machine.execFenceFull o s
  | .fenceMca o => Sys2Proof.Machine.execFenceMca o s
  | .dcwb o => Sys2Proof.Machine.execDcwb o s
  | .dcinv o => Sys2Proof.Machine.execDcinv o s
  | .iinv o => Sys2Proof.Machine.execIinv o s
  | .semsig o => Sys2Proof.Machine.execSemsig o s
  | .semwait o => Sys2Proof.Machine.execSemwait o s
  | .semget o => Sys2Proof.Machine.execSemget o s
  | .semset o => Sys2Proof.Machine.execSemset o s
  | .evset o => Sys2Proof.Machine.execEvset o s
  | .evclr o => Sys2Proof.Machine.execEvclr o s
  | .evwait o => Sys2Proof.Machine.execEvwait o s
  | .launch o => Sys2Proof.Machine.execLaunch o s
  | .lstat o => Sys2Proof.Machine.execLstat o s
  | .kset o => Sys2Proof.Machine.execKset o s
  | .kadd o => Sys2Proof.Machine.execKadd o s
  | .kgetLo o => Sys2Proof.Machine.execKgetLo o s
  | .kgetHi o => Sys2Proof.Machine.execKgetHi o s
  | .csrr o => Sys2Proof.Machine.execCsrr o s
  | .csrw o => Sys2Proof.Machine.execCsrw o s
  | .chron o => Sys2Proof.Machine.execChron o s
  | .trap o => Sys2Proof.Machine.execTrap o s
  | .brk o => Sys2Proof.Machine.execBrk o s
  | .csrrp o => Sys2Proof.Machine.execCsrrp o s
  | .csrwp o => Sys2Proof.Machine.execCsrwp o s
  | .resume o => Sys2Proof.Machine.execResume o s
  | .harvest o => Sys2Proof.Machine.execHarvest o s
  | .tlbinvRange o => Sys2Proof.Machine.execTlbinvRange o s
  | .tlbinvAsid o => Sys2Proof.Machine.execTlbinvAsid o s
  | .killtask o => Sys2Proof.Machine.execKilltask o s
  | .vfadd o => Sys2Proof.Machine.execVfadd o s
  | .vfsub o => Sys2Proof.Machine.execVfsub o s
  | .vfmul o => Sys2Proof.Machine.execVfmul o s
  | .vfmulz o => Sys2Proof.Machine.execVfmulz o s
  | .vfma o => Sys2Proof.Machine.execVfma o s
  | .vfmaz o => Sys2Proof.Machine.execVfmaz o s
  | .vfms o => Sys2Proof.Machine.execVfms o s
  | .vfnma o => Sys2Proof.Machine.execVfnma o s
  | .vfmin o => Sys2Proof.Machine.execVfmin o s
  | .vfmax o => Sys2Proof.Machine.execVfmax o s
  | .vfabs o => Sys2Proof.Machine.execVfabs o s
  | .vfneg o => Sys2Proof.Machine.execVfneg o s
  | .vfcpsgn o => Sys2Proof.Machine.execVfcpsgn o s
  | .vfdiv o => Sys2Proof.Machine.execVfdiv o s
  | .vfsqrt o => Sys2Proof.Machine.execVfsqrt o s
  | .vfrcp o => Sys2Proof.Machine.execVfrcp o s
  | .vfrsq o => Sys2Proof.Machine.execVfrsq o s
  | .vfexp2 o => Sys2Proof.Machine.execVfexp2 o s
  | .vflog2 o => Sys2Proof.Machine.execVflog2 o s
  | .vfsin o => Sys2Proof.Machine.execVfsin o s
  | .vfcos o => Sys2Proof.Machine.execVfcos o s
  | .vftanh o => Sys2Proof.Machine.execVftanh o s
  | .vfcmp o => Sys2Proof.Machine.execVfcmp o s
  | .vfclass o => Sys2Proof.Machine.execVfclass o s
  | .vfrnd o => Sys2Proof.Machine.execVfrnd o s
  | .vadd o => Sys2Proof.Machine.execVadd o s
  | .vsub o => Sys2Proof.Machine.execVsub o s
  | .vadds o => Sys2Proof.Machine.execVadds o s
  | .vsubs o => Sys2Proof.Machine.execVsubs o s
  | .vmul o => Sys2Proof.Machine.execVmul o s
  | .vmulh o => Sys2Proof.Machine.execVmulh o s
  | .vmin o => Sys2Proof.Machine.execVmin o s
  | .vmax o => Sys2Proof.Machine.execVmax o s
  | .vand o => Sys2Proof.Machine.execVand o s
  | .vor o => Sys2Proof.Machine.execVor o s
  | .vxor o => Sys2Proof.Machine.execVxor o s
  | .vshl o => Sys2Proof.Machine.execVshl o s
  | .vshlImm o => Sys2Proof.Machine.execVshlImm o s
  | .vshr o => Sys2Proof.Machine.execVshr o s
  | .vshrImm o => Sys2Proof.Machine.execVshrImm o s
  | .vsra o => Sys2Proof.Machine.execVsra o s
  | .vsraImm o => Sys2Proof.Machine.execVsraImm o s
  | .vcmp o => Sys2Proof.Machine.execVcmp o s
  | .vabs o => Sys2Proof.Machine.execVabs o s
  | .vclz o => Sys2Proof.Machine.execVclz o s
  | .vpopc o => Sys2Proof.Machine.execVpopc o s
  | .vcvt o => Sys2Proof.Machine.execVcvt o s
  | .vpack o => Sys2Proof.Machine.execVpack o s
  | .vunpk o => Sys2Proof.Machine.execVunpk o s
  | .vqnt o => Sys2Proof.Machine.execVqnt o s
  | .vscl o => Sys2Proof.Machine.execVscl o s
  | .vsclImm o => Sys2Proof.Machine.execVsclImm o s
  | .vmov o => Sys2Proof.Machine.execVmov o s
  | .vmovi o => Sys2Proof.Machine.execVmovi o s
  | .vsel o => Sys2Proof.Machine.execVsel o s
  | .vperm o => Sys2Proof.Machine.execVperm o s
  | .vshuf o => Sys2Proof.Machine.execVshuf o s
  | .vrot o => Sys2Proof.Machine.execVrot o s
  | .vslide o => Sys2Proof.Machine.execVslide o s
  | .vbcast o => Sys2Proof.Machine.execVbcast o s
  | .vbcastScalar o => Sys2Proof.Machine.execVbcastScalar o s
  | .vsetl o => Sys2Proof.Machine.execVsetl o s
  | .vtpose o => Sys2Proof.Machine.execVtpose o s
  | .viota o => Sys2Proof.Machine.execViota o s
  | .viotaCnt o => Sys2Proof.Machine.execViotaCnt o s
  | .vcompr o => Sys2Proof.Machine.execVcompr o s
  | .vexpnd o => Sys2Proof.Machine.execVexpnd o s
  | .vrsum o => Sys2Proof.Machine.execVrsum o s
  | .vrmax o => Sys2Proof.Machine.execVrmax o s
  | .vrmin o => Sys2Proof.Machine.execVrmin o s
  | .vramax o => Sys2Proof.Machine.execVramax o s
  | .vscan o => Sys2Proof.Machine.execVscan o s
  | .vrsumw o => Sys2Proof.Machine.execVrsumw o s
  | .pand o => Sys2Proof.Machine.execPand o s
  | .por o => Sys2Proof.Machine.execPor o s
  | .pxor o => Sys2Proof.Machine.execPxor o s
  | .pnot o => Sys2Proof.Machine.execPnot o s
  | .pmov o => Sys2Proof.Machine.execPmov o s
  | .pset o => Sys2Proof.Machine.execPset o s
  | .pfirst o => Sys2Proof.Machine.execPfirst o s
  | .accz o => Sys2Proof.Machine.execAccz o s
  | .accld o => Sys2Proof.Machine.execAccld o s
  | .accst o => Sys2Proof.Machine.execAccst o s
  | .mma o => Sys2Proof.Machine.execMma o s
  | .attq o => Sys2Proof.Machine.execAttq o s
  | .attkv o => Sys2Proof.Machine.execAttkv o s
  | .attfin o => Sys2Proof.Machine.execAttfin o s
  | .attst o => Sys2Proof.Machine.execAttst o s
  | .attmrg o => Sys2Proof.Machine.execAttmrg o s
  | .mstat o => Sys2Proof.Machine.execMstat o s
  | .tbind o => Sys2Proof.Machine.execTbind o s
  | .tunb o => Sys2Proof.Machine.execTunb o s
  | .tvacq o => Sys2Proof.Machine.execTvacq o s
  | .tvbump o => Sys2Proof.Machine.execTvbump o s
  | .tfill o => Sys2Proof.Machine.execTfill o s
  | .tpref o => Sys2Proof.Machine.execTpref o s
  | .tpin o => Sys2Proof.Machine.execTpin o s
  | .tunpin o => Sys2Proof.Machine.execTunpin o s
  | .tunpinSlot o => Sys2Proof.Machine.execTunpinSlot o s
  | .thint o => Sys2Proof.Machine.execThint o s
  | .thintSlot o => Sys2Proof.Machine.execThintSlot o s
  | .twb o => Sys2Proof.Machine.execTwb o s
  | .twbSlot o => Sys2Proof.Machine.execTwbSlot o s
  | .tinv o => Sys2Proof.Machine.execTinv o s
  | .tinvSlot o => Sys2Proof.Machine.execTinvSlot o s
  | .tcopy o => Sys2Proof.Machine.execTcopy o s
  | .gset o => Sys2Proof.Machine.execGset o s
  | .grun o => Sys2Proof.Machine.execGrun o s
  | .gsto o => Sys2Proof.Machine.execGsto o s
  | .gstop o => Sys2Proof.Machine.execGstop o s
  | .qclr o => Sys2Proof.Machine.execQclr o s
  | .ldx o => Sys2Proof.Machine.execLdx o s
  | .ldxBt o => Sys2Proof.Machine.execLdxBt o s
  | .gatherLin o => Sys2Proof.Machine.execGatherLin o s
  | .gatherPaged o => Sys2Proof.Machine.execGatherPaged o s
  | .gatherIdx o => Sys2Proof.Machine.execGatherIdx o s
  | .scatterLin o => Sys2Proof.Machine.execScatterLin o s
  | .scatterPaged o => Sys2Proof.Machine.execScatterPaged o s
  | .tzero o => Sys2Proof.Machine.execTzero o s
  | .rld o => Sys2Proof.Machine.execRld o s
  | .rst o => Sys2Proof.Machine.execRst o s
  | .ramo o => Sys2Proof.Machine.execRamo o s
  | .rcas o => Sys2Proof.Machine.execRcas o s
  | .rsig o => Sys2Proof.Machine.execRsig o s
  | .rput o => Sys2Proof.Machine.execRput o s
  | .rget o => Sys2Proof.Machine.execRget o s
  | .grpset o => Sys2Proof.Machine.execGrpset o s
  | .grpstat o => Sys2Proof.Machine.execGrpstat o s
  | .mldred o => Sys2Proof.Machine.execMldred o s
  | .mcast o => Sys2Proof.Machine.execMcast o s
  | .jcopy o => Sys2Proof.Machine.execJcopy o s
  | .jfill o => Sys2Proof.Machine.execJfill o s
  | .jsel o => Sys2Proof.Machine.execJsel o s
  | .jpage o => Sys2Proof.Machine.execJpage o s
  | .jspan o => Sys2Proof.Machine.execJspan o s
  | .jcommit o => Sys2Proof.Machine.execJcommit o s
  | .jtag o => Sys2Proof.Machine.execJtag o s
  | .jnode o => Sys2Proof.Machine.execJnode o s
  | .jwait o => Sys2Proof.Machine.execJwait o s
  | .jwaitAll o => Sys2Proof.Machine.execJwaitAll o s
  | .jstat o => Sys2Proof.Machine.execJstat o s
  | .jcancel o => Sys2Proof.Machine.execJcancel o s
  | .syncX => Sys2Proof.Machine.execSyncX s
  | .ret => Sys2Proof.Machine.execRet s
  | .rdv => Sys2Proof.Machine.execRdv s
  | .exit => Sys2Proof.Machine.execExit s
  | .fret => Sys2Proof.Machine.execFret s
  | .syncS => Sys2Proof.Machine.execSyncS s
  | .fetchb => Sys2Proof.Machine.execFetchb s
  | .barTeam => Sys2Proof.Machine.execBarTeam s
  | .barDie => Sys2Proof.Machine.execBarDie s
  | .barModule => Sys2Proof.Machine.execBarModule s
  | .barDomain => Sys2Proof.Machine.execBarDomain s
  | .yield => Sys2Proof.Machine.execYield s
  | .tlbinvAll => Sys2Proof.Machine.execTlbinvAll s
  | .syncV => Sys2Proof.Machine.execSyncV s
  | .syncM => Sys2Proof.Machine.execSyncM s
  | .lease => Sys2Proof.Machine.execLease s
  | .lrel => Sys2Proof.Machine.execLrel s
  | .mburstStart => Sys2Proof.Machine.execMburstStart s
  | .mburstEnd => Sys2Proof.Machine.execMburstEnd s
  | .syncA => Sys2Proof.Machine.execSyncA s
  | .syncF => Sys2Proof.Machine.execSyncF s
  | .rfence => Sys2Proof.Machine.execRfence s
  | .rwait => Sys2Proof.Machine.execRwait s
  | .syncJ => Sys2Proof.Machine.execSyncJ s
  | .signalClause => Sys2Proof.Machine.execSignalClause s
  | .rsigArrival => Sys2Proof.Machine.execRsigArrival s
  | .taskEnd => Sys2Proof.Machine.execTaskEnd s
  | .replayExecute => Sys2Proof.Machine.execReplayExecute s
  | .tileFill => Sys2Proof.Machine.execTileFill s
  | .tileWriteBack => Sys2Proof.Machine.execTileWriteBack s
  | .causalWriteApply => Sys2Proof.Machine.execCausalWriteApply s
  | .controlNodeWrite => Sys2Proof.Machine.execControlNodeWrite s
  | .controlNodeRead => Sys2Proof.Machine.execControlNodeRead s
  | .mailboxCas => Sys2Proof.Machine.execMailboxCas s
  | .copyJob => Sys2Proof.Machine.execCopyJob s
  | .fillJob => Sys2Proof.Machine.execFillJob s
  | .selectJob => Sys2Proof.Machine.execSelectJob s
  | .pageJob => Sys2Proof.Machine.execPageJob s
  | .tagJob => Sys2Proof.Machine.execTagJob s
  | .spanKeep => Sys2Proof.Machine.execSpanKeep s
  | .spanClose => Sys2Proof.Machine.execSpanClose s
  | .spanCloseRot => Sys2Proof.Machine.execSpanCloseRot s
  | .commitJob => Sys2Proof.Machine.execCommitJob s
  | .commitRepair => Sys2Proof.Machine.execCommitRepair s
  | .pendingFramePush => Sys2Proof.Machine.execPendingFramePush s
  | .generatorLoadEntry => Sys2Proof.Machine.execGeneratorLoadEntry s
  | .generatorStoreEntry => Sys2Proof.Machine.execGeneratorStoreEntry s
  | .versionReread => Sys2Proof.Machine.execVersionReread s
  | .remoteRequest => Sys2Proof.Machine.execRemoteRequest s
  | .remoteAck => Sys2Proof.Machine.execRemoteAck s
  | .remoteTimeout => Sys2Proof.Machine.execRemoteTimeout s
  | .deferredFailure => Sys2Proof.Machine.execDeferredFailure s
  | .contributionArrival => Sys2Proof.Machine.execContributionArrival s
  | .episodeResult => Sys2Proof.Machine.execEpisodeResult s
  | .reduceTimeout => Sys2Proof.Machine.execReduceTimeout s
  | .leaseGrant => Sys2Proof.Machine.execLeaseGrant s
  | .leaseQuantumExpiry => Sys2Proof.Machine.execLeaseQuantumExpiry s
  | .arrayLevelStep => Sys2Proof.Machine.execArrayLevelStep s
  | .burstLapse => Sys2Proof.Machine.execBurstLapse s
  | .rampDownStart => Sys2Proof.Machine.execRampDownStart s
  | .recordFetch => Sys2Proof.Machine.execRecordFetch s
  | .eventWaitResolve => Sys2Proof.Machine.execEventWaitResolve s
  | .nodeDispatch => Sys2Proof.Machine.execNodeDispatch s
  | .waitMemoryPoll => Sys2Proof.Machine.execWaitMemoryPoll s
  | .signalMemory => Sys2Proof.Machine.execSignalMemory s
  | .fenceRecord => Sys2Proof.Machine.execFenceRecord s
  | .nopRecord => Sys2Proof.Machine.execNopRecord s
  | .recordCompletion => Sys2Proof.Machine.execRecordCompletion s
  | .pendingLaunchEntry => Sys2Proof.Machine.execPendingLaunchEntry s
  | .agingTimer => Sys2Proof.Machine.execAgingTimer s
  | .quantumExpiry => Sys2Proof.Machine.execQuantumExpiry s
  | .safePointStop => Sys2Proof.Machine.execSafePointStop s
  | .preemptDeadline => Sys2Proof.Machine.execPreemptDeadline s
  | .teamResume => Sys2Proof.Machine.execTeamResume s
  | .qcfgWrite => Sys2Proof.Machine.execQcfgWrite s
  | .wptrWrite => Sys2Proof.Machine.execWptrWrite s
  | .registerWrite => Sys2Proof.Machine.execRegisterWrite s
  | .faultDelivery => Sys2Proof.Machine.execFaultDelivery s
  | .refusedAccessRetry => Sys2Proof.Machine.execRefusedAccessRetry s
  | .packetRoute => Sys2Proof.Machine.execPacketRoute s
  | .idleFlit => Sys2Proof.Machine.execIdleFlit s
  | .linkSilence => Sys2Proof.Machine.execLinkSilence s
  | .linkReplayLimit => Sys2Proof.Machine.execLinkReplayLimit s
  | .dieLost => Sys2Proof.Machine.execDieLost s
  | .linkNoticeReceive => Sys2Proof.Machine.execLinkNoticeReceive s
  | .pctlRetrain => Sys2Proof.Machine.execPctlRetrain s
  | .pctlDis => Sys2Proof.Machine.execPctlDis s
  | .linkTrainingDone => Sys2Proof.Machine.execLinkTrainingDone s
  | .fepochWrite => Sys2Proof.Machine.execFepochWrite s
  | .windowTableWrite => Sys2Proof.Machine.execWindowTableWrite s
  | .powerOn => Sys2Proof.Machine.execPowerOn s
  | .resetRequest => Sys2Proof.Machine.execResetRequest s
  | .firmwareFetchRetry => Sys2Proof.Machine.execFirmwareFetchRetry s
  | .firmwareImage => Sys2Proof.Machine.execFirmwareImage s
  | .attestationRequest => Sys2Proof.Machine.execAttestationRequest s
  | .sensorRefresh => Sys2Proof.Machine.execSensorRefresh s
  | .chronoExchange => Sys2Proof.Machine.execChronoExchange s
  | .referenceLoss => Sys2Proof.Machine.execReferenceLoss s

end Sys2Proof.Machine
end

