-- ==== Sys2Proof/Machine/Step.lean ====
section
/-! DEFINITION. One step of the module: whose turn it is, the fetch and decode of a strand's word, and the placing of one
instruction where the step fetches next. -/

namespace Sys2Proof.Machine

/-- A strand's word cannot be fetched or decoded: the cause waits until an earlier parked word of the strand has completed or faulted
(R97). -/
def State.wordFaults (s : State) (c : Nat) (e : Eng) (t : Task) (f : FaultInfo) : State :=
  if t.parkedOwn e then s else s.takeFault c e f
/-- The turn of a strand (02, R20): fetch its word, skip a word of another tag, run its own. -/
def State.strandTurn (s : State) (c : Nat) (e : Eng) : Host.Outcome State Fault Refusal :=
  match s.task c with
  | none => .next s
  | some t0 =>
    let s := s.meetSafePoint c e t0
    let t := (s.task c).getD t0
    if (s.core c).halted || !(strandsOf t.kernel).contains e || s.heldBack t e then .next s
    else
      match s.fetch c t (t.strand e).pc with
      | (_, .error (.hole pa)) => .fault (.physicalHole pa)
      | (s, .error .held) => .next s
      | (s, .error (.refused va)) =>
        let x := t.strand e
        let r := Retry.again x.retry (s.now (dieOf c)) (BitVec.ofNat 56 va)
        .next (s.modTask c fun t => t.setStrand e { x with retry := some r })
      | (s, .error x) => .next (s.wordFaults c e t x.info)
      | (s, .ok w) =>
        if wordIsFor t.kernel e (tagOf w) then
          match decodeFor t.kernel w with
          | .error k => .next (s.wordFaults c e t { cause := k })
          | .ok (cl, i) => exec i { s with cur := ⟨c, e, cl, 0⟩ }
        else .next (s.skipWord c e w)

/-- One turn. (log 2 DEDUCED, 51 DEDUCED, 53 DEDUCED) -/
def State.runTurn (s : State) (t : Turn) : Host.Outcome State Fault Refusal :=
  match t with
  | .strand c e => s.strandTurn c e
  | .own i inp => if i.fields.isNone then exec i { s with input := inp } else .next s
  | .upset u => .next (s.strike u)
  | .evict n => .next { s with tlb := s.tlb.eraseIdx n }
  | .relax old => .next { s with old := old }

/-- One die's correction while `dt` ticks pass (R488): at most one tick in 10,000. The ticks added, what is left to correct, and the
count up to which ticks have been given. -/
def slewBy (left : Int) (now from_ : Word) (dt : Nat) : Int × Int × Word :=
  let now' := now + BitVec.ofNat 64 dt
  if left = 0 then (0, 0, now')
  else
    let room : Int := ((now' - from_).toNat / 10000 : Nat)
    let k := max (-room) (min room left)
    (k, left - k, from_ + BitVec.ofNat 64 (10000 * k.natAbs))
/-- Time passes on both dies; each counts by itself and never goes back (R488). -/
def State.passTime (s : State) (dt : Nat) : State :=
  let go (d : Nat) : Int × Int × Word := slewBy (SMap.look 0 s.slew d) (s.now d) (SMap.look 0 s.slewAt d) dt
  let (k0, l0, f0) := go 0
  let (k1, l1, f1) := go 1
  { s with
    chrono := s.chrono + BitVec.ofNat 64 dt + BitVec.ofInt 64 k0
    skew := s.skew + BitVec.ofInt 64 (k1 - k0)
    slew := SMap.put 0 (SMap.put 0 s.slew 0 l0) 1 l1
    slewAt := SMap.put 0 (SMap.put 0 s.slewAt 0 f0) 1 f1 }

/-- The module's step: the next turn that State.turns names, else the one that the free value names. Time passes, and
the counter of the free values goes on. (log 2 DEDUCED, 6 DEDUCED) -/
def step (s : State) : Host.Outcome State Fault Refusal :=
  let n := s.ctr
  let s1 := { s with ctr := n + 1 }.passTime (Config.elapsed n)
  match s.turns with
  | t :: r => State.runTurn { s1 with turns := r } t
  | [] =>
    match Config.nextTurn n with
    | some t => s1.runTurn t
    | none => .next s1

/-- The state with one instruction of a program loaded and about to run: a task on core 0 of die 0, or on its kernel
core for a privileged word, whose strand stands at the word; for a word of another strand than S, the S strand has
passed it. (log 4 DESIGN CHOICE) -/
def State.withFetchWord (s : State) (_nbits w : Nat) : State :=
  let word : IWord := BitVec.ofNat 128 w
  let tag := tagOf word
  let priv := tag = 0 && 0x0c0 ≤ bits word 124 116 && bits word 124 116 ≤ 0x0c5
  let c := if priv then 192 else 0
  let e : Eng := match tag with
    | 1 => .v | 2 => .m | 3 => .a | 4 => .f | 5 => .j | _ => .s
  let pc : Va := 0x1000
  let t0 : Task := { ctx := if priv then none else some 0, asid := if priv then 0 else 1, kernel := priv }
  let t1 : Task := (strandsOf priv).foldl (fun t y => t.setStrand y { pc := pc }) t0
  let t : Task := if e = .s then t1 else (t1.addDeposit t1.snapshot).setStrand .s { pc := pc + 16, path := 1 }
  { s with
    mem := rawPut s.mem 0x1000 (leBytes 16 word.toNat)
    tlb := if priv then s.tlb else ⟨.die 0, 1, 0x1000, 0x1000, 0x10f1⟩ :: s.tlb
    cores := SMap.put {} s.cores c { task := some t }
    turns := [.strand c e] }

end Sys2Proof.Machine
end

