-- ==== Sys2Proof/Safety.lean ====
section
/-! DEFINITION. The terms that claims about the module use: when nothing keeps a strand from its word, what the beginning
and the end of a word do, the parts of the state that a word leaves alone, and what a sound state is. -/

namespace Sys2Proof

/-! ## Words by what they write -/

/-- The s register that an S word writes, for the words whose whole effect is that write (R203, R217, R220, R222, R223,
R225). -/
def Instr.scalarDest (i : Instr) : Option SReg :=
  match i with
  | .add o | .sub o | .mul o | .mulh o | .mulhn o | .div o | .divn o | .rem o
  | .remn o | .and o | .or o | .xor o | .andn o | .shl o | .shr o | .sra o
  | .rotr o | .min o | .max o | .minn o | .maxn o => some o.d
  | .clz o | .ctz o | .popc o | .brev o | .bswap o | .mov o => some o.d
  | .addi o | .cmp o | .sel o | .extr o | .insr o | .movi o | .sext o | .zext o
  | .kgetLo o | .kgetHi o | .semget o | .csrr o | .lstat o => some o.d
  | .getl d | .chron d => some d
  | _ => none

namespace Machine

/-- What a step of the module can answer. -/
abbrev Outcome := Host.Outcome State Fault Refusal

/-! ## Sound states -/

/-- The memory of a state is in its canonical form. -/
def State.memSound (s : State) : Prop := Memory.wf s.mem

/-- A task keeps R195 and R26: no s0 is stored, the s registers are in canonical form, WIN lies within 16 to 4,096, RRB
below 640. -/
def Task.sound (t : Task) : Prop :=
  SMap.look 0 t.s 0 = 0 ∧ SMap.wf 0 t.s = true ∧ 16 ≤ t.win.toNat ∧ t.win.toNat ≤ 4096 ∧ t.rrb.toNat < 640

/-! ## A word begins (R20, R21, R23, R28, R31, R32) -/

/-- Nothing keeps the strand whose turn it is from its present word: its task runs and neither a fault nor a stop nor a
refused access holds the strand back (R438, R43, R433), no failed recall waits (R107), the slip window allows it (R21), no
control write is to be met before it (R61), the word is active in its LOOPM pass (R28), the S strand's deposit is there when
the word needs one (R23), and its wait clause, unless already satisfied, is met (R32). -/
structure State.Ready (s : State) (needs : Bool) (t : Task) : Prop where
  present : s.task s.cur.core = some t
  free : s.heldBack t s.cur.eng = false
  clear : t.recalls = []
  within : t.slipOk (t.strand s.cur.eng) = true
  settled : t.ctlPending s.cur.eng (t.strand s.cur.eng) = false
  active : (t.strand s.cur.eng).squashed = false
  fed : needs = true → s.cur.eng = .s ∨ (t.depositAt (t.strand s.cur.eng)).isSome = true
  met : ∀ w, s.cur.clauses.wait = some w → (t.strand s.cur.eng).phase = .fresh →
    semMet (t.semOf w.sem).val w.thr = true

/-- The task once the wait clause of its word is satisfied: the floor has followed the threshold (R32). -/
def State.waited (s : State) (t : Task) : Task :=
  match s.cur.clauses.wait, (t.strand s.cur.eng).phase with
  | some w, .fresh => t.waitedFor w
  | _, _ => t

/-- The state in which the word's own effect takes place: what the signals of its wait clause stand for has happened before
it (R36, R124). -/
def State.begun (s : State) (t : Task) : State :=
  match s.cur.clauses.wait, (t.strand s.cur.eng).phase with
  | some w, .fresh => (s.meetWait s.cur.core s.cur.eng w.sem).setTask s.cur.core (s.waited t)
  | some w, _ => s.metOnce s.cur.core s.cur.eng w.sem
  | none, _ => s

/-- The operands of the word (R23). -/
def State.env (s : State) (t : Task) : Env :=
  t.envOf s.cur.eng (t.strand s.cur.eng) (t.depositAt (t.strand s.cur.eng))

/-! ## A word ends (R20, R33, R199) -/

/-- The strand of a word at `pc` passes it, and its signal clause is applied or queued (R33). -/
def State.passed (s : State) (pc : Va) (toks : List Token) : State :=
  (s.modTask s.cur.core fun t => t.fall s.cur.eng).signalWord s.cur.core s.cur.eng pc toks

/-- A word begins, changes its task by `f`, and is passed. -/
def State.after (s : State) (t : Task) (f : Task → Task) : State :=
  ((s.begun t).modTask s.cur.core f).passed (t.strand s.cur.eng).pc []

/-- The word begins and waits. -/
def State.waiting (s : State) (t : Task) : State := (s.begun t).stay s.cur.core s.cur.eng

/-- The word begins and takes a fault: it has no effect and its strand stays at it (R438, R440); behind a parked word of its strand it
waits, since that one's cause comes first (R97). -/
def State.faulted (s : State) (t : Task) (f : FaultInfo) : State :=
  if t.parkedOwn s.cur.eng then s.waiting t else (s.begun t).takeFault s.cur.core s.cur.eng f

/-! ## X words (R22) -/

/-- A strand may obey an X word: nothing keeps it from its word, and it stands in no LOOPM body (R30). -/
structure State.ReadyX (s : State) (latched : Bool) (t : Task) : Prop extends State.Ready s latched t where
  outside : (t.strand s.cur.eng).inLoopm = none

/-- The strand obeys: the S strand records the outcome for the others in the window buffer (R22). -/
def State.obeyed (s : State) (t : Task) (taken : Bool) (target : Va) : State :=
  if s.cur.eng = .s then
    (s.begun t).setTask s.cur.core
      (if (t.depositAt (t.strand .s)).isNone then
        (s.waited t).addDeposit { (s.waited t).snapshot with taken := taken, target := target }
      else s.waited t)
  else s.begun t

/-- The strand goes to another position; the word's signal is applied with the last strand (R33). -/
def State.went (s : State) (x y : Strand) : State :=
  (s.modTask s.cur.core fun t => t.moveTo s.cur.eng y).signalX s.cur.core s.cur.eng x

/-- The strand falls through an X word. -/
def State.fell (s : State) (x : Strand) : State :=
  (s.modTask s.cur.core fun t => t.fall s.cur.eng).signalX s.cur.core s.cur.eng x

/-! ## V words (R228, R230, R57) -/

/-- A V word that raises no flag completes: its queues are popped and its destinations written (R230, R231). -/
def State.vDone (s : State) (t : Task) (srcs : List VSrc) (out : List (VDst × Vec)) : State :=
  s.after t fun u => out.foldl (fun u x => u.put (s.env t).rrb x.1 x.2) (u.popQueues (popsOf srcs))

/-- The lanes of a result under the governing predicate: `f` in the active lanes; the others are kept under merging in a
register and zero otherwise (R228). -/
def Task.laneResult (t : Task) (env : Env) (w : Nat) (d : VDst) (pr : VPred) (x : Vec) (f : Nat → Nat) : Prop :=
  ∀ i < 2048 / w, laneAt w x i =
    if laneActive w (t.pread env.prb pr.p) i then f i % 2 ^ w
    else if d.isReg = true ∧ pr.z = false then laneAt w (t.oldOf env.rrb d) i else 0

/-- A floating lane word (R56, R57, R228, R232): the flags of its active lanes go to FPSTAT; when an enabled one is among
them the word traps with no other effect, and otherwise its lanes are written; a stochastic mode leaves the LFSR
stepped. -/
def State.floatEnds (s : State) (t : Task) (srcs : List VSrc) (ty : ETy) (d : VDst) (pr : VPred) (r : RoundAt)
    (f : Nat → Nat × FFlags) : Outcome :=
  let env := s.env t
  let p := t.pread env.prb pr.p
  let fl : FFlags := ((List.range ty.lanes).filter (laneActive ty.width p)).foldl (fun a i => a ||| (f i).2) 0
  let x := vecOf ty.width ((List.range ty.lanes).map fun i =>
    if laneActive ty.width p i then (f i).1
    else if d.isReg && !pr.z then laneAt ty.width (t.oldOf env.rrb d) i else 0)
  match trapCause (fl &&& trapEnables env.fpctl) with
  | some k =>
    .next (((s.begun t).modTask s.cur.core fun u => { u with fpstat := u.fpstat ||| fl.setWidth 64 }).takeFault
      s.cur.core s.cur.eng { cause := k, info := fl.setWidth 64 })
  | none =>
    .next (s.after t fun u =>
      let u := ({ u with fpstat := u.fpstat ||| fl.setWidth 64 }.popQueues (popsOf srcs)).put env.rrb d x
      if r.code = 4 then u.setVst r.lfsr else u)

/-! ## Words with tile operands (R95 to R98, R260, R262) -/

/-- A word with tile operands may issue: nothing keeps its strand from it, and no parked word of the strand shares its
accumulator set (R96). -/
structure State.ReadyTiles (s : State) (i : Instr) (t : Task) : Prop extends State.Ready s true t where
  apart : t.clash s.cur.eng (accOf i) [] = false

/-- An array word may issue: its core holds the lease, and has not to pass it on (R260, R262). -/
structure State.ReadyArray (s : State) (i : Instr) (t : Task) : Prop extends State.ReadyTiles s i t where
  onM : s.cur.eng = .m
  held : (s.cluster s.cur.core).holder = some s.cur.core
  kept : s.mustPass (s.cluster s.cur.core) = false

/-- The tiles that a word names, found by a look-up that left the state `s1`, are all resident or may be
installed without a fill, and free of parked words. -/
structure State.TilesThere (s s1 : State) (t : Task) (l : List TileUse) : Prop where
  clear : t.clash s.cur.eng none l = false
  room : s1.stopped (s.waited t) l = none
  all : s1.allHit (s.waited t) l = true

/-- One cell of a set in the state `s`, for the task of core `c`. -/
def State.cellAt (s : State) (c : Nat) (a : BitVec 1) (row col : Nat) : BitVec 32 :=
  SMap.look 0 (s.accNow c a).cells (256 * row + col)

/-- The elements of a resident tile, by row × width + column. -/
def State.tileElem (s : State) (c : Nat) (n : TileName) (i : Nat) : Option (BitVec 32) :=
  ((s.core c).tile n).map fun x => x.elem i

/-! ## F words (R320, R323) -/

/-- An F word of a task of context `n` may issue: nothing keeps its strand from it, no failure is waiting to be taken, and no
acquire before it is still on its way. -/
structure State.ReadyF (s : State) (needs : Bool) (t : Task) (n : Nat) : Prop extends State.Ready s needs t where
  onF : s.cur.eng = .f
  inCtx : t.ctx = some n
  sound : t.takeDeferred (t.strand .f).pc = none
  landed : (s.ownReqs n t.image).any (·.acq.isSome) = false

/-! ## What a word leaves alone -/


/-- Two tasks agree on everything but the s and k registers, the semaphores, and what the sequencing of words changes: the
strands, the window buffer, the bases and the guard predicate of a LOOPM pass (R29), the registers that a control write of
the S strand reaches as it is met (R61), faults, recalls and pending signals. -/
structure Task.SameRest (t u : Task) : Prop where
  ident : u.ctx = t.ctx ∧ u.asid = t.asid ∧ u.node = t.node ∧ u.team = t.team ∧ u.image = t.image ∧ u.uid = t.uid ∧
    u.rank = t.rank ∧ u.kernel = t.kernel
  regs : u.v = t.v ∧ u.g = t.g ∧ u.i = t.i ∧ u.q = t.q
  ctl : u.fpctl = t.fpctl ∧ u.win = t.win ∧ u.taskid = t.taskid ∧ u.teaminfo = t.teaminfo ∧ u.gridinfo = t.gridinfo ∧
    u.domain = t.domain ∧ u.spills = t.spills ∧ u.ufentry = t.ufentry
  tiles : u.slots = t.slots ∧ u.replay = t.replay ∧ u.fills = t.fills ∧ u.itins = t.itins
  units : u.gens = t.gens ∧ u.accs = t.accs ∧ u.groups = t.groups ∧ u.defer = t.defer ∧ u.jobs = t.jobs ∧
    u.fseq = t.fseq ∧ u.runs = t.runs
  rest : u.saved = t.saved ∧ u.leaseReq = t.leaseReq ∧ u.leaseHeld = t.leaseHeld ∧ u.stop = t.stop ∧
    u.stopAt = t.stopAt ∧ u.stopLive = t.stopLive

/-- The semaphores that the clauses of a word name (R31). -/
def clauseNames (cl : Clauses) (n : BitVec 8) : Bool :=
  (cl.wait.any fun w => w.sem == n) || (cl.sig.any fun g => g.sem == n)

/-- What the sequencing of a word of strand `e` with clauses `cl` leaves of a task: the rest of the task, the s and k
registers, the predicates but for the guard that V writes (R29), the bases but for the steps that S makes (R29), the
semaphores that the clauses do not name, and the other strands but for what they wait for (R32). -/
structure Task.Seq (t u : Task) (e : Eng) (cl : Clauses) : Prop where
  rest : t.SameRest u
  regS : u.s = t.s
  regK : u.k = t.k
  preds : e ≠ .v → u.p = t.p
  bases : e ≠ .s → u.rrb = t.rrb ∧ u.prb = t.prb
  sems : ∀ n, clauseNames cl n = false → u.semOf n = t.semOf n
  others : ∀ y, Eng.num y ≠ Eng.num e → ∃ w p, u.strand y = { t.strand y with waiting := w, phase := p }

/-- Two states agree on everything but what the task of one core holds, the fault records still to be written, and the record of the
order of accesses. -/
structure State.SameBut (s u : State) (c : Nat) : Prop where
  rest : u = { s with cores := u.cores, records := u.records, order := u.order }
  cores : ∀ d, d ≠ c → u.core d = s.core d
  tiles : (u.core c).tiles = (s.core c).tiles
  some : (u.task c).isSome = (s.task c).isSome

/-- From `s` to `u` nothing happened but the sequencing of a word of strand `e` of core `c`. -/
structure State.Seq (s u : State) (c : Nat) (e : Eng) (cl : Clauses) : Prop where
  same : s.SameBut u c
  task : ∀ t t', s.task c = some t → u.task c = some t' → t.Seq t' e cl

end Machine

end Sys2Proof
end

