-- ==== Sys2Proof/Certificates/Slice0/Obligations.lean ====
section
/-! DEFINITION. The claims about the module, each a proposition for the provers. Every docstring names the rules of the
spec that the claim formalises. -/

section Claims

open Sys2Proof Sys2Proof.Machine

/-! ## The scalar words (08) -/

/-- R203, R173: the arithmetic words, each completed by a ready S strand, write the value of their table row to s[d]. -/
def Claims.ScalarArithmetic : Prop :=
  ∀ (s : State) (t : Task) (d a b c : SReg), s.Ready false t → s.cur.eng = .s →
    let x := sget t.s a
    let y := sget t.s b
    let z := sget t.s c
    let sh := y.toNat % 64
    let gives (v : Word) : Outcome := .next (s.after t fun u => u.sset d v)
    exec (.add ⟨d, a, b⟩) s = gives (BitVec.ofNat 64 (x.toNat + y.toNat)) ∧
    exec (.sub ⟨d, a, b⟩) s = gives (BitVec.ofInt 64 (x.toInt - y.toInt)) ∧
    (∀ imm, exec (.addi ⟨d, a, imm⟩) s = gives (BitVec.ofNat 64 (x.toNat + imm.toNat))) ∧
    exec (.mul ⟨d, a, b⟩) s = gives (BitVec.ofNat 64 (x.toNat * y.toNat)) ∧
    exec (.mulh ⟨d, a, b⟩) s = gives (BitVec.ofInt 64 (x.toInt * y.toInt / 2 ^ 64)) ∧
    exec (.mulhn ⟨d, a, b⟩) s = gives (BitVec.ofNat 64 (x.toNat * y.toNat / 2 ^ 64)) ∧
    exec (.and ⟨d, a, b⟩) s = gives (x &&& y) ∧
    exec (.or ⟨d, a, b⟩) s = gives (x ||| y) ∧
    exec (.xor ⟨d, a, b⟩) s = gives (x ^^^ y) ∧
    exec (.andn ⟨d, a, b⟩) s = gives (x &&& ~~~y) ∧
    exec (.shl ⟨d, a, b⟩) s = gives (BitVec.ofNat 64 (x.toNat * 2 ^ sh)) ∧
    exec (.shr ⟨d, a, b⟩) s = gives (BitVec.ofNat 64 (x.toNat / 2 ^ sh)) ∧
    exec (.sra ⟨d, a, b⟩) s = gives (BitVec.ofInt 64 (x.toInt / 2 ^ sh)) ∧
    exec (.rotr ⟨d, a, b⟩) s = gives (x >>> sh ||| x <<< ((64 - sh) % 64)) ∧
    exec (.min ⟨d, a, b⟩) s = gives (BitVec.ofInt 64 (min x.toInt y.toInt)) ∧
    exec (.max ⟨d, a, b⟩) s = gives (BitVec.ofInt 64 (max x.toInt y.toInt)) ∧
    exec (.minn ⟨d, a, b⟩) s = gives (BitVec.ofNat 64 (min x.toNat y.toNat)) ∧
    exec (.maxn ⟨d, a, b⟩) s = gives (BitVec.ofNat 64 (max x.toNat y.toNat)) ∧
    exec (.sel ⟨d, a, b, c⟩) s = gives (if z = 0 then y else x) ∧
    (∀ imm, exec (.movi ⟨d, imm⟩) s = gives imm) ∧
    exec (.mov ⟨d, a⟩) s = gives x ∧
    (∀ n, exec (.sext ⟨d, a, n⟩) s = gives (BitVec.ofInt 64 (Int.bmod x.toNat (2 ^ (8 * n.bytes))))) ∧
    (∀ n, exec (.zext ⟨d, a, n⟩) s = gives (BitVec.ofNat 64 (x.toNat % 2 ^ (8 * n.bytes)))) ∧
    exec (.getl d) s = gives ((t.strand .s).pc.setWidth 64)

/-- R173, R203: CMP writes 1 when its condition holds and 0 when it does not. -/
def Claims.CompareConditions : Prop :=
  ∀ (s : State) (t : Task) (d a b : SReg), s.Ready false t → s.cur.eng = .s →
    let x := sget t.s a
    let y := sget t.s b
    let cmp (k : Cond) (p : Bool) : Prop :=
      exec (.cmp ⟨d, a, b, k⟩) s = .next (s.after t fun u => u.sset d (if p then 1 else 0))
    cmp .eq (x = y) ∧ cmp .ne (x ≠ y) ∧
    cmp .lt (x.toInt < y.toInt) ∧ cmp .ge (y.toInt ≤ x.toInt) ∧
    cmp .le (x.toInt ≤ y.toInt) ∧ cmp .gt (y.toInt < x.toInt) ∧
    cmp .ltn (x.toNat < y.toNat) ∧ cmp .gen (y.toNat ≤ x.toNat) ∧
    cmp .len (x.toNat ≤ y.toNat) ∧ cmp .gtn (y.toNat < x.toNat) ∧
    cmp .bs (x &&& y ≠ 0) ∧ cmp .bc (x &&& y = 0)

/-- R203: the counting and reversing words. -/
def Claims.ScalarBits : Prop :=
  ∀ (s : State) (t : Task) (d a : SReg), s.Ready false t → s.cur.eng = .s →
    let x := sget t.s a
    let gives (v : Word) : Outcome := .next (s.after t fun u => u.sset d v)
    (∃ n ≤ 64, exec (.clz ⟨d, a⟩) s = gives (BitVec.ofNat 64 n) ∧
      (∀ i < n, x.getLsbD (63 - i) = false) ∧ (n < 64 → x.getLsbD (63 - n) = true)) ∧
    (∃ n ≤ 64, exec (.ctz ⟨d, a⟩) s = gives (BitVec.ofNat 64 n) ∧
      (∀ i < n, x.getLsbD i = false) ∧ (n < 64 → x.getLsbD n = true)) ∧
    exec (.popc ⟨d, a⟩) s = gives (BitVec.ofNat 64 ((List.range 64).countP x.getLsbD)) ∧
    (∃ v, exec (.brev ⟨d, a⟩) s = gives v ∧ ∀ i < 64, v.getLsbD (63 - i) = x.getLsbD i) ∧
    (∃ v, exec (.bswap ⟨d, a⟩) s = gives v ∧
      ∀ i < 8, v.extractLsb' (8 * (7 - i)) 8 = x.extractLsb' (8 * i) 8)

/-- R204: the dividing words: INT_DIVZERO with nothing written on a zero divisor, the wrap of −2^63 by −1, else the
truncated or the natural quotient and its remainder. -/
def Claims.DivideResults : Prop :=
  ∀ (s : State) (t : Task) (d a b : SReg), s.Ready false t → s.cur.eng = .s →
    let x := sget t.s a
    let y := sget t.s b
    let gives (v : Word) : Outcome := .next (s.after t fun u => u.sset d v)
    (y = 0 →
      let traps : Outcome := .next (s.faulted t { cause := .intDivzero })
      exec (.div ⟨d, a, b⟩) s = traps ∧ exec (.divn ⟨d, a, b⟩) s = traps ∧ exec (.rem ⟨d, a, b⟩) s = traps ∧
        exec (.remn ⟨d, a, b⟩) s = traps ∧ Cause.isUser .intDivzero = true ∧
        ∃ t' f, (s.faulted t { cause := .intDivzero }).task s.cur.core = some t' ∧ t'.faults = t.faults ++ [f] ∧
          f.cause = .intDivzero ∧ f.pc = (t.strand .s).pc ∧ f.after = false ∧ t'.s = t.s ∧
          t'.strand .s = t.strand .s) ∧
    (x = BitVec.intMin 64 → y = BitVec.allOnes 64 →
      exec (.div ⟨d, a, b⟩) s = gives x ∧ exec (.rem ⟨d, a, b⟩) s = gives 0) ∧
    (y ≠ 0 → ¬(x = BitVec.intMin 64 ∧ y = BitVec.allOnes 64) →
      ∃ q r : Word, exec (.div ⟨d, a, b⟩) s = gives q ∧ exec (.rem ⟨d, a, b⟩) s = gives r ∧
        q.toInt = x.toInt.tdiv y.toInt ∧ r.toInt = x.toInt - q.toInt * y.toInt) ∧
    (y ≠ 0 →
      ∃ q r : Word, exec (.divn ⟨d, a, b⟩) s = gives q ∧ exec (.remn ⟨d, a, b⟩) s = gives r ∧
        q.toNat = x.toNat / y.toNat ∧ r.toNat = x.toNat - q.toNat * y.toNat)

/-- R204: the bit-field words. -/
def Claims.BitFields : Prop :=
  ∀ (s : State) (t : Task) (d a b c : SReg), s.Ready false t → s.cur.eng = .s →
    let x := sget t.s a
    let pos := (sget t.s b).toNat % 64
    let w := min ((sget t.s c).toNat % 128) (64 - pos)
    let gives (v : Word) : Outcome := .next (s.after t fun u => u.sset d v)
    (∃ v, exec (.extr ⟨d, a, b, c⟩) s = gives v ∧
      ∀ i < 64, v.getLsbD i = (decide (i < w) && x.getLsbD (pos + i))) ∧
    (∃ v, exec (.insr ⟨d, a, b, c⟩) s = gives v ∧
      ∀ i < 64, v.getLsbD i = if pos ≤ i ∧ i < pos + w then x.getLsbD (i - pos) else (sget t.s d).getLsbD i)

/-- R222: the coordinate words, of format SR. Coordinates are kept lowest first, 32 bits each. -/
def Claims.CoordinateWords : Prop :=
  ∀ (s : State) (t : Task) (d a : KReg) (e b c : SReg), s.Ready false t → s.cur.eng = .s →
    let lo (x : Word) : BitVec 32 := x.extractLsb' 0 32
    let hi (x : Word) : BitVec 32 := x.extractLsb' 32 32
    let k (i : Nat) : BitVec 32 := (kget t.k a).extractLsb' (32 * i) 32
    let x := sget t.s b
    let y := sget t.s c
    exec (.kset ⟨d, b, c⟩) s = .next (s.after t fun u => u.kset d (hi y ++ lo y ++ hi x ++ lo x)) ∧
    exec (.kadd ⟨d, a, b, c⟩) s =
      .next (s.after t fun u => u.kset d ((k 3 + hi y) ++ (k 2 + lo y) ++ (k 1 + hi x) ++ (k 0 + lo x))) ∧
    exec (.kgetLo ⟨e, a⟩) s = .next (s.after t fun u => u.sset e (k 1 ++ k 0)) ∧
    exec (.kgetHi ⟨e, a⟩) s = .next (s.after t fun u => u.sset e (k 3 ++ k 2)) ∧
    ∀ w : IWord, w.extractLsb' 125 3 = 0 →
      let op : BitVec 9 := w.extractLsb' 116 9
      let f (lo : Nat) : BitVec 6 := w.extractLsb' lo 6
      let fn : BitVec 8 := w.extractLsb' 52 8
      (op = 0x072 → 1 < fn → decode false w = .error .reservedField) ∧
      ∀ cl i, decode false w = .ok (cl, i) →
        (op = 0x070 → ∃ kd : KReg, f 78 = kd.setWidth 6 ∧ i = .kset ⟨kd, f 72, f 66⟩) ∧
        (op = 0x071 → ∃ kd ka : KReg, f 78 = kd.setWidth 6 ∧ f 72 = ka.setWidth 6 ∧ i = .kadd ⟨kd, ka, f 66, f 60⟩) ∧
        (op = 0x072 → ∃ ka : KReg, f 72 = ka.setWidth 6 ∧
          i = (if fn = 0 then .kgetLo ⟨f 78, ka⟩ else .kgetHi ⟨f 78, ka⟩))

/-! ## Scalar memory words (08) -/

/-- R205, R206, R207: a load whose bytes can be read writes them, zero-extended, to s[d], and for 16 bytes the high half to
s[d + 1]; one that is an acquire then acts as one at its scope. LDA has the strand's earlier STLs performed before its read, and
waits while those whose order reaches the other die have not arrived there; with none there it never waits. -/
def Claims.LoadsCompleteWithBytesRead : Prop :=
  ∀ (s : State) (t : Task) (d a : SReg) (imm : BitVec 64) (z : MSize) (ord : Ord) (k : Scope),
    s.Ready false t → s.cur.eng = .s →
    let c := s.cur.core
    let own : Agent := .strand c .s
    let loads (i : Instr) (from_ : State) (acq : Option Scope) : Prop :=
      ∀ s1 b, (from_.heedDep (s.waited t) a).readRun (t.whoAs c .s) .rd ((sget t.s a + imm).toNat % 2 ^ 56) z.bytes =
          (s1, .ok b) →
        let low : Word := BitVec.ofNat 64 (leNat b)
        let high : Word := BitVec.ofNat 64 (leNat b / 2 ^ 64)
        exec i s = .next (((s1.modTask c fun u =>
          (if z = .b16 then (u.readMem.sset d low).sset (d + 1) high else u.readMem.sset d low).acquired acq).acquires
            c .s acq).passed (t.strand .s).pc [])
    loads (.ld ⟨d, a, imm, z, ord, k⟩) (s.begun t) (if ord = .acq ∨ ord = .ar then some k else none) ∧
    loads (.ldnt ⟨d, a, imm, z, k⟩) (s.begun t) none ∧
    ((s.begun t).stlWaits own k = false → loads (.lda ⟨d, a, imm, z, k⟩) ((s.begun t).stlFence own k) (some k)) ∧
    ((s.begun t).stlWaits own k = true → exec (.lda ⟨d, a, imm, z, k⟩) s = .next (s.waiting t)) ∧
    ((∀ e ∈ s.order.events, e.writer = some own → e.stl = none) ∨ (s.flight 0 = [] ∧ s.flight 1 = []) →
      (s.begun t).stlWaits own k = false)

/-- R196, R427: a load or a store whose bytes cannot be reached takes the fault of the translation, and writes no register
and no byte (R206); it names the address that failed. -/
def Claims.UnreachableAccessFaults : Prop :=
  ∀ (s s1 : State) (t : Task) (d a : SReg) (imm : BitVec 64) (z : MSize) (ord : Ord) (k : Scope) (c : Cause) (i va : Nat),
    s.Ready false t → s.cur.eng = .s →
    let own := t.whoAs s.cur.core .s
    let rel := if ord = .rel ∨ ord = .ar then some k else none
    let at_ := (sget t.s a + imm).toNat % 2 ^ 56
    let traps : Outcome := .next (s1.takeFault s.cur.core .s
      { cause := c, addr := BitVec.ofNat 56 va, info := BitVec.ofNat 64 i })
    (((s.begun t).heedDep (s.waited t) a).pieces own .rd at_ z.bytes = (s1, .error (.fault c i va)) →
      exec (.ld ⟨d, a, imm, z, ord, k⟩) s = traps ∧ exec (.ldnt ⟨d, a, imm, z, k⟩) s = traps) ∧
    ((s.begun t).stlWaits (.strand s.cur.core .s) k = false →
      (((s.begun t).stlFence (.strand s.cur.core .s) k).heedDep (s.waited t) a).pieces own .rd at_ z.bytes =
        (s1, .error (.fault c i va)) →
      exec (.lda ⟨d, a, imm, z, k⟩) s = traps) ∧
    (s.stalled s.cur.core = false →
      ((s.begun t).pieces { own with rel := rel, stl := none } .wr at_ z.bytes = (s1, .error (.fault c i va)) →
        exec (.st ⟨d, a, imm, z, ord, k⟩) s = traps) ∧
      ((s.begun t).pieces { own with rel := some k, stl := some k } .wr at_ z.bytes = (s1, .error (.fault c i va)) →
        exec (.stl ⟨d, a, imm, z, k⟩) s = traps))

/-- R119, R196: a read within one page of device memory that translates gives the bytes as the reader sees them; those are
the bytes that the agents of its die see, but where the reader is a strand that may still lag behind another's write (the
model's order of accesses, log 7). -/
def Claims.MappedBytesAreRead : Prop :=
  ∀ (s s1 : State) (w : Who) (va n pa : Nat),
    0 < n → va < 2 ^ 56 → va % 4096 + n ≤ 4096 → s.xl w va .rd = (s1, .ok pa) → whereIs pa = .hbm →
    s1.mismatch = false → s1.lostIn pa n = false →
    ∃ s2 b, s.readRun w .rd va n = (s2, .ok b) ∧ s2 = { s1 with order := s2.order, old := s2.old } ∧
      b = s1.pieceView w (.here pa n) ∧
      ((∀ a, w.agent = some a → ∀ x ∈ s1.order.sides, x.die = w.die → a ∉ x.lag) →
        b = (List.range n).map fun i => s1.byteOn w.die (pa + i))

/-- R118, R119, R120: an agent always sees its own latest write; once it has read a byte it reads it no older than it was then;
after an acquire at die scope or above through something that is read as it stands, it reads every byte whose writes had all
become visible on its die as the die sees it. An acquire changes no byte. Which bytes it may read old before is the model's order
of accesses (log 7). -/
def Claims.NothingOldIsRead : Prop :=
  (∀ (s : State) (w : Who) (a : Agent) (pa x : Nat) (b : List Byte),
    whereIs pa = .hbm → s.dirty = [] → w.agent = some a → a.die = w.die →
    (servedBy pa = w.die → ∀ y ∈ s.flight w.die, x < y.addr ∨ y.addr + y.bytes.length ≤ x) → pa ≤ x → x < pa + b.length →
    (s.store w pa b).viewBytes a w.die x 1 1 = [b.getD (x - pa) 0]) ∧
  (∀ (s : State) (a : Agent) (x j k : Nat),
    ((s.noteRead (some a) a.die x 1 1 [k]).undone a a.die x 1 j).length ≤ (s.undone a a.die x 1 k).length) ∧
  ∀ (s : State) (a : Agent) (k : Scope) (x : Nat),
    (k = .die ∨ k = .module ∨ k = .domain →
      (∀ y ∈ s.order.sides, y.die = a.die → (∃ c ∈ y.cells, c.1 = x) → ∃ i, y.vis = some i ∧ i ≤ s.order.next) →
      (s.acquireNow a k).viewBytes a a.die x 1 1 = [s.byteOn a.die x]) ∧
    s.acquire a k = { s with order := (s.acquire a k).order } ∧
    s.acquireNow a k = { s with order := (s.acquireNow a k).order }

/-- R127, R205, R206: a store whose pieces can be written writes the low bytes of s[d], then of s[d + 1], little end first, as a
release at its scope where it is one; while 2^30 writes of the die are unapplied it waits. -/
def Claims.StoresCompleteWithBytesWritten : Prop :=
  ∀ (s s1 : State) (t : Task) (d a : SReg) (imm : BitVec 64) (z : MSize) (ord : Ord) (k : Scope) (b : List Byte),
    s.Ready false t → s.cur.eng = .s →
    let own := t.whoAs s.cur.core .s
    let rel := if ord = .rel ∨ ord = .ar then some k else none
    let done : Outcome := .next (s1.passed (t.strand .s).pc [])
    let at_ := (sget t.s a + imm).toNat % 2 ^ 56
    ((s.flight (dieOf s.cur.core)).length < 2 ^ 30 → b.length = z.bytes →
      (∀ i < z.bytes, b[i]? = some (if i < 8 then (sget t.s d).extractLsb' (8 * i) 8
        else (sget t.s (d + 1)).extractLsb' (8 * (i - 8)) 8)) →
      ((s.begun t).writeRun { own with rel := rel, stl := none } .wr at_ b = (s1, none) →
        exec (.st ⟨d, a, imm, z, ord, k⟩) s = done) ∧
      ((s.begun t).writeRun { own with rel := some k, stl := some k } .wr at_ b = (s1, none) →
        exec (.stl ⟨d, a, imm, z, k⟩) s = done)) ∧
    (2 ^ 30 ≤ (s.flight (dieOf s.cur.core)).length →
      exec (.st ⟨d, a, imm, z, ord, k⟩) s = .next (s.waiting t) ∧ exec (.stl ⟨d, a, imm, z, k⟩) s = .next (s.waiting t))

/-- R119, R126: after a store to device memory every agent of the storing core's die sees the stored bytes, and every other
byte as before; the other die sees every byte as before while the store is in flight. The lines hold no dirty tile (those
are recalled first, R106), and of the die's writes in flight none touches the bytes of a store that is homed on the die itself.
When a store is performed is the model's order of accesses (log 7). -/
def Claims.StoreIsSeenOnItsDie : Prop :=
  ∀ (s : State) (w : Who) (pa : Nat) (b : List Byte) (x : Nat),
    whereIs pa = .hbm → s.dirty = [] → b ≠ [] →
    (servedBy pa = w.die → ∀ y ∈ s.flight w.die, y.addr + y.bytes.length ≤ pa ∨ pa + b.length ≤ y.addr) →
    let u := s.store w pa b
    u.byteOn w.die x = (if pa ≤ x ∧ x < pa + b.length then b.getD (x - pa) 0 else s.byteOn w.die x) ∧
    (servedBy pa ≠ w.die → u.mem = s.mem ∧ u.byteOn (1 - w.die) x = s.byteOn (1 - w.die) x) ∧
    (servedBy pa = w.die → u.mem = rawPut s.mem pa b)

/-- The frame of the loads: memory, the writes in flight and every other core stay as they were, and of the core's task
only s[d] and s[d + 1] and what sequencing changes. -/
def Claims.LoadFrame : Prop :=
  ∀ (s u : State) (d a : SReg) (imm : BitVec 64) (z : MSize) (ord : Ord) (k : Scope),
    (exec (.ld ⟨d, a, imm, z, ord, k⟩) s = .next u ∨ exec (.ldnt ⟨d, a, imm, z, k⟩) s = .next u ∨
      exec (.lda ⟨d, a, imm, z, k⟩) s = .next u) →
    (∀ die pa, u.byteOn die pa = s.byteOn die pa) ∧ u.mem = s.mem ∧ u.wb = s.wb ∧
    (∀ c, c ≠ s.cur.core → u.core c = s.core c) ∧
    ∀ t t', s.task s.cur.core = some t → u.task s.cur.core = some t' →
      ({ t with s := t'.s }).Seq t' s.cur.eng s.cur.clauses ∧
      ∀ r, r ≠ d → (z = .b16 → r ≠ d + 1) → sget t'.s r = sget t.s r

/-- The frame of the stores: no register changes, and, in a module with no dirty tile, every byte but the stored ones reads
as before, the stored ones standing where the address translates. What is ordered before a store to a register page has been
performed first (R120): for one the module has no write in flight. -/
def Claims.StoreFrame : Prop :=
  ∀ (s u s1 : State) (t t' : Task) (d a : SReg) (imm : BitVec 64) (z : MSize) (ord : Ord) (k : Scope) (pa : Nat),
    s.task s.cur.core = some t → s.dirty = [] → s.cur.eng = .s →
    let own := t.whoAs s.cur.core .s
    let rel := if ord = .rel ∨ ord = .ar then some k else none
    let va := (sget t.s a + imm).toNat % 2 ^ 56
    va % 4096 + z.bytes ≤ 4096 →
    ((s.begun t).xl { own with rel := rel, stl := none } va .wr = (s1, .ok pa) ∧ exec (.st ⟨d, a, imm, z, ord, k⟩) s = .next u ∨
      (s.begun t).xl { own with rel := some k, stl := some k } va .wr = (s1, .ok pa) ∧
        exec (.stl ⟨d, a, imm, z, k⟩) s = .next u) →
    (whereIs pa = .hbm ∨ s.flight 0 = [] ∧ s.flight 1 = []) →
    u.task s.cur.core = some t' →
    t.Seq t' s.cur.eng s.cur.clauses ∧
    ∀ die x, ¬(pa ≤ x ∧ x < pa + z.bytes) → u.byteOn die x = s.byteOn die x

/-- R116, R210, R211: an atomic performed at its home writes the old value, zero-extended, to s[d], and its function of the old
value and the operand to memory when that differs; the line's dirty tile is recalled first (R213). It waits while an earlier write
of its die to these bytes is on its way, or what stands there may not be visible on its die. The address is cut to 56 bits but on
a kernel core (R383). -/
def Claims.AtomicResults : Prop :=
  ∀ (s s1 : State) (t : Task) (d a b c : SReg) (z : MSize) (ord : Ord) (k : Scope) (pa : Nat),
    s.Ready false t → s.cur.eng = .s → (z = .b4 ∨ z = .b8) →
    let n := z.bytes
    let own := { t.whoAs s.cur.core .s with rel := if ord = .rel ∨ ord = .ar then some k else none }
    let va := if t.kernel then (sget t.s a).toNat else (sget t.s a).toNat % 2 ^ 56
    let acq := if ord = .acq ∨ ord = .ar then some k else none
    va % n = 0 → (s.begun t).xl own va .at = (s1, .ok pa) → whereIs pa = .hbm →
    s1.mismatch = false → s1.lostIn pa n = false →
    let amos : List (AmoS → Instr) :=
      [.amoadd, .amoand, .amoor, .amoxor, .amomin, .amomax, .amominn, .amomaxn, .amoswp]
    (s1.atomHeld own.die pa n = true → ∀ i ∈ .cas ⟨d, a, b, c, z, ord, k⟩ :: amos.map (· ⟨d, a, b, z, ord, k⟩),
      exec i s = .next (s1.stay s.cur.core .s)) ∧
    (s1.atomHeld own.die pa n = false →
      let s2 := (s1.recallLine (lineOf pa)).noteRead own.agent own.die pa n n []
      let v := (s1.recallLine (lineOf pa)).physNat pa n
      let x := (sget t.s b).toNat % 2 ^ (8 * n)
      let y := (sget t.s c).toNat % 2 ^ (8 * n)
      let int (m : Nat) : Int := Int.bmod m (2 ^ (8 * n))
      let done (new : Nat) : Outcome := .next
        ((((if new = v then s2 else s2.perform own pa (leBytes n new)).modTask s.cur.core
          fun u => (u.readMem.sset d (BitVec.ofNat 64 v)).acquired acq).acquires s.cur.core .s acq).passed (t.strand .s).pc [])
      exec (.amoadd ⟨d, a, b, z, ord, k⟩) s = done ((v + x) % 2 ^ (8 * n)) ∧
      exec (.amoand ⟨d, a, b, z, ord, k⟩) s = done (v &&& x) ∧
      exec (.amoor ⟨d, a, b, z, ord, k⟩) s = done (v ||| x) ∧
      exec (.amoxor ⟨d, a, b, z, ord, k⟩) s = done (v ^^^ x) ∧
      exec (.amomin ⟨d, a, b, z, ord, k⟩) s = done (if int x < int v then x else v) ∧
      exec (.amomax ⟨d, a, b, z, ord, k⟩) s = done (if int v < int x then x else v) ∧
      exec (.amominn ⟨d, a, b, z, ord, k⟩) s = done (min v x) ∧
      exec (.amomaxn ⟨d, a, b, z, ord, k⟩) s = done (max v x) ∧
      exec (.amoswp ⟨d, a, b, z, ord, k⟩) s = done x ∧
      exec (.cas ⟨d, a, b, c, z, ord, k⟩) s = done (if v = x then y else v))

/-- R116, R210: what an atomic writes stands at its home. -/
def Claims.AtomicsWriteAtHome : Prop :=
  ∀ (s : State) (w : Who) (pa : Nat) (b : List Byte), s.dirty = [] → b ≠ [] → (s.perform w pa b).mem = rawPut s.mem pa b

/-- R211, R212: CAS2 on its register pairs, and AMOFADD with the f32 sum rounded to nearest even. -/
def Obligations.WideAndFloatAtomics : Prop :=
  ∀ (s s1 : State) (t : Task) (d a b c : SReg) (ord : Ord) (k : Scope) (pa : Nat),
    s.Ready false t → s.cur.eng = .s →
    let own := { t.whoAs s.cur.core .s with rel := if ord = .rel ∨ ord = .ar then some k else none }
    let va := if t.kernel then (sget t.s a).toNat else (sget t.s a).toNat % 2 ^ 56
    let acq := if ord = .acq ∨ ord = .ar then some k else none
    (s.begun t).xl own va .at = (s1, .ok pa) → whereIs pa = .hbm → s1.mismatch = false →
    let s2 := s1.recallLine (lineOf pa)
    let pair (r : SReg) : Nat := (sget t.s r).toNat + 2 ^ 64 * (sget t.s (r + 1)).toNat
    let done (n v new : Nat) (f : Task → Task) : Outcome :=
      let s3 := s2.noteRead own.agent own.die pa n n []
      .next ((((if new = v then s3 else s3.perform own pa (leBytes n new)).modTask s.cur.core
        fun u => (f u.readMem).acquired acq).acquires s.cur.core .s acq).passed (t.strand .s).pc [])
    (va % 16 = 0 → s1.lostIn pa 16 = false → s1.atomHeld own.die pa 16 = false →
      let v := s2.physNat pa 16
      exec (.cas2 ⟨d, a, b, c, ord, k⟩) s = done 16 v (if v = pair b then pair c else v) fun u =>
        (u.sset d (BitVec.ofNat 64 v)).sset (d + 1) (BitVec.ofNat 64 (v / 2 ^ 64))) ∧
    (va % 4 = 0 → s1.lostIn pa 4 = false → s1.atomHeld own.die pa 4 = false →
      let v := s2.physNat pa 4
      exec (.amofadd ⟨d, a, b, .b4, ord, k⟩) s = done 4 v (addF32 v ((sget t.s b).toNat % 2 ^ 32)) fun u =>
        u.sset d (BitVec.ofNat 64 v))

/-- R117: an atomic that is not aligned to its size faults ATOMIC_ALIGN and has no effect. -/
def Claims.AtomicsOffTheirSizeFault : Prop :=
  ∀ (s : State) (t : Task) (d a b c : SReg) (z : MSize) (ord : Ord) (k : Scope),
    s.Ready false t → s.cur.eng = .s →
    let va := if t.kernel then (sget t.s a).toNat else (sget t.s a).toNat % 2 ^ 56
    let traps : Outcome := .next (s.faulted t { cause := .atomicAlign, addr := BitVec.ofNat 56 va })
    (va % z.bytes ≠ 0 →
      (∀ f ∈ [Instr.amoadd, .amoand, .amoor, .amoxor, .amomin, .amomax, .amominn, .amomaxn, .amoswp, .amofadd],
        exec (f ⟨d, a, b, z, ord, k⟩) s = traps) ∧
      exec (.cas ⟨d, a, b, c, z, ord, k⟩) s = traps) ∧
    (va % 16 ≠ 0 → exec (.cas2 ⟨d, a, b, c, ord, k⟩) s = traps)

/-- R122, R123, R175, R208, R214, R215: the fences, PREFL, SYNC.s and the cache words complete; they change no register and no
byte of memory. A fence orders by its kind; a full or mca fence at a scope that reaches the other die waits while a write that it
orders is on its way there, and never when none is on its way. DCWB and DCINV wait for the die's writes in flight to their range.
Which fences wait, and what they change in the record of accesses, follows from the model's order of accesses (log 7); what the
cache words do to the words that stores have changed is log 18's. -/
def Claims.FencesAndCacheWordsComplete : Prop :=
  ∀ (s : State) (t : Task) (o : RangeOp) (k : Scope) (p : AddrOp) (wide : Bool), s.Ready false t → s.cur.eng = .s →
    let c := s.cur.core
    let u := s.begun t
    let pc := (t.strand .s).pc
    let plain : Outcome := .next (u.passed pc [])
    let fenced (f : FenceKind) (acq : Option Scope) : Outcome :=
      .next (((u.fenceOrder (.strand c .s) f k).modTask c fun x => x.acquired acq).passed pc [])
    let base := (sget t.s o.a).toNat
    let end_ := min (base + (sget t.s o.b).toNat) (2 ^ 56)
    let lines := u.linesFrom (t.whoAs c .s) ((end_ - base) / 4096 + 2) base end_
    let swept (f : CodeCell → CodeCell) : Outcome := .next
      (({ u with code := u.code.map fun x => if inRanges lines x.addr then f x else x } : State).passed pc [])
    let back (x : CodeCell) : CodeCell := x.writeBack c (u.wordAt (dieOf c) x.addr)
    let caches := (List.range 194).filter fun j => wide || dieOf j == dieOf c
    let comes : Prop := ∃ w ∈ s.flight (dieOf c), ∃ l ∈ linesOf w.addr w.bytes.length, inRanges lines (64 * l) = true
    exec (.fenceAcq k) s = fenced .acq (some k) ∧ exec (.fenceRel k) s = fenced .rel none ∧ exec (.prefl p) s = plain ∧
    (u.fenceWaits (.strand c .s) .full k = false → exec (.fenceFull k) s = fenced .full (some k)) ∧
    (u.fenceWaits (.strand c .s) .mca k = false → exec (.fenceMca k) s = fenced .mca (some k)) ∧
    (u.fenceWaits (.strand c .s) .full k = true → exec (.fenceFull k) s = .next (s.waiting t)) ∧
    (u.fenceWaits (.strand c .s) .mca k = true → exec (.fenceMca k) s = .next (s.waiting t)) ∧
    (∀ f, (k = .core ∨ k = .team ∨ k = .die) ∨ (s.flight 0 = [] ∧ s.flight 1 = []) →
      u.fenceWaits (.strand c .s) f k = false) ∧
    (∀ f, u.fenceOrder (.strand c .s) f k = { u with order := (u.fenceOrder (.strand c .s) f k).order }) ∧
    (¬comes → exec (.dcwb o) s = swept back ∧ exec (.dcinv o) s = swept back) ∧
    (comes → exec (.dcwb o) s = .next (s.waiting t) ∧ exec (.dcinv o) s = .next (s.waiting t)) ∧
    exec (.iinv ⟨o.a, o.b, wide⟩) s = swept (fun x => { x with inv := caches.foldl (fun m j => SMap.put 0 m j x.clean) x.inv }) ∧
    exec .fetchb s = .next ((u.fetchAgain [c]).passed pc []) ∧ exec .syncS s = plain

/-- R215, R216: once DCWB has written back the word that a core's stores have changed, IINV has invalidated a core's copy of it and
that core has fetched again, the core runs the new word, whole; until then it runs one of the contents the word has had. A word no
store has changed is fetched as memory has it. (How far the caches may lag is log 18's.) -/
def Claims.PatchedCodeIsFetched : Prop :=
  ∀ (s : State) (c k pa : Nat) (x : CodeCell),
    (s.code.find? (fun y => y.addr == pa) = none → s.fetchWord k pa = s.wordAt (dieOf k) pa) ∧
    (s.code.find? (fun y => y.addr == pa) = some x → x.vers ≠ [] → s.fetchWord k pa ∈ x.vers) ∧
    (x.addr = pa → x.dirty = some c →
      let y := x.writeBack c (s.wordAt (dieOf c) pa)
      let z := { y with inv := SMap.put 0 y.inv k y.clean }
      (({ s with code := [z] } : State).fetchAgain [k]).fetchWord k pa = s.wordAt (dieOf c) pa)

/-! ## Semaphores, events, barriers and launches (02, 08) -/

/-- R31, R32, R34, R124, R217: the semaphore words. An increment within the floor check is applied; one beyond it leaves the
semaphore and faults SEM_OVERFLOW with the restart point after the word; SEMWAIT passes once the signed difference of the low
byte is not negative, moves the floor forward, and otherwise waits and is woken by the change that satisfies it; what
the semaphore's signals stand for then precedes it (the record of that is log 7's). A change of a semaphore moves the floor further
only for a strand that waits on it. -/
def Claims.SemaphoreWords : Prop :=
  ∀ (s : State) (t : Machine.Task) (n thr : BitVec 8) (a d : SReg) (amt : BitVec 16), s.Ready false t → s.cur.eng = .s →
    let c := s.cur.core
    let x := (s.waited t).semOf n
    let passes (f : Machine.Task → Machine.Task) : Outcome := .next (s.after t f)
    let by_ : BitVec 16 := (sget t.s a).setWidth 16 + amt
    let lead := (x.val + by_).toNat % 256 + 256 - x.floor.toNat
    let th := (sget t.s a).setWidth 8 + thr
    let met : Prop := (((x.val.toNat % 256 : Nat) : Int) - th.toNat) % 256 < 128
    (by_ = 0 → exec (.semsig ⟨n, a, amt⟩) s = .next ((s.begun t).passed (t.strand .s).pc [])) ∧
    (by_ ≠ 0 → lead % 256 ≤ 127 →
      exec (.semsig ⟨n, a, amt⟩) s = passes fun u => u.changeSem n ⟨x.val + by_, x.floor⟩) ∧
    (by_ ≠ 0 → 127 < lead % 256 →
      exec (.semsig ⟨n, a, amt⟩) s = .next ((s.begun t).takeFault c .s
        { cause := .semOverflow, info := BitVec.ofNat 64 (n.toNat + 256 * (c % 256)), after := true })) ∧
    ((t.strand .s).phase = .woken →
      exec (.semwait ⟨n, a, thr⟩) s = .next (((s.begun t).meetWait c .s n).passed (t.strand .s).pc [])) ∧
    ((t.strand .s).phase ≠ .woken → met → exec (.semwait ⟨n, a, thr⟩) s =
      .next ((((s.begun t).modTask c fun u => u.setSem n
        ⟨x.val, if 0 < (th.toNat - x.floor.toNat : Int) % 256 ∧ (th.toNat - x.floor.toNat : Int) % 256 < 128
          then th else x.floor⟩).meetWait c .s n).passed (t.strand .s).pc [])) ∧
    ((t.strand .s).phase ≠ .woken → ¬met → exec (.semwait ⟨n, a, thr⟩) s =
      .next (((s.begun t).modTask c fun u =>
        u.setStrand .s { u.strand .s with phase := .begun, waiting := some (n, th) }).stay c .s)) ∧
    exec (.semget ⟨d, n⟩) s = passes (fun u => u.sset d (x.val.setWidth 64)) ∧
    exec (.semset ⟨n, a, amt⟩) s = passes (fun u => u.changeSem n ⟨by_, by_.setWidth 8⟩) ∧
    ∀ (u : Machine.Task) (y : Sem) (m : BitVec 8),
      ((u.changeSem n y).semOf n).val = y.val ∧ (m ≠ n → (u.changeSem n y).semOf m = u.semOf m) ∧
      ((∀ e, (u.strand e).waiting = none) → u.changeSem n y = u.setSem n y)

/-- R112, R217, R218: the event words of a task of context `n`: EVSET sets bit e of the vector at EVADDR by one atomic, as a
release at module scope; EVCLR clears it; EVWAIT passes while it is 1, as an acquire at module scope, and waits while it is 0. A
vector in a lost line faults. All three wait while an earlier write of their die to the vector is on its way (log 7). A task of no
context has no vector (log 11, the model's choice). -/
def Claims.EventWords : Prop :=
  ∀ (s : State) (t : Machine.Task) (a : SReg) (ev : BitVec 8) (n : Nat), s.Ready false t → s.cur.eng = .s →
    let c := s.cur.core
    let own : Agent := .strand c .s
    let e := ((sget t.s a).toNat + ev.toNat) % 256
    let ends (u : State) : Outcome := .next (u.passed (t.strand .s).pc [])
    let u := s.begun t
    let at_ := (u.ctx n).evaddr
    let who : Who := { die := dieOf c, ctx := none, asid := 0, agent := some own }
    let words : List Instr := [.evset ⟨a, ev⟩, .evclr ⟨a, ev⟩, .evwait ⟨a, ev⟩]
    (t.ctx = some n → u.lostIn at_ 32 = true →
      ∀ i ∈ words, exec i s = .next (s.faulted t { cause := .uncorrectableData, addr := BitVec.ofNat 56 at_ })) ∧
    (t.ctx = some n → u.lostIn at_ 32 = false → u.atomHeld (dieOf c) at_ 32 = true →
      ∀ i ∈ words, exec i s = .next (s.waiting t)) ∧
    (t.ctx = some n → u.lostIn at_ 32 = false → u.atomHeld (dieOf c) at_ 32 = false →
      exec (.evset ⟨a, ev⟩) s = ends (u.changeEvents { who with rel := some .module } n fun v => some (v ||| 2 ^ e)) ∧
      (∃ f : Nat → Nat, exec (.evclr ⟨a, ev⟩) s = ends (u.changeEvents who n fun v => some (f v)) ∧
        ∀ v i, (f v).testBit i = (v.testBit i && i != e)) ∧
      ((u.eventsSeen c n).testBit e = true → exec (.evwait ⟨a, ev⟩) s =
        ends ((u.noteRead (some own) (dieOf c) at_ 32 32 []).acquire own .module)) ∧
      ((u.eventsSeen c n).testBit e = false → exec (.evwait ⟨a, ev⟩) s = .next (s.waiting t))) ∧
    (t.ctx = none →
      exec (.evset ⟨a, ev⟩) s = ends u ∧ exec (.evclr ⟨a, ev⟩) s = ends u ∧ exec (.evwait ⟨a, ev⟩) s = .next (s.waiting t)) ∧
    ∀ (v : State) (w : Who) (f : Nat → Option Nat) (x : Nat), whereIs (v.ctx n).evaddr = .hbm → v.dirty = [] →
      f (v.events n) = some x → x < 2 ^ 256 → (v.changeEvents w n f).physNat (v.ctx n).evaddr 32 = x

/-- R37, R39, R124: an arrival at a barrier is a release at the scope of its level; a barrier whose last participant arrives
completes as an acquire at that scope and its episode is over; an earlier arrival is counted once, and waits; above team level a
task without a co-resident grid, or with a count of 0, faults and counts no arrival; and an arrival that has been counted waits
for its episode alone. A domain arrival also goes to the other modules. Which arrivals belong together is the model's reading
(log 28). -/
def Obligations.Barriers : Prop :=
  ∀ (s : State) (t : Machine.Task) (level : Nat) (i : Instr),
    (level, i) ∈ [(0, Instr.barTeam), (1, .barDie), (2, .barModule), (3, .barDomain)] →
    s.Ready false t → s.cur.eng = .s →
    let c := s.cur.core
    let own : Agent := .strand c .s
    let k : Scope := match level with
      | 0 => .team
      | 1 => .die
      | 2 => .module
      | _ => .domain
    let count := match level with
      | 0 => teamSize (bits t.teaminfo 51 50)
      | 1 => bits t.domain 42 36
      | 2 => bits t.domain 50 43
      | _ => bits t.domain 63 51
    let ends (u : State) : Outcome := .next (u.passed (t.strand .s).pc [])
    ((∀ n, (t.strand .s).phase ≠ .barred n) →
      let arrived := ((s.begun t).releaseNow own k).arriveAt level ((s.begun t).barKey t level)
        (if level = 1 then dieOf c else 0) count (.inl t.uid)
      let fid := match t.ctx with
        | some n => (arrived.1.ctx n).fid
        | none => 0
      let sent : State := if level = 3 then
        { arrived.1 with outbox := arrived.1.outbox ++ [.barArrive (t.domain.extractLsb' 0 32) fid] } else arrived.1
      (0 < level → t.gridinfo.getLsbD 48 = false ∨ count = 0 →
        exec i s = .next (s.faulted t { cause := .barNotCoresident })) ∧
      (level = 0 ∨ (t.gridinfo.getLsbD 48 = true ∧ count ≠ 0) →
        (arrived.1.openEpisode arrived.2 = false → exec i s = ends (sent.acquireNow own k)) ∧
        (arrived.1.openEpisode arrived.2 = true →
          ∃ u u', exec i s = .next u ∧ u.task c = some u' ∧ (u'.strand .s).phase = .barred arrived.2 ∧
            (u'.strand .s).pc = (t.strand .s).pc ∧ u.barriers = arrived.1.barriers ∧ u.outbox = sent.outbox))) ∧
    (∀ n, (t.strand .s).phase = .barred n →
      (s.openEpisode n = true → exec i s = .next (s.waiting t)) ∧
      (s.openEpisode n = false → exec i s = ends ((s.begun t).acquireNow own k).dropIssueSignal))

/-- R220, R221, R390: LAUNCH writes status 3 for a misaligned record and reads nothing; else it reads the whole record, as an
acquire at module scope, and posts it as a release at module scope: it completes with a handle and never waits, with status 1 when
the die's pool is full and 2 beyond the context's quota, posting nothing in either case. A context whose descriptor is not valid has
its launch marked as refused; one whose descriptor has a reserved bit set faults RESERVED_FIELD (R2, R389). Which handle a
launch gets is a free value (log 12), and status 2 for a task of no context the model's choice (log 11). -/
def Claims.LaunchPosts : Prop :=
  ∀ (s s1 : State) (t : Machine.Task) (d a : SReg) (imm : BitVec 64) (b : List Byte) (n : Nat),
    s.Ready false t → s.cur.eng = .s →
    let c := s.cur.core
    let va := (sget t.s a + imm).toNat % 2 ^ 56
    let i : Instr := .launch ⟨d, a, imm⟩
    let gives (u : State) (v : Word) : Outcome := .next ((u.modTask c fun x => x.sset d v).passed (t.strand .s).pc [])
    (va % 128 ≠ 0 → exec i s = gives (s.begun t) 3) ∧
    (va % 128 = 0 → (s.begun t).readRun (t.whoAs c .s) .rd va 128 = (s1, .ok b) →
      let u := (s1.acquire (.strand c .s) .module).releaseNow (.strand c .s) .module
      let mine := ((u.pending 0 ++ u.pending 1).filter fun x => x.ctx == n).length
      (t.ctx = none → exec i s = gives u 2) ∧
      (t.ctx = some n → u.ctxBroken n = true → exec i s = .next (u.takeFault c .s { cause := .reservedField })) ∧
      (t.ctx = some n → u.ctxBroken n = false →
        (1024 ≤ (u.pending (dieOf c)).length → exec i s = gives u 1) ∧
        ((u.pending (dieOf c)).length < 1024 → (u.ctx n).lquota ≤ mine → exec i s = gives u 2) ∧
        ((u.pending (dieOf c)).length < 1024 → mine < (u.ctx n).lquota →
          ∃ w h q k, exec i s = gives w (h ++ 0#32) ∧ ⟨n, h, 0⟩ ∈ w.launchLog ∧
            w.pending (dieOf c) = u.pending (dieOf c) ++
              [⟨n, h, BitVec.ofNat 1024 (leNat b), q, t.uid, k, !u.ctxValid n⟩]))) ∧
    (∀ cause info bad, va % 128 = 0 →
      (s.begun t).readRun (t.whoAs c .s) .rd va 128 = (s1, .error (.fault cause info bad)) → exec i s =
        .next (s1.takeFault c .s { cause := cause, addr := BitVec.ofNat 56 bad, info := BitVec.ofNat 64 info }))

/-- R219, R220, R221: YIELD with no rival work has no effect, and otherwise asks its gang to stop after this word; LSTAT writes
the state of the launch its operand names, 4 for a handle that is not known, and where the launch has completed (2 or 3) acts as an
acquire at module scope. A task of no context knows no handle (log 11, the model's choice). -/
def Claims.YieldAndLaunchState : Prop :=
  ∀ (s : State) (t : Machine.Task) (d a : SReg) (n : Nat), s.Ready false t → s.cur.eng = .s →
    let h : BitVec 32 := (sget t.s a).setWidth 32
    let u := s.begun t
    let ends (w : State) : Outcome := .next (w.passed (t.strand .s).pc [])
    let gives (v : Nat) : Outcome :=
      ends ((if v = 2 ∨ v = 3 then u.acquireNow (.strand s.cur.core .s) .module else u).modTask s.cur.core fun x =>
        x.sset d (BitVec.ofNat 64 v))
    (u.teamOf t = none → exec .yield s = ends u) ∧
    (∀ tm, u.teamOf t = some tm → u.rivals tm = false → exec .yield s = ends u) ∧
    (∀ tm, u.teamOf t = some tm → u.rivals tm = true → exec .yield s =
      ends ((u.askGang tm).modTask s.cur.core fun x =>
        { x with stopAt := some ((x.strand .s).epoch, (x.strand .s).path + 1), stopLive := none })) ∧
    (t.ctx = none → exec (.lstat ⟨d, a⟩) s = gives 4) ∧
    (t.ctx = some n →
      (∀ x, s.launchLog.find? (fun x => x.ctx == n && x.handle == h) = some x → exec (.lstat ⟨d, a⟩) s = gives x.st) ∧
      ((∀ x ∈ s.launchLog, ¬(x.ctx = n ∧ x.handle = h)) → exec (.lstat ⟨d, a⟩) s = gives 4))

/-! ## Control registers, traps and the privileged words (08, 19) -/

/-- R223, R224, R225: CSRR writes the register to s[d] once the V and M words before it have completed, where the register is
one that they change; CHRON writes the Chronometer. -/
def Claims.ControlRegisterReads : Prop :=
  ∀ (s : State) (t : Machine.Task) (d : SReg) (r : Csr), s.Ready false t → s.cur.eng = .s →
    let caught (e : Eng) : Prop := ((t.strand e).ended = true ∨
      before (t.strand e).epoch (t.strand e).path (t.strand .s).epoch (t.strand .s).path = false)
    let parked : Prop := ∃ w ∈ t.replay, w.env.eng = .m ∧
      before w.epoch w.path (t.strand .s).epoch (t.strand .s).path = true
    let ready : Prop := match r with
      | .fpstat | .lseed => caught .v ∧ caught .m ∧ ¬parked
      | .mstat => caught .m ∧ ¬parked
      | _ => True
    let gives (v : Word) : Outcome := .next (s.after t fun u => u.sset d v)
    (t.kernel = true ∨ ready → exec (.csrr ⟨d, r⟩) s = gives (match r with
      | .fpctl => t.fpctl | .fpstat => t.fpstat | .lseed => t.lseed | .rrb => t.rrb.setWidth 64
      | .prb => t.prb.setWidth 64 | .win => t.win.setWidth 64 | .taskid => t.taskid | .teaminfo => t.teaminfo
      | .gridinfo => t.gridinfo | .domain => t.domain | .mstat => (s.begun t).mstat s.cur.core t
      | .ufentry => t.ufentry | .chrono => s.now (dieOf s.cur.core))) ∧
    (t.kernel = false → ¬ready → exec (.csrr ⟨d, r⟩) s = .next (s.waiting t)) ∧
    exec (.chron d) s = gives (s.now (dieOf s.cur.core))

/-- R3, R26, R38, R58, R61, R223, R224, R285, R445: CSRW stores the fields of the register as its Access codes allow: FPCTL
with a reserved rounding mode as 000, RRB below 640, WIN within 16 to 4,096, DOMAIN's GRID and DCOUNT, UFENTRY's EN and
FRAME; a write of FPSTAT, LSEED or MSTAT is left for the V and the M strand to meet at this word, or made at once on a kernel core,
which has neither (R382), a zero LFSR state as 1; a write of a read-only register is ignored. -/
def Claims.ControlRegisterWrites : Prop :=
  ∀ (s : State) (t : Machine.Task) (a : SReg) (r : Csr), s.Ready false t → s.cur.eng = .s →
    let v := sget t.s a
    let nz (x : BitVec 32) : BitVec 32 := if x = 0 then 1 else x
    let dom (old : Word) : Word :=
      BitVec.ofNat 13 (min 6144 (v.toNat / 2 ^ 51)) ++ old.extractLsb' 36 15 ++ 0#4 ++ v.extractLsb' 0 32
    let ufe (old : Word) : Word :=
      v.extractLsb' 63 1 ++ old.extractLsb' 62 1 ++ 0#6 ++ v.extractLsb' 9 47 ++ 0#9
    let leaves (l : List CtlWrite) (u : Machine.Task) : Machine.Task :=
      if u.kernel then l.foldl Task.applyCtl u else u.addDeposit ⟨(u.strand .s).epoch, (u.strand .s).path, u.s, u.k, u.fpctl, u.rrb, u.prb, false, 0, l⟩
    exec (.csrw ⟨a, r⟩) s = .next (s.after t (match r with
      | .fpctl => fun u => { u with fpctl := (v &&& 0x3f18) ||| (if 5 ≤ v.toNat % 8 then 0 else v &&& 7) }
      | .fpstat => leaves [⟨.v, .fpstat, v⟩]
      | .lseed =>
        let w := nz (v.extractLsb' 32 32) ++ nz (v.extractLsb' 0 32)
        leaves [⟨.v, .lseed, w⟩, ⟨.m, .lseed, w⟩]
      | .rrb => fun u => { u with rrb := BitVec.ofNat 10 (v.toNat % 1024 % 640) }
      | .prb => fun u => { u with prb := BitVec.ofNat 5 (v.toNat % 32) }
      | .win => fun u => { u with win := BitVec.ofNat 13 (max 16 (min 4096 (v.toNat % 8192))) }
      | .domain => fun u => { u with domain := dom u.domain }
      | .mstat => leaves [⟨.m, .mstat, v⟩]
      | .ufentry => fun u => { u with ufentry := ufe u.ufentry }
      | _ => id))

/-- R226, R438, R440: TRAP and BRK complete by taking their exception: they have no effect but to raise their cause at their
own word, with their code; TRAP restarts after it. -/
def Claims.TrapsAreTaken : Prop :=
  ∀ (s : State) (t : Machine.Task) (code : BitVec 16), s.Ready false t → s.cur.eng = .s →
    let trap : FaultInfo := { cause := .userTrap, info := code.setWidth 64, after := true }
    let brk : FaultInfo := { cause := .breakpoint, info := code.setWidth 64 }
    let raised (f : FaultInfo) : FaultInfo := { f with strand := some .s, pc := (t.strand .s).pc, stamp := s.now (dieOf s.cur.core) }
    exec (.trap code) s = .next ((s.begun t).takeFault s.cur.core .s trap) ∧
    exec (.brk code) s = .next ((s.begun t).takeFault s.cur.core .s brk) ∧
    (t.kernel = false → ∀ f ∈ [trap, brk], (s.begun t).takeFault s.cur.core .s f = (s.begun t).setTask s.cur.core
      { s.waited t with faults := (s.waited t).faults ++ [raised f] })

/-- R385, R386, R388, R392: CSRRP reads and CSRWP writes the registers of R385; a write that would let two valid partitions
share a unit is refused with status 1 and changes nothing; any other number faults RESERVED_FIELD. -/
def Claims.PrivilegedRegisters : Prop :=
  ∀ (s : State) (t : Machine.Task) (d a b : SReg), s.Ready false t → s.cur.eng = .s →
    let n := (sget t.s a).toNat
    let k := (n - 0x200) / 4
    let r := n % 4
    let v := sget t.s b
    let q := s.part k
    let gives (u : State) (w : Word) : Outcome :=
      .next ((u.modTask s.cur.core fun x => x.sset d w).passed (t.strand .s).pc [])
    let bad : Outcome := .next (s.faulted t { cause := .reservedField })
    (n = 0x100 → exec (.csrrp ⟨d, a⟩) s = gives (s.begun t) s.ctxtab ∧
      exec (.csrwp ⟨d, a, b⟩) s = gives { s.begun t with ctxtab := v &&& 0xffffffff80000 } 0) ∧
    (0x200 ≤ n ∧ n < 0x220 →
      exec (.csrrp ⟨d, a⟩) s = gives (s.begun t)
        (if r = 0 then q.pclu else if r = 1 then q.pstk else if r = 2 then q.pque else q.pfab) ∧
      ∃ p : PartRegs,
        ((s.begun t).partClash k p = true → exec (.csrwp ⟨d, a, b⟩) s = gives (s.begun t) 1) ∧
        ((s.begun t).partClash k p = false → exec (.csrwp ⟨d, a, b⟩) s =
          gives (let u : State := { s.begun t with parts := SMap.put partReset s.parts k p }
            if r = 0 then u.leaveClusters k else u) 0) ∧
        p.pclu = (if r = 0 then v &&& 0xffffffffffff else q.pclu) ∧
        p.pstk = (if r = 1 then v &&& 0xfff else q.pstk) ∧
        p.pque = (if r = 2 then BitVec.ofNat 64 (bits v 7 0 + 2 ^ 8 * min 256 (bits v 16 8)) else q.pque) ∧
        p.pfab = (if r = 3 then BitVec.ofNat 64 (bits v 16 0 + 2 ^ 24 * max 1 (bits v 31 24) +
          2 ^ 32 * max 256 (bits v 55 32) + 2 ^ 63 * bits v 63 63) else q.pfab)) ∧
    (n ≠ 0x100 → ¬(0x200 ≤ n ∧ n < 0x220) →
      exec (.csrrp ⟨d, a⟩) s = bad ∧ exec (.csrwp ⟨d, a, b⟩) s = bad)

/-- R2, R389, R392 to R394, R442: RESUME and KILLTASK complete with their statuses: 1 for a context that is not valid, 2 where
nothing is to be done, else 0; an operand or a context descriptor with a reserved bit set faults RESERVED_FIELD. KILLTASK waits
until the accesses of its team have been performed. -/
def Claims.TaskWords : Prop :=
  ∀ (s : State) (t : Machine.Task) (d a : SReg), s.Ready false t → s.cur.eng = .s →
    let x := sget t.s a
    let n := bits x 11 0
    let i := bits x 47 16
    let u := s.begun t
    let gives (w : State) (st : Nat) : Outcome :=
      .next ((w.modTask s.cur.core fun y => y.sset d (BitVec.ofNat 64 st)).passed (t.strand .s).pc [])
    let bad : Outcome := .next (s.faulted t { cause := .reservedField })
    let odd : Prop := bits x 15 12 ≠ 0 ∨ bits x 63 48 ≠ 0 ∨ u.ctxBroken n = true
    (odd → exec (.resume ⟨d, a⟩) s = bad ∧ exec (.killtask ⟨d, a⟩) s = bad) ∧
    (¬odd →
      let r := u.resumeImage n i
      exec (.resume ⟨d, a⟩) s = gives r.1 r.2 ∧
      (u.ctxValid n = false → r = (u, 1)) ∧
      (u.ctxValid n = true → u.coreOfImage n i = none → u.savedImage n i = none → r = (u, 2)) ∧
      (∀ c k, u.ctxValid n = true → u.coreOfImage n i = some c → u.task c = some k →
        r = (if k.gens.any (fun g => g.2.mode == .halted) then (u.setTask c k.restartGens, 0) else (u, 2))) ∧
      (∀ m tm, u.ctxValid n = true → u.coreOfImage n i = none → u.savedImage n i = some m → u.teamOf m.task = some tm →
        (tm.st = .faulted → r.2 = 0 ∧ ∀ g ∈ u.gang tm, ∀ y ∈ r.1.teams, y.node = g.node → y.num = g.num → y.st ≠ .faulted) ∧
        (tm.st ≠ .faulted → r = (u, 2))) ∧
      (u.ctxValid n = false → exec (.killtask ⟨d, a⟩) s = gives u 1) ∧
      (u.ctxValid n = true → u.imageTeam n i = none → exec (.killtask ⟨d, a⟩) s = gives u 2) ∧
      (∀ tm, u.ctxValid n = true → u.imageTeam n i = some tm →
        (u.gangDrained [tm] = true → exec (.killtask ⟨d, a⟩) s = gives (u.killTeam tm .none) 0) ∧
        (u.gangDrained [tm] = false → exec (.killtask ⟨d, a⟩) s = .next (s.waiting t))))

/-- R396: TLBINV takes the cached leaves of its operand out, once the writes in flight have been performed; an operand with a
reserved bit set faults RESERVED_FIELD. -/
def Claims.TranslationWords : Prop :=
  ∀ (s : State) (t : Machine.Task) (a b c : SReg), s.Ready false t → s.cur.eng = .s →
    let x := sget t.s a
    let lo := (sget t.s b).toNat
    let hi := lo + (sget t.s c).toNat
    let bad : Outcome := .next (s.faulted t { cause := .reservedField })
    let takes (i : Instr) (p : TlbEnt → Bool) : Prop :=
      (s.flight 0 = [] → s.flight 1 = [] → exec i s =
        .next (({ s.begun t with tlb := s.tlb.filter fun e => !p e } : State).passed (t.strand .s).pc [])) ∧
      (s.flight 0 ≠ [] ∨ s.flight 1 ≠ [] → exec i s = .next (s.waiting t))
    takes .tlbinvAll (fun _ => true) ∧
    (bits x 63 16 = 0 →
      takes (.tlbinvAsid a) (fun e => e.asid == x.setWidth 16) ∧
      takes (.tlbinvRange ⟨a, b, c⟩) fun e => e.asid == x.setWidth 16 && decide (e.base < hi) && decide (lo < e.base + e.size)) ∧
    (bits x 63 16 ≠ 0 → exec (.tlbinvAsid a) s = bad ∧ exec (.tlbinvRange ⟨a, b, c⟩) s = bad)

/-- R395: HARVEST of aligned pages recalls the dirty registrations of each page, clears its grant, and writes one bit per
page, with their count in s[d]; a misaligned start or a page count beyond 1 to 4,096 faults RESERVED_FIELD. Here nothing is
registered dirty. -/
def Claims.HarvestReportsGrants : Prop :=
  ∀ (s : State) (t : Machine.Task) (d a b c : SReg), s.Ready false t → s.cur.eng = .s →
    let pa := (sget t.s a).toNat
    let n := (sget t.s b).toNat
    let to_ := if t.kernel then (sget t.s c).toNat else (sget t.s c).toNat % 2 ^ 56
    (pa % 4096 ≠ 0 ∨ n = 0 ∨ 4096 < n →
      exec (.harvest ⟨d, a, b, c⟩) s = .next (s.faulted t { cause := .reservedField })) ∧
    (pa % 4096 = 0 → 1 ≤ n → n ≤ 4096 → s.dirty = [] →
      let found := (List.range n).filter fun i => pa + 4096 * i < hbmEnd && s.grants.contains (pa / 4096 + i)
      let taken (g : Nat) : Bool := (List.range n).any fun i => pa + 4096 * i < hbmEnd && g == pa / 4096 + i
      let s1 : State := { s.begun t with grants := s.grants.filter fun g => !taken g }
      ∃ bs : List Byte, bs.length = (n + 7) / 8 ∧
        (∀ i < n, (bs.getD (i / 8) 0).getLsbD (i % 8) = found.contains i) ∧
        ∀ s2, s1.writeRun (t.whoAs s.cur.core .s) .wr to_ bs = (s2, none) →
          exec (.harvest ⟨d, a, b, c⟩) s = .next
            ((s2.modTask s.cur.core fun u => u.sset d (BitVec.ofNat 64 found.length)).passed (t.strand .s).pc []))

/-- The frame of the S words that write one s register: of the core's task that register alone and what sequencing changes;
memory and every other core stay, but for the record of the order of accesses (log 7). -/
def Claims.ScalarFrame : Prop :=
  ∀ (s u : State) (i : Instr) (d : SReg), i.scalarDest = some d → exec i s = .next u →
    u = { s with cores := u.cores, records := u.records, order := u.order } ∧ (∀ c, c ≠ s.cur.core → u.core c = s.core c) ∧
    ∀ t t', s.task s.cur.core = some t → u.task s.cur.core = some t' →
      ({ t with s := t'.s }).Seq t' s.cur.eng s.cur.clauses ∧ ∀ r, r ≠ d → sget t'.s r = sget t.s r

/-- R195: s0 reads zero and discards writes; every other register reads back what was written and no register but the one
written changes. -/
def Claims.ZeroRegister : Prop :=
  ∀ (t : Machine.Task) (d r : SReg) (v : Word),
    sget t.s 0 = 0 ∧ t.sset 0 v = t ∧ (d ≠ 0 → sget (t.sset d v).s d = v) ∧
    (r ≠ d → sget (t.sset d v).s r = sget t.s r)

/-! ## Sequencing and control flow (02, 08) -/

/-- R20, R21, R32, R33, R199: passing a word that ends no loop moves its own strand alone to the next word and counts it; the
signal clause at point `done` of a word that has completed adds SINC + 1 to its semaphore once; of the other strands it wakes
at most those that wait on that semaphore. -/
def Claims.PassingAdvances : Prop :=
  ∀ (s : State) (t : Machine.Task) (e : Eng), s.task s.cur.core = some t → s.cur.eng = e → (t.strand e).loops = [] →
    ∃ u, (s.passed (t.strand e).pc []).task s.cur.core = some u ∧
      (u.strand e).pc = (t.strand e).pc + 16 ∧ (u.strand e).path = (t.strand e).path + 1 ∧
      (u.strand e).phase = .fresh ∧
      (∀ y, Eng.num y ≠ Eng.num e → (s.cur.clauses.sig = none → u.strand y = t.strand y) ∧
        ∃ w p, u.strand y = { t.strand y with waiting := w, phase := p }) ∧
      (s.cur.clauses.sig = none → u.sem = t.sem) ∧
      (∀ g, s.cur.clauses.sig = some g → g.pt = .done →
        let x := t.semOf g.sem
        let v := x.val + (g.inc.setWidth 16 + 1)
        let ok : Prop := (v.toNat % 256 + 256 - x.floor.toNat) % 256 ≤ 127
        (ok → (u.semOf g.sem).val = v) ∧ (¬ok → (u.semOf g.sem).val = x.val) ∧
        ((∀ y, (t.strand y).waiting = none) → (u.semOf g.sem).floor = x.floor))

/-- R20, R32: a strand that reaches a word whose wait clause is not satisfied waits: nothing changes but that it evaluates the
clause again at every change of the semaphore. (For the words of one s register.) -/
def Claims.UnmetWaitClauseHoldsTheWord : Prop :=
  ∀ (s : State) (t : Machine.Task) (i : Instr) (w : WaitClause) (d : SReg), i.scalarDest = some d →
    let x := t.strand s.cur.eng
    s.task s.cur.core = some t → s.heldBack t s.cur.eng = false → t.recalls = [] → x.squashed = false →
    s.cur.clauses.wait = some w → x.phase = .fresh →
    128 ≤ ((((t.semOf w.sem).val.toNat % 256 : Nat) : Int) - w.thr.toNat) % 256 →
    exec i s = .next (s.setTask s.cur.core (t.setStrand s.cur.eng { x with waiting := some (w.sem, w.thr) }))

/-- R32: a strand that waits on a semaphore evaluates its clause at every change of that semaphore: one that satisfies it moves
the floor and lets the word go on, whatever the semaphore becomes afterwards. -/
def Claims.SatisfactionIsSeen : Prop :=
  ∀ (t : Machine.Task) (e : Eng) (m thr : BitVec 8) (y : Sem), e ∈ strandsOf t.kernel →
    (t.strand e).waiting = some (m, thr) → (t.strand e).ended = false → (t.strand e).phase = .fresh →
    (∀ z, Eng.num z ≠ Eng.num e → (t.strand z).waiting = none) →
    let u := t.changeSem m y
    let met : Prop := (((y.val.toNat % 256 : Nat) : Int) - thr.toNat) % 256 < 128
    (met → u.strand e = { t.strand e with waiting := none, phase := .begun } ∧ u.semOf m = y.waited thr) ∧
    (¬met → u = t.setSem m y)

/-- R20, R21, R438: a strand that a fault, a stop or the slip window holds back issues nothing. (For the words of one s
register; in the slip window, for a word with no wait clause.) -/
def Claims.HeldStrandIssuesNothing : Prop :=
  ∀ (s : State) (t : Machine.Task) (i : Instr) (d : SReg), i.scalarDest = some d → s.task s.cur.core = some t →
    let x := t.strand s.cur.eng
    (x.ended = true ∨ (∃ f ∈ t.faults, f.strand = some s.cur.eng ∨ f.strand = none) ∨
      (∃ p, t.stopAt = some (x.epoch, p) ∧ p ≤ x.path) → exec i s = .next s) ∧
    (t.recalls = [] → s.cur.clauses.wait = none →
      (∃ y ∈ t.live, y.epoch = x.epoch ∧ y.path + t.win.toNat < x.path + 1) → exec i s = .next s)

/-- R28: a word of a LOOPM body is active in pass c exactly when 0 ≤ c − s < N for its stage s = floor(j·S/L); a word that is
not active is passed with no effect and neither clause. (The effect: for the words of one s register.) -/
def Claims.SquashedWords : Prop :=
  (∀ (x : Strand) (l : LoopEnt) (m : LoopM) (r : List LoopEnt) (j : Nat),
    x.loops = l :: r → l.lm = some m → l.depth = x.depth → j < m.len → l.start.toNat + 16 * m.len < 2 ^ 56 →
    x.pc = l.start + BitVec.ofNat 56 (16 * j) → l.last = l.start + BitVec.ofNat 56 (16 * (m.len - 1)) →
    (x.squashed = true ↔ ¬(j * m.stages / m.len ≤ m.pass ∧ m.pass < j * m.stages / m.len + m.trips))) ∧
  ∀ (s : State) (t : Machine.Task) (i : Instr) (d : SReg), i.scalarDest = some d → s.task s.cur.core = some t →
    t.recalls = [] → s.heldBack t s.cur.eng = false → t.slipOk (t.strand s.cur.eng) = true →
    t.ctlPending s.cur.eng (t.strand s.cur.eng) = false → (t.strand s.cur.eng).squashed = true →
    exec i s = .next (s.setTask s.cur.core (t.fall s.cur.eng))

/-- R199: the end test of LOOP: with more than one iteration remaining the strand goes to the start of the body; else the
entry is popped and the next one of the same depth that ends at this word is tested in the same passage. -/
def Claims.LoopEndTest : Prop :=
  ∀ (t : Machine.Task) (e : Eng) (l : LoopEnt) (r : List LoopEnt),
    let x := t.strand e
    let y := (t.fall e).strand e
    x.loops = l :: r → l.lm = none →
    (l.depth = x.depth → l.last = x.pc → 1 < l.remaining →
      y.pc = l.start ∧ y.loops = { l with remaining := l.remaining - 1 } :: r ∧ y.path = x.path + 1) ∧
    (l.depth = x.depth → l.last = x.pc → l.remaining ≤ 1 →
      y = ((t.setStrand e { x with loops := r }).fall e).strand e) ∧
    (l.depth ≠ x.depth ∨ l.last ≠ x.pc → y.pc = x.pc + 16 ∧ y.loops = x.loops ∧ y.path = x.path + 1)

/-- R28, R29: the end of a LOOPM pass, at the last word of its body: while passes are left the strand starts the next one at the
body's first word; after the last one the entry is popped and the next of the same depth is tested. At the end of every pass S sets
RRB to (RRB - vector step) mod 640 and PRB to (PRB - predicate step) mod 32; at the start of the next one V sets the guard predicate
all-true while the pass starts an iteration and all-false in the epilogue. Nothing else of the registers changes. -/
def Claims.LoopmPassEnd : Prop :=
  ∀ (t : Machine.Task) (e : Eng) (l : LoopEnt) (m : LoopM) (r : List LoopEnt),
    let x := t.strand e
    let u := t.fall e
    let more : Prop := m.pass + 1 < m.trips + m.stages - 1
    let next : LoopM := { m with pass := m.pass + 1 }
    x.loops = l :: r → l.lm = some m → l.depth = x.depth → l.last = x.pc → m.vstep ≤ 640 → m.pstep ≤ 32 →
    (more → (u.strand e).pc = l.start ∧ (u.strand e).loops = { l with lm := some next } :: r ∧
      (u.strand e).path = x.path + 1) ∧
    (¬more → u.strand e = ((t.setStrand e { x with loops := r }).fall e).strand e) ∧
    (e = .s → u.rrb.toNat < 640 ∧ (u.rrb.toNat + m.vstep) % 640 = t.rrb.toNat % 640 ∧
      (u.prb.toNat + m.pstep) % 32 = t.prb.toNat) ∧
    (e ≠ .s → u.rrb = t.rrb ∧ u.prb = t.prb) ∧
    (e = .v ∧ more ∧ m.guard ≠ 0 →
      (m.pass + 1 < m.trips → SMap.look 0 u.p m.guard = BitVec.allOnes 128) ∧
      (m.trips ≤ m.pass + 1 → SMap.look 0 u.p m.guard = 0) ∧
      ∀ n, n ≠ m.guard → SMap.look 0 u.p n = SMap.look 0 t.p n) ∧
    (¬(e = .v ∧ more ∧ m.guard ≠ 0) → u.p = t.p) ∧
    u.s = t.s ∧ u.k = t.k ∧ u.v = t.v

/-- R22, R197, R198, R199: each strand that obeys a branch goes to A + 16 × OFF when it is taken and falls through when it is
not; S decides BRC and BRP by their conditions and every other strand by the latch S left. A taken branch pops the loops of
the present depth whose bodies do not hold its target. -/
def Claims.BranchesMoveEveryStrand : Prop :=
  ∀ (s : State) (t : Machine.Task) (off : BitVec 32) (a b : SReg) (k : Cond) (p : PReg) (pk : PCond) (w32 : Bool),
    let e := s.cur.eng
    let x := t.strand e
    let dep := t.depositAt x
    let target := x.pc + off.signExtend 56 * 16
    let y : Strand := { x with
      pc := target, path := x.path + 1
      loops := x.loops.dropWhile fun l => l.depth == x.depth && !(l.start ≤ target && target ≤ l.last) }
    let goes (taken latch : Bool) : Outcome :=
      .next (if taken then (s.obeyed t latch 0).went x y else (s.obeyed t latch 0).fell x)
    let bit (i : Nat) : Bool := (t.pphys (physP t.prb p)).getLsbD i
    (s.ReadyX false t → exec (.br off) s = goes true true) ∧
    (s.ReadyX true t →
      (e = .s →
        exec (.brc ⟨a, b, k, off⟩) s = goes (condHolds k (sget t.s a) (sget t.s b)) (condHolds k (sget t.s a) (sget t.s b))) ∧
      (e = .s → t.kernel = false → before (t.strand .v).epoch (t.strand .v).path x.epoch x.path = false →
        let sees (q : Nat → Prop) : Prop := match pk with
          | .any => ∃ i < 128, (w32 = true → i % 2 = 0) ∧ q i
          | .all => ∀ i < 128, (w32 = true → i % 2 = 0) → q i
          | .none => ∀ i < 128, (w32 = true → i % 2 = 0) → ¬q i
        ∃ c : Bool, exec (.brp ⟨p, pk, w32, off⟩) s = goes c c ∧ (c = true ↔ sees fun i => bit i = true)) ∧
      (∀ d, e ≠ .s → dep = some d →
        exec (.brc ⟨a, b, k, off⟩) s = goes d.taken d.taken ∧
        exec (.brp ⟨p, pk, w32, off⟩) s = goes d.taken d.taken))

/-- R22, R195, R198, R199, R456: calls and returns. CALL and BRX with a link go one deeper and leave the loop stack, with
A + 16 in the link register, which S writes; beyond depth 65,535 they fault CALL_DEPTH. RET discards the entries of its depth
and goes to s62. The targets of RET and BRX reach the other strands by the latch; one off a multiple of 16 faults
PC_ALIGN. A fault leaves no latch behind. -/
def Claims.CallsAndReturns : Prop :=
  ∀ (s : State) (t : Machine.Task) (off : BitVec 32) (a link : SReg) (d : Deposit),
    let e := s.cur.eng
    let x := t.strand e
    let links (u : State) (r : SReg) : State :=
      if e = .s then u.modTask s.cur.core fun v => v.sset r ((x.pc + 16).setWidth 64) else u
    let pops (y : Strand) (target : Va) : Strand := { y with
      pc := target, path := y.path + 1
      loops := y.loops.dropWhile fun l => l.depth == y.depth && !(l.start ≤ target && target ≤ l.last) }
    let deeper (target : Va) : Strand := { x with pc := target, depth := x.depth + 1, path := x.path + 1 }
    let faults (c : Cause) : Outcome := .next (s.faulted t { cause := c })
    (s.ReadyX false t →
      let target := x.pc + off.signExtend 56 * 16
      exec (.call off) s = if x.depth = 65535 then faults .callDepth
        else .next ((links (s.obeyed t true 0) 62).went x (deeper target))) ∧
    (s.ReadyX true t → (e ≠ .s → t.depositAt x = some d) →
      let rt : Va := if e = .s then (sget t.s 62).setWidth 56 else d.target
      let bt : Va := if e = .s then (sget t.s a + off.signExtend 64 * 16).setWidth 56 else d.target
      let u (target : Va) : State := s.obeyed t true target
      let y : Strand := { x with loops := x.loops.filter fun l => l.depth != x.depth, depth := x.depth - 1 }
      (exec .ret s = if rt.toNat % 16 ≠ 0 then faults .pcAlign else .next ((u rt).went x (pops y rt))) ∧
      (exec (.brx ⟨a, off, link⟩) s =
        if bt.toNat % 16 ≠ 0 then faults .pcAlign
        else if link = 0 then .next ((u bt).went x (pops x bt))
        else if x.depth = 65535 then faults .callDepth
        else .next ((links (u bt) link).went x (deeper bt))))

/-- R28, R29, R199: LOOP and LOOPM. With a trip count of zero the strands continue after the body and keep their loops; otherwise an entry is
pushed, unless four are in use or the body reaches beyond the enclosing entry of the same depth, which faults LOOP_NEST. The
first pass of a LOOPM sets its guard predicate in the V strand. -/
def Claims.LoopsArePushed : Prop :=
  ∀ (s : State) (t : Machine.Task) (a : SReg) (len : BitVec 32) (o : LoopmOp) (d : Deposit),
    let e := s.cur.eng
    let x := t.strand e
    s.ReadyX true t → (e ≠ .s → t.depositAt x = some d) →
    let r := if e = .s then t.s else d.s
    let u := s.obeyed t true 0
    let last (l : Nat) : Va := x.pc + BitVec.ofNat 56 (16 * l)
    let skips (l : Nat) : Outcome := .next (u.went x { x with pc := last l + 16, path := x.path + 1 })
    let nests (l : Nat) : Prop := x.loops.length < 4 ∧
      ∀ k, x.loops.find? (fun k => k.depth == x.depth) = some k → last l ≤ k.last
    let enters (u : State) (l n : Nat) (m : Option LoopM) : Outcome := .next (u.went x { x with
      pc := x.pc + 16, path := x.path + 1, loops := ⟨x.pc + 16, last l, n, x.depth, m⟩ :: x.loops })
    let faults : Outcome := .next (s.faulted t { cause := .loopNest })
    let n := sget r a
    let n' := sget r o.cnt
    let m : LoopM := ⟨o.len.toNat, o.stg.toNat, n'.toNat, 0, o.vstep.toNat, o.pstep.toNat, o.gp.toNat⟩
    (n = 0 → exec (.loop ⟨a, len⟩) s = skips len.toNat) ∧
    (n ≠ 0 → ¬nests len.toNat → exec (.loop ⟨a, len⟩) s = faults) ∧
    (n ≠ 0 → nests len.toNat → exec (.loop ⟨a, len⟩) s = enters u len.toNat n.toNat none) ∧
    (n' = 0 → exec (.loopm o) s = skips o.len.toNat) ∧
    (n' ≠ 0 → ¬nests o.len.toNat → exec (.loopm o) s = faults) ∧
    (n' ≠ 0 → nests o.len.toNat → exec (.loopm o) s =
      enters (if e = .v then u.modTask s.cur.core fun v =>
          if o.gp = 0 then v else { v with p := SMap.put 0 v.p o.gp.toNat (BitVec.allOnes 128) }
        else u) o.len.toNat n'.toNat (some m))

/-- R25, R26, R200, R201: RDV and FORK are passed once all live strands have reached them; FORK goes to its target with an
empty loop stack, depth 0 and path count 0; WINSET writes WIN, clamped, as S obeys it; EXIT ends the strand, but for F with a recorded failure, which it takes (R320); SYNC.x has its
clauses alone. -/
def Obligations.ForkRendezvousExit : Prop :=
  ∀ (s : State) (t : Machine.Task) (off : BitVec 32) (a : SReg) (d : Deposit),
    let e := s.cur.eng
    let x := t.strand e
    let reached : Prop := ∀ y ∈ t.live, ¬(y.epoch < x.epoch ∨ (y.epoch = x.epoch ∧ y.path < x.path))
    (s.ReadyX false t →
      (reached →
        exec .rdv s = .next ((s.obeyed t true 0).fell x) ∧
        exec (.fork off) s = .next ((s.obeyed t true 0).went x { x with
          pc := x.pc + off.signExtend 56 * 16, loops := [], depth := 0, path := 0, epoch := x.epoch + 1 })) ∧
      (¬reached → ∃ u, exec .rdv s = .next u ∧ exec (.fork off) s = .next u ∧
        ∃ u', u.task s.cur.core = some u' ∧ (u'.strand e).pc = x.pc ∧ (u'.strand e).path = x.path) ∧
      (e ≠ .f ∨ t.defer = [] →
        exec .exit s = .next ((s.obeyed t true 0).went x { x with path := x.path + 1, ended := true })) ∧
      (e = .f → ∀ f v, (s.waited t).takeDeferred x.pc = some (f, v) →
        exec .exit s = .next (((s.begun t).setTask s.cur.core v).takeFault s.cur.core .f f))) ∧
    (s.Ready false t → exec .syncX s = .next ((s.obeyed t false 0).fell x)) ∧
    (s.ReadyX true t → (e ≠ .s → t.depositAt x = some d) →
      let v := sget (if e = .s then t.s else d.s) a + off.signExtend 64
      let u := s.obeyed t true 0
      exec (.winset ⟨a, off⟩) s = .next ((if e = .s then u.modTask s.cur.core fun w =>
        { w with win := BitVec.ofNat 13 (max 16 (min 4096 (v.toNat % 8192))) } else u).fell x))

/-- R30, R97: an X word other than SYNC in a LOOPM body faults ILLEGAL_OPCODE, once its strand has no parked word before it. -/
def Claims.ControlWordsInLoopmFault : Prop :=
  ∀ (s : State) (t : Machine.Task) (i : Instr), s.task s.cur.core = some t → s.heldBack t s.cur.eng = false →
    (t.strand s.cur.eng).inLoopm ≠ none →
    (i = .ret ∨ i = .rdv ∨ i = .exit ∨ i = .fret ∨ (∃ o, i = .br o ∨ i = .call o ∨ i = .fork o) ∨ (∃ o, i = .brc o) ∨
      (∃ o, i = .brp o) ∨ (∃ o, i = .brx o) ∨ (∃ o, i = .loop o) ∨ (∃ o, i = .loopm o) ∨ ∃ o, i = .winset o) →
    exec i s = .next (if t.parkedOwn s.cur.eng then s else s.takeFault s.cur.core s.cur.eng { cause := .illegalOpcode })

/-! ## Exceptions (22) -/

/-- R439, R443 to R447: entering the user handler. HANDLER is the first 8 bytes of the frame. The part writes to the frame the
entry's stamp as TOKEN, a copy of the record, the restart counters of S, V, M, A, F and J, a SKIP of 0, RRB, PRB, WIN, s1 to s7, s61
and s62, and writes the record itself. All strands go to HANDLER with empty loop stacks and path counts 0; BUSY is set; s1 holds the
frame address and s2 the cause code; RRB and PRB are 0; the control state is kept; every other s register stays. A frame that cannot
be accessed, or a HANDLER that is not a multiple of 16, leaves the handler unentered. What waits while the handler runs is the
model's reading (logs 25, 50). -/
def Claims.UserHandlerEntry : Prop :=
  ∀ (s : State) (c : Nat) (t : Machine.Task) (f : FaultInfo), t.kernel = false →
    let fr := bits t.ufentry 55 9 * 512
    let rec_ : RecordOut :=
      { ctx := t.ctx, die := dieOf c, info := f, cls := 0, esc := false, delivered := true
        image := BitVec.ofNat 32 t.image, mcore := BitVec.ofNat 8 c, asid := t.asid }
    let quads : List Word :=
      [(t.strand .s).pc.setWidth 64, (t.strand .v).pc.setWidth 64, (t.strand .m).pc.setWidth 64, (t.strand .a).pc.setWidth 64,
        (t.strand .f).pc.setWidth 64, (t.strand .j).pc.setWidth 64, 0, t.rrb.setWidth 64, t.prb.setWidth 64, t.win.setWidth 64,
        sget t.s 1, sget t.s 2, sget t.s 3, sget t.s 4, sget t.s 5, sget t.s 6, sget t.s 7, sget t.s 61, sget t.s 62]
    (∀ s1 h, s.readRun (t.who c) .rd fr 8 = (s1, .ok h) → leNat h % 16 = 0 → leNat h < 2 ^ 56 →
      let put := s1.writeRuns (t.who c)
        [(fr + 8, leBytes 8 (s1.now (dieOf c)).toNat), (fr + 64, leBytes 64 (s1.recordBits rec_).toNat),
          (fr + 128, quads.flatMap fun q => leBytes 8 q.toNat)]
      (∀ x, put.2 = some x → ∃ u, s.enterHandler c t f = .error u ∧ u = { s with mismatch := u.mismatch }) ∧
      (put.2 = none → ∃ t' k, s.enterHandler c t f = .ok ((put.1.writeRecord rec_).setTask c t') ∧
        t'.saved = some k ∧ t'.faults = [] ∧ t'.stopAt = none ∧
        (∀ e ∈ [Eng.s, .v, .m, .a, .f, .j], (t'.strand e).pc.toNat = leNat h ∧ (t'.strand e).path = 0 ∧
          (t'.strand e).loops = [] ∧ (t'.strand e).depth = 0) ∧
        t'.window = [] ∧ t'.rrb = 0 ∧ t'.prb = 0 ∧ t'.ufentry.getLsbD 62 = true ∧
        t'.ufentry.getLsbD 63 = t.ufentry.getLsbD 63 ∧
        sget t'.s 1 = BitVec.ofNat 64 fr ∧ sget t'.s 2 = BitVec.ofNat 64 f.cause.code ∧
        (∀ r, r ≠ 1 → r ≠ 2 → sget t'.s r = sget t.s r) ∧
        k.strands = t.strands ∧ k.window = t.window ∧ k.rrb = t.rrb ∧ k.prb = t.prb ∧
        k.frame.toNat = fr ∧ k.token = s1.now (dieOf c) ∧
        t'.v = t.v ∧ t'.k = t.k ∧ t'.p = t.p ∧ t'.q = t.q ∧ t'.sem = t.sem ∧ t'.fpctl = t.fpctl)) ∧
    (∀ s1 h, s.readRun (t.who c) .rd fr 8 = (s1, .ok h) → leNat h % 16 ≠ 0 →
      s.enterHandler c t f = .error { s with mismatch := s1.mismatch }) ∧
    (∀ s1 x, s.readRun (t.who c) .rd fr 8 = (s1, .error x) → s.enterHandler c t f = .error { s with mismatch := s1.mismatch })

/-- R443: where each field of a fault record lies. -/
def Claims.FaultRecords : Prop :=
  ∀ (s : State) (r : RecordOut),
    let x := s.recordBits r
    let f := r.info
    x.extractLsb' 0 8 = BitVec.ofNat 8 f.cause.code ∧ x.getLsbD 8 = true ∧ x.extractLsb' 9 7 = 0 ∧
    x.getLsbD 16 = r.delivered ∧ x.getLsbD 17 = r.esc ∧ x.extractLsb' 18 2 = r.cls ∧
    x.extractLsb' 20 4 = (match f.strand with
      | some e => BitVec.ofNat 4 (Eng.num e)
      | none => 15) ∧
    x.extractLsb' 24 8 = BitVec.ofNat 8 f.origin ∧ x.extractLsb' 32 10 = f.slot ∧ x.extractLsb' 42 6 = f.row ∧
    x.extractLsb' 48 16 = f.more ∧ x.extractLsb' 64 64 = f.info2 ∧ x.extractLsb' 128 8 = f.queue ∧
    x.extractLsb' 136 8 = r.mcore ∧ x.extractLsb' 144 2 = 0 ∧ x.extractLsb' 146 14 = f.label.getD (s.router r.die).lself ∧
    x.extractLsb' 160 16 = r.asid ∧ x.extractLsb' 176 4 = 0 ∧
    x.extractLsb' 180 12 = (match r.ctx with
      | some n => BitVec.ofNat 12 n
      | none => 0xfff) ∧
    x.extractLsb' 192 32 = f.handle ∧ x.extractLsb' 224 32 = r.image ∧ x.extractLsb' 256 8 = 0 ∧
    x.extractLsb' 264 56 = f.pc ∧ x.extractLsb' 320 64 = f.info ∧ x.extractLsb' 384 8 = 0 ∧
    x.extractLsb' 392 56 = f.addr ∧ x.extractLsb' 448 64 = s.now r.die

/-- R437, R444: a record claims the next entry of its ring. Where that entry's VALID is 0 it is written there; where it is 1 the
record is dropped and LOST gains 1. A record of class kernel goes to its context's ring, and sem0 of the kernel core of its die gains
1. (For rings in device memory, none of whose lines is lost or held dirty by a tile.) -/
def Claims.FaultRings : Prop :=
  (∀ (s : State) (ring log : Nat) (rec : BitVec 512), s.dirty = [] → s.lost = [] →
    let w := s.physNat ring 4
    let a := ring + 64 * (1 + w % (2 ^ log - 1))
    whereIs ring = .hbm → whereIs (ring + 8) = .hbm → whereIs a = .hbm →
    let u := s.ringWrite ring log rec
    u.physNat ring 4 = (w + 1) % 2 ^ 32 ∧
    (s.physNat (a + 1) 1 % 2 = 0 → u.physNat a 64 = rec.toNat ∧ u.physNat (ring + 8) 4 = s.physNat (ring + 8) 4) ∧
    (s.physNat (a + 1) 1 % 2 = 1 → u.physNat a 64 = s.physNat a 64 ∧
      u.physNat (ring + 8) 4 = (s.physNat (ring + 8) 4 + 1) % 2 ^ 32)) ∧
  ∀ (s : State) (r : RecordOut) (n : Nat), r.cls = 1 → r.ctx = some n →
    s.kernelRecord r = (s.ringWrite (s.ctx n).fring (s.ctx n).frlog (s.recordBits r)).kernelSignal r.die ∧
    ∀ t u, s.task (kernelCore r.die) = some t → (s.kernelSignal r.die).task (kernelCore r.die) = some u →
      (u.semOf 0).val = (t.semOf 0).val + 1

/-- R43, R437, R439, R447: FAULT_DELIVERY delivers the fault first raised of a task (ties in the order S, V, M, A, F, J): one of
class user to the handler when EN is 1 and BUSY 0, unless its frame cannot be used; any other in class kernel, once the accesses of
its team are performed: the record is written with ESC 1 for a cause of class user, with a second record UFRAME_FAULT where the
frame failed, the kernel core is signalled and the team saved. The task's other faults are written down as not delivered; their
words run again, and signals of theirs that overflowed are tried again. A cause whose restart point follows its word has that word
passed first. -/
def Claims.FaultsAreDelivered : Prop :=
  ∀ (s : State) (t : Machine.Task) (f : FaultInfo), s.records = [] → s.task s.input.unit = some t → t.kernel = false →
    f ∈ t.faults → t.faults.Nodup → (∀ g ∈ t.faults, g ≠ f → f.key < g.key) →
    let c := s.input.unit
    let rest := t.faults.erase f
    let told (v : Machine.Task) : State := rest.foldl (fun s g =>
      s.writeRecord (taskRecord c v g (if g.cause.isUser then 0 else 1) false false)) s
    let toUser : Prop := f.cause.isUser = true ∧ t.ufentry.getLsbD 63 = true ∧ t.ufentry.getLsbD 62 = false
    let u := t.atFault f []
    let h := t.atFault f [.resumed]
    (∀ x, toUser → (told h).enterHandler c h f = .ok x → exec .faultDelivery s = .next x) ∧
    (∀ x, toUser → (told h).enterHandler c h f = .error x → s.maySave c t = true →
      exec .faultDelivery s = .next (x.deliverKernel c u f true)) ∧
    (¬toUser → s.maySave c t = true → exec .faultDelivery s = .next ((told u).deliverKernel c u f false)) ∧
    (¬toUser → s.maySave c t = false → exec .faultDelivery s = .next s) ∧
    (∀ l, (∀ g ∈ rest, g.again = none) →
      (f.after = false → t.atFault f l = t) ∧
      (∀ e, f.after = true → f.strand = some e → f.parked = false → t.atFault f l = t.fall e)) ∧
    (∀ l g e, f.after = false → g ∈ rest → g.strand = some e → ∀ x ids, g.again = some (x, ids) →
      ⟨x, e, g.pc, l, ids⟩ ∈ (t.atFault f l).sigs) ∧
    ∀ (v : State) (w : Machine.Task) (frame : Bool),
      let base := v.setCore c { v.core c with task := some { w with faults := [] } }
      let one := base.kernelRecord (taskRecord c w f 1 f.cause.isUser true)
      let two := if frame then one.kernelRecord (taskRecord c w
        { cause := .uframeFault, strand := f.strand, pc := f.pc, addr := BitVec.ofNat 56 (bits w.ufentry 55 9 * 512) } 1 false true)
        else one
      v.deliverKernel c w f frame = two.stopGang c w f.cause ∧
      ∀ tm, f.cause ≠ .dieLinkLost → two.teamOf w = some tm → two.stopGang c w f.cause = two.saveGang tm (.fault f.cause)

/-- R202, R446, R447, R448: FRET with no user fault in progress faults NO_USER_FAULT; once all strands have reached it and the
handler's words have completed, it returns: the strands, with their loop stacks, positions and call depths, and the window buffer
saved at entry are restored; s1 to s7, s61, s62, RRB, PRB and WIN are what the frame holds; every other s register stays; BUSY is
clear; and the strands that SKIP names pass their restart words. A frame whose TOKEN, or whose SKIP, does not match faults
FRAME_INVALID, one that cannot be read UFRAME_FAULT. FRET's signal is applied as it returns. -/
def Obligations.FretReturns : Prop :=
  ∀ (s : State) (t : Machine.Task),
    let c := s.cur.core
    let e := s.cur.eng
    let w := s.waited t
    s.ReadyX false t →
    (t.saved = none → exec .fret s = .next (s.faulted t { cause := .noUserFault })) ∧
    (∀ k, t.saved = some k → w.allReached (t.strand e) = false ∨ (s.begun t).handlerDone c w k = false →
      exec .fret s = .next (s.waiting t)) ∧
    (∀ k, t.saved = some k → w.allReached (t.strand e) = true → (s.begun t).handlerDone c w k = true →
      let first := (s.begun t).readRun (t.who c) .rd (k.frame.toNat + 8) 8
      (∀ cause i va, first.2 = .error (.fault cause i va) → exec .fret s = .next (first.1.takeFault c e
        { cause := .uframeFault, addr := BitVec.ofNat 56 va })) ∧
      (∀ tok, first.2 = .ok tok →
        let second := first.1.readRun (t.who c) .rd (k.frame.toNat + 176) 104
        (∀ cause i va, second.2 = .error (.fault cause i va) → exec .fret s = .next (second.1.takeFault c e
          { cause := .uframeFault, addr := BitVec.ofNat 56 va })) ∧
        (∀ b, second.2 = .ok b →
          let q (i : Nat) : Nat := leNat ((b.drop (8 * i)).take 8)
          let skip := [Eng.s, .v, .m, .a, .f, .j].filter fun e => (q 0).testBit (Eng.num e)
          let bad : Prop := leNat tok ≠ k.token.toNat ∨ 64 ≤ q 0 ∨ ∃ y ∈ skip, second.1.skipOk c w k y = false
          (bad → exec .fret s = .next (second.1.takeFault c e { cause := .frameInvalid })) ∧
          (¬bad → t.defer = [] → ∃ v : Machine.Task,
            (let u := second.1.setTask c (skip.foldl (fun v y => v.skipRestart k y) v)
             exec .fret s = .next (match s.cur.clauses.sig with
              | some g => u.ownSignal c e (t.strand e).pc g []
              | none => u)) ∧
            v.strands = k.strands ∧
            v.window = k.window.map (fun d => { d with fpctl := t.fpctl, ctl := d.ctl.filter fun x => x.csr == .mstat }) ∧
            (∀ r i, (r, i) ∈ [((1 : SReg), 4), (2, 5), (3, 6), (4, 7), (5, 8), (6, 9), (7, 10), (61, 11), (62, 12)] →
              sget v.s r = BitVec.ofNat 64 (q i)) ∧
            (∀ r, r ∉ [(1 : SReg), 2, 3, 4, 5, 6, 7, 61, 62] → sget v.s r = sget t.s r) ∧
            v.rrb.toNat = q 1 % 1024 % 640 ∧ v.prb.toNat = q 2 % 32 ∧ v.win.toNat = max 16 (min 4096 (q 3 % 8192)) ∧
            v.saved = none ∧ v.ufentry.getLsbD 62 = false ∧ v.ufentry.getLsbD 63 = t.ufentry.getLsbD 63 ∧
            v.v = t.v ∧ v.k = t.k ∧ v.p = t.p ∧ v.q = t.q ∧ v.fpctl = t.fpctl))))

/-! ## The vector words (09) -/

/-- R228, R241, R242: the integer words, lane by lane, signed or natural by their type. -/
def Obligations.VectorIntegerLanes : Prop :=
  ∀ (s : State) (t : Machine.Task) (d : VDst) (a b : VSrc) (pr : VPred) (ty : ETy) (va vb : Vec),
    s.Ready true t → s.cur.eng = .v → ty.isInt = true →
    let env := s.env t
    t.source env.rrb a = some va → t.source env.rrb b = some vb → t.hasRoom d 1 = true →
    let w := ty.width
    let nat (v : Vec) (i : Nat) : Nat := laneAt w v i
    let neg : Bool := [ETy.i8, .i16, .i32].contains ty
    let val (v : Vec) (i : Nat) : Int := if neg then Int.bmod (nat v i) (2 ^ w) else nat v i
    let wrap (x : Int) : Nat := (x % (2 ^ w : Nat)).toNat
    let lo : Int := if neg then -(2 ^ (w - 1) : Nat) else 0
    let hi : Int := if neg then (2 ^ (w - 1) : Nat) - 1 else (2 ^ w : Nat) - 1
    let two (i : Instr) (f : Nat → Nat) : Prop :=
      ∃ x, exec i s = .next (s.vDone t [a, b] [(d, x)]) ∧ t.laneResult env w d pr x f
    let one (i : Instr) (f : Nat → Nat) : Prop :=
      ∃ x, exec i s = .next (s.vDone t [a] [(d, x)]) ∧ t.laneResult env w d pr x f
    two (.vadd ⟨d, a, b, pr, ty⟩) (fun i => wrap (val va i + val vb i)) ∧
    two (.vsub ⟨d, a, b, pr, ty⟩) (fun i => wrap (val va i - val vb i)) ∧
    two (.vadds ⟨d, a, b, pr, ty⟩) (fun i => wrap (max lo (min hi (val va i + val vb i)))) ∧
    two (.vsubs ⟨d, a, b, pr, ty⟩) (fun i => wrap (max lo (min hi (val va i - val vb i)))) ∧
    two (.vmul ⟨d, a, b, pr, ty⟩) (fun i => nat va i * nat vb i) ∧
    two (.vmulh ⟨d, a, b, pr, ty⟩) (fun i => wrap (val va i * val vb i / (2 ^ w : Nat))) ∧
    two (.vmin ⟨d, a, b, pr, ty⟩) (fun i => wrap (min (val va i) (val vb i))) ∧
    two (.vmax ⟨d, a, b, pr, ty⟩) (fun i => wrap (max (val va i) (val vb i))) ∧
    two (.vand ⟨d, a, b, pr, ty⟩) (fun i => nat va i &&& nat vb i) ∧
    two (.vor ⟨d, a, b, pr, ty⟩) (fun i => nat va i ||| nat vb i) ∧
    two (.vxor ⟨d, a, b, pr, ty⟩) (fun i => nat va i ^^^ nat vb i) ∧
    two (.vshl ⟨d, a, b, pr, ty⟩) (fun i => nat va i * 2 ^ (nat vb i % w)) ∧
    two (.vshr ⟨d, a, b, pr, ty⟩) (fun i => nat va i / 2 ^ (nat vb i % w)) ∧
    two (.vsra ⟨d, a, b, pr, ty⟩) (fun i => wrap (Int.bmod (nat va i) (2 ^ w) / (2 ^ (nat vb i % w) : Nat))) ∧
    (∀ imm, one (.vshlImm ⟨d, a, pr, ty, imm⟩) (fun i => nat va i * 2 ^ (imm.toNat % w)) ∧
      one (.vshrImm ⟨d, a, pr, ty, imm⟩) (fun i => nat va i / 2 ^ (imm.toNat % w)) ∧
      one (.vsraImm ⟨d, a, pr, ty, imm⟩)
        (fun i => wrap (Int.bmod (nat va i) (2 ^ w) / (2 ^ (imm.toNat % w) : Nat)))) ∧
    one (.vabs ⟨d, a, pr, ty⟩) (fun i => (val va i).natAbs) ∧
    one (.vpopc ⟨d, a, pr, ty⟩) (fun i => (List.range w).countP fun k => (nat va i).testBit k) ∧
    (∃ z : Nat → Nat, one (.vclz ⟨d, a, pr, ty⟩) z ∧
      ∀ i, z i ≤ w ∧ (∀ k < z i, (nat va i).testBit (w - 1 - k) = false) ∧
        (z i < w → (nat va i).testBit (w - 1 - z i) = true))

/-- R46, R228, R234, R239, R248 to R256: moves, selects, permutes and the sign-bit words, lane by lane; they raise no
flag. -/
def Claims.VectorMoves : Prop :=
  ∀ (s : State) (t : Machine.Task) (d : VDst) (a b c : VSrc) (pr : VPred) (ty : ETy) (va vb vc : Vec),
    s.Ready true t → s.cur.eng = .v → ty ≠ .e2m1 →
    let env := s.env t
    t.source env.rrb a = some va → t.source env.rrb b = some vb → t.source env.rrb c = some vc →
    t.hasRoom d 1 = true →
    let w := ty.width
    let n := 2048 / w
    let x (i : Nat) : Nat := laneAt w va i
    let y (i : Nat) : Nat := laneAt w vb i
    let active (p : PReg) (i : Nat) : Bool := laneActive w (t.pread env.prb p) i
    let below (p : PReg) (i : Nat) : Nat := (List.range i).countP fun k => active p k
    let top : Nat := 2 ^ (w - 1)
    let under (q : VPred) (srcs : List VSrc) (i : Instr) (f : Nat → Nat) : Prop :=
      ∃ v, exec i s = .next (s.vDone t srcs [(d, v)]) ∧ t.laneResult env w d q v f
    under pr [a] (.vmov ⟨d, a, pr, ty⟩) x ∧
    (∀ imm, under ⟨pr.p, false⟩ [] (.vmovi ⟨d, ty, pr.p, imm⟩) fun _ => imm.toNat) ∧
    under ⟨0, false⟩ [a, b] (.vsel ⟨d, a, b, pr.p, ty⟩) (fun i => if active pr.p i then x i else y i) ∧
    (w ≠ 8 → under pr [a, b, c] (.vperm ⟨d, a, b, c, pr, ty⟩) fun i =>
      if y i < n then x (y i) else if y i < 2 * n then laneAt w vc (y i - n) else 0) ∧
    (w = 8 → under pr [a, b] (.vperm ⟨d, a, b, c, pr, ty⟩) fun i => x (y i)) ∧
    under pr [a, b] (.vshuf ⟨d, a, b, pr, ty, .zlo⟩) (fun i => if i % 2 = 0 then x (i / 2) else y (i / 2)) ∧
    under pr [a, b] (.vshuf ⟨d, a, b, pr, ty, .zhi⟩)
      (fun i => if i % 2 = 0 then x (n / 2 + i / 2) else y (n / 2 + i / 2)) ∧
    under pr [a, b] (.vshuf ⟨d, a, b, pr, ty, .even⟩) (fun i => if i < n / 2 then x (2 * i) else y (2 * i - n)) ∧
    under pr [a, b] (.vshuf ⟨d, a, b, pr, ty, .odd⟩) (fun i => if i < n / 2 then x (2 * i + 1) else y (2 * i + 1 - n)) ∧
    under pr [a] (.vshuf ⟨d, a, b, pr, ty, .pswap⟩) (fun i => if i % 2 = 0 then x (i + 1) else x (i - 1)) ∧
    under pr [a] (.vshuf ⟨d, a, b, pr, ty, .rev⟩) (fun i => x (n - 1 - i)) ∧
    (∀ imm, under pr [a] (.vrot ⟨d, a, pr, ty, imm⟩) (fun i => x ((i + imm.toNat) % n)) ∧
      under pr [a, b] (.vslide ⟨d, a, b, pr, ty, imm⟩)
        (fun i => if i + imm.toNat < n then x (i + imm.toNat) else y (i + imm.toNat - n)) ∧
      under pr [a] (.vbcast ⟨d, a, pr, ty, imm⟩) (fun _ => x imm.toNat) ∧
      under pr [] (.viota ⟨d, pr, ty, imm⟩) (fun i => ((imm.toInt + i) % (2 ^ w : Nat)).toNat) ∧
      under pr [] (.viotaCnt ⟨d, pr, ty, imm⟩) (fun i => ((imm.toInt + below pr.p i) % (2 ^ w : Nat)).toNat)) ∧
    (∀ r, under pr [] (.vbcastScalar ⟨d, r, pr, ty⟩) fun _ => (sget env.s r).toNat) ∧
    under pr [a] (.vexpnd ⟨d, a, pr, ty⟩) (fun i => x (below pr.p i)) ∧
    (∃ v, exec (.vcompr ⟨d, a, pr.p, ty⟩) s = .next (s.vDone t [a] [(d, v)]) ∧
      (∀ i < n, active pr.p i = true → laneAt w v (below pr.p i) = x i) ∧
      ∀ k < n, below pr.p n ≤ k → laneAt w v k = 0) ∧
    under pr [a] (.vfabs ⟨d, a, pr, ty⟩) (fun i => x i % top) ∧
    under pr [a] (.vfneg ⟨d, a, pr, ty⟩) (fun i => x i ^^^ top) ∧
    under pr [a, b] (.vfcpsgn ⟨d, a, b, pr, ty⟩) (fun i => x i % top + y i / top * top) ∧
    (fpTy ty = true → under pr [a] (.vfclass ⟨d, a, pr, ty⟩) (fun i => 2 ^ classBit ty (x i)))

/-- R253, R254, R259: VSETL writes one lane; VTPOSE transposes a block held in a run of registers, reading every source before
it writes; SYNC.v has its clauses alone. -/
def Claims.VectorBlockMoves : Prop :=
  ∀ (s : State) (t : Machine.Task) (d a : BitVec 10) (r : SReg) (ty : ETy) (lane : BitVec 24),
    s.Ready true t → s.cur.eng = .v → ty ≠ .e2m1 → lane.toNat < 2048 / ty.width →
    let env := s.env t
    let w := ty.width
    let rho := 32 / w
    (∃ v, exec (.vsetl ⟨d, r, ty, lane⟩) s = .next (s.vDone t [] [(.reg d, v)]) ∧
      ∀ i < 2048 / w, laneAt w v i =
        if i = lane.toNat then (sget env.s r).toNat % 2 ^ w else laneAt w (t.vread env.rrb d) i) ∧
    (∃ vs : List Vec, vs.length = 64 / rho ∧
      exec (.vtpose ⟨d, a, ty⟩) s =
        .next (s.vDone t [] ((List.range (64 / rho)).map fun k => (.reg (d + BitVec.ofNat 10 k), vs.getD k 0))) ∧
      ∀ row < 64, ∀ col < 64, laneAt w (vs.getD (row / rho) 0) (row % rho * 64 + col) =
        laneAt w (t.vread env.rrb (a + BitVec.ofNat 10 (col / rho))) (col % rho * 64 + row)) ∧
    exec .syncV s = .next ((s.begun t).passed (t.strand .v).pc [])

/-- R56, R57, R228, R232, R234 to R237, R240, R247: the floating words form each active lane from its operands by one exact
operation and one rounding in the word's mode, with the flags and traps of R57. (The operations and the rounding are the
functions of Machine/Numbers.lean and Machine/Transcend.lean.) -/
def Obligations.VectorFloatLanes : Prop :=
  ∀ (s : State) (t : Machine.Task) (d : VDst) (a b c : VSrc) (pr : VPred) (ty : ETy) (rm : Rnd) (sat : Bool)
    (va vb vc : Vec),
    s.Ready true t → s.cur.eng = .v →
    let env := s.env t
    t.source env.rrb a = some va → t.source env.rrb b = some vb → t.source env.rrb c = some vc →
    t.hasRoom d 1 = true →
    let w := ty.width
    let r := roundAt rm env.fpctl t.vst
    let z := env.fpctl.getLsbD 3
    let x (i : Nat) : FVal := unpack ty z (laneAt w va i)
    let y (i : Nat) : FVal := unpack ty z (laneAt w vb i)
    let u (i : Nat) : FVal := unpack ty z (laneAt w vc i)
    let one (i : Instr) (f : Nat → Res) : Prop :=
      exec i s = s.floatEnds t [a] ty d pr r fun k => (f k).arith ty (r.mode k) sat z
    let two (i : Instr) (f : Nat → Res) : Prop :=
      exec i s = s.floatEnds t [a, b] ty d pr r fun k => (f k).arith ty (r.mode k) sat z
    let three (i : Instr) (f : Nat → Res) : Prop :=
      exec i s = s.floatEnds t [a, b, c] ty d pr r fun k => (f k).arith ty (r.mode k) sat z
    let rne := roundAt .rne env.fpctl t.vst
    let tr (i : VTr → Instr) (f : FVal → TRes) : Prop := ∀ q,
      exec (i ⟨d, a, pr, ty, q⟩) s = s.floatEnds t [a] ty d pr rne fun k => (f (x k)).to ty z
    two (.vfadd ⟨d, a, b, pr, ty, rm, sat⟩) (fun k => addVal r.down (x k) (y k)) ∧
    two (.vfsub ⟨d, a, b, pr, ty, rm, sat⟩) (fun k => addVal r.down (x k) (y k).neg) ∧
    two (.vfmul ⟨d, a, b, pr, ty, rm, sat⟩) (fun k => mulVal (x k) (y k)) ∧
    two (.vfmulz ⟨d, a, b, pr, ty, rm, sat⟩) (fun k => mulzVal (x k) (y k)) ∧
    three (.vfma ⟨d, a, b, c, pr, ty, rm, sat⟩) (fun k => fmaVal r.down (mulVal (x k) (y k)) (u k)) ∧
    three (.vfmaz ⟨d, a, b, c, pr, ty, rm, sat⟩) (fun k => fmaVal r.down (mulzVal (x k) (y k)) (u k)) ∧
    three (.vfms ⟨d, a, b, c, pr, ty, rm, sat⟩) (fun k => fmaVal r.down (mulVal (x k) (y k)) (u k).neg) ∧
    three (.vfnma ⟨d, a, b, c, pr, ty, rm, sat⟩) (fun k => fmaVal r.down (mulVal (x k).neg (y k)) (u k)) ∧
    two (.vfdiv ⟨d, a, b, pr, ty, rm, sat⟩) (fun k => divVal (x k) (y k)) ∧
    one (.vfsqrt ⟨d, a, pr, ty, rm, sat⟩) (fun k => sqrtVal (x k)) ∧
    two (.vscl ⟨d, a, b, pr, ty, rm, sat⟩) (fun k => sclVal (x k) (Int.bmod (laneAt w vb k) (2 ^ w))) ∧
    (∀ imm, one (.vsclImm ⟨d, a, pr, ty, rm, sat, imm⟩) fun k => sclVal (x k) imm.toInt) ∧
    exec (.vfmin ⟨d, a, b, pr, ty⟩) s = s.floatEnds t [a, b] ty d pr rne (fun k =>
      (if (x k).isNaN || (y k).isNaN then nanRes [x k, y k]
       else ⟨if rankLt (x k) (y k) then x k else y k, 0⟩ : Res).arith ty .rne false false) ∧
    exec (.vfmax ⟨d, a, b, pr, ty⟩) s = s.floatEnds t [a, b] ty d pr rne (fun k =>
      (if (x k).isNaN || (y k).isNaN then nanRes [x k, y k]
       else ⟨if rankLt (x k) (y k) then y k else x k, 0⟩ : Res).arith ty .rne false false) ∧
    exec (.vfrnd ⟨d, a, pr, ty, rm⟩) s = s.floatEnds t [a] ty d pr r (fun k => roundIntegral ty (r.mode k) (x k)) ∧
    tr .vfrcp rcpT ∧ tr .vfrsq rsqT ∧ tr .vfexp2 exp2T ∧ tr .vflog2 log2T ∧
    tr .vfsin (fun v => (sincosT v).1) ∧ tr .vfcos (fun v => (sincosT v).2) ∧ tr .vftanh tanhT

/-- R229, R238, R243, R259: the words that write a predicate: the predicate words on all 128 bits, and the comparisons, whose
lane results are written at the lane's width, the bits of inactive lanes kept under merging and cleared under zeroing. -/
def Claims.PredicateWords : Prop :=
  ∀ (s : State) (t : Machine.Task) (d pa pb : PReg) (a b : VSrc) (pr : VPred) (ty : ETy) (va vb : Vec),
    s.Ready true t → s.cur.eng = .v →
    let env := s.env t
    t.source env.rrb a = some va → t.source env.rrb b = some vb →
    let w := ty.width
    let p := t.pread env.prb pa
    let q := t.pread env.prb pb
    let gives (srcs : List VSrc) (v : BitVec 128) : Outcome :=
      .next (s.after t fun u => (u.popQueues (popsOf srcs)).pwrite env.prb d v)
    let lane (i : Nat) : Nat := if w = 32 then i / 2 else if w = 16 then i else 2 * i
    let merged (r : Nat → Bool) (v : BitVec 128) : Prop := ∀ i < 128, v.getLsbD i =
      if laneActive w (t.pread env.prb pr.p) (lane i) then
        (if w = 8 then r (2 * i) && r (2 * i + 1) else r (lane i))
      else !pr.z && (t.pread env.prb d).getLsbD i
    let val (v : Vec) (i : Nat) : Int :=
      if [ETy.i8, .i16, .i32].contains ty then Int.bmod (laneAt w v i) (2 ^ w) else laneAt w v i
    exec (.pand ⟨d, pa, pb⟩) s = gives [] (p &&& q) ∧ exec (.por ⟨d, pa, pb⟩) s = gives [] (p ||| q) ∧
    exec (.pxor ⟨d, pa, pb⟩) s = gives [] (p ^^^ q) ∧ exec (.pnot ⟨d, pa⟩) s = gives [] (~~~p) ∧
    exec (.pmov ⟨d, pa⟩) s = gives [] p ∧
    (∀ n, ∃ v₁ v₂ v₃ v₄, exec (.pset ⟨d, ty, .none, n⟩) s = gives [] v₁ ∧ exec (.pset ⟨d, ty, .all, n⟩) s = gives [] v₂ ∧
      exec (.pset ⟨d, ty, .first, n⟩) s = gives [] v₃ ∧ exec (.pset ⟨d, ty, .from, n⟩) s = gives [] v₄ ∧
      ∀ i < 128, v₁.getLsbD i = false ∧ v₂.getLsbD i = true ∧ v₃.getLsbD i = decide (lane i < n.toNat) ∧
        v₄.getLsbD i = decide (n.toNat ≤ lane i)) ∧
    (w = 8 ∨ w = 16 ∨ w = 32 → ∃ v, exec (.pfirst ⟨d, pa, ty⟩) s = gives [] v ∧
      ∀ i < 128, v.getLsbD i = (laneActive w p (lane i) && decide (∀ k < lane i, laneActive w p k = false))) ∧
    (ty.isInt = true → ∀ k : ICmp, ∃ v, exec (.vcmp ⟨d, a, b, pr, ty, k⟩) s = gives [a, b] v ∧ merged (fun i =>
      match k with
      | .eq => val va i = val vb i | .ne => val va i ≠ val vb i | .lt => val va i < val vb i
      | .le => val va i ≤ val vb i | .gt => val va i > val vb i | .ge => val va i ≥ val vb i) v) ∧
    (fpTy ty = true → ∀ k : FCmp,
      let z := env.fpctl.getLsbD 3
      let r (i : Nat) : Bool × FFlags := fcmpHolds k (unpack ty z (laneAt w va i)) (unpack ty z (laneAt w vb i))
      let fl : FFlags := ((List.range ty.lanes).filter (laneActive w (t.pread env.prb pr.p))).foldl
        (fun f i => f ||| (r i).2) 0
      ∃ v, merged (fun i => (r i).1) v ∧ exec (.vfcmp ⟨d, a, b, pr, ty, k⟩) s =
        match trapCause (fl &&& trapEnables env.fpctl) with
        | some x => .next (((s.begun t).modTask s.cur.core fun u => { u with fpstat := u.fpstat ||| fl.setWidth 64 }).takeFault
            s.cur.core s.cur.eng { cause := x, info := fl.setWidth 64 })
        | none => .next (s.after t fun u =>
            ({ u with fpstat := u.fpstat ||| fl.setWidth 64 }.popQueues (popsOf [a, b])).pwrite env.prb d v))

/-- R74, R257, R258: the reductions put their result in lane 0 and zero in every other; integer forms wrap; a NaN gives the
default NaN; the floating sums follow the adjacent-pair tree; the floating extremes are the largest or smallest active value (of the
magnitudes, for VRAMAX), +0 above -0, and with no active lane -inf, +inf or +0. VSCAN writes the inclusive sums: an integer one
wraps, a floating one adds one rounded term after another, -0 for an inactive lane. Stated with every trap enable 0. -/
def Claims.Reductions : Prop :=
  ∀ (s : State) (t : Machine.Task) (d : VDst) (a : VSrc) (p : PReg) (z : Bool) (ty : ETy) (rm : Rnd) (va : Vec),
    s.Ready true t → s.cur.eng = .v →
    let env := s.env t
    t.source env.rrb a = some va → t.hasRoom d 1 = true → trapEnables env.fpctl = 0 →
    let w := ty.width
    let n := 2048 / w
    let ftz := env.fpctl.getLsbD 3
    let r := roundAt rm env.fpctl 0
    let act (i : Nat) : Bool := laneActive w (t.pread env.prb p) i
    let lanes := (List.range n).filter act
    let val (i : Nat) : Int := intVal ty (laneAt w va i)
    let x (i : Nat) : FVal := unpack ty ftz (laneAt w va i)
    let term (i : Nat) : FVal := unpack ty ftz (if act i then laneAt w va i else topBit ty)
    let best (f : Nat → FVal) (start : FVal) (pick : FVal → FVal → FVal) : Nat :=
      if lanes.any (fun i => (x i).isNaN) then defaultNaN ty
      else ((⟨(lanes.map f).foldl pick start, 0⟩ : Res).arith ty .rne false false).1
    let alone (i : Instr) (dw x : Nat) : Prop := ∃ v fl,
      exec i s = .next (s.after t fun u =>
        ({ u with fpstat := u.fpstat ||| fl }.popQueues (popsOf [a])).put env.rrb d v) ∧
      (∀ k < 2048 / dw, laneAt dw v k = if k = 0 then x % 2 ^ dw else 0) ∧ (ty.isInt = true → fl = 0)
    (ty.isInt = true →
      alone (.vrsum ⟨d, a, p, ty, rm⟩) w (((lanes.map val).sum % (2 ^ w : Nat)).toNat) ∧
      alone (.vrmax ⟨d, a, p, ty, rm⟩) w (wrapInt w ((lanes.map val).foldl max (intLo ty))) ∧
      alone (.vrmin ⟨d, a, p, ty, rm⟩) w (wrapInt w ((lanes.map val).foldl min (intHi ty))) ∧
      alone (.vramax ⟨d, a, p, ty, rm⟩) w ((lanes.map fun i => (val i).natAbs).foldl max 0) ∧
      (∃ v, exec (.vscan ⟨d, a, ⟨p, z⟩, ty, rm⟩) s = .next (s.vDone t [a] [(d, v)]) ∧
        t.laneResult env w d ⟨p, z⟩ v fun i =>
          ((((List.range (i + 1)).filter act).map val).sum % (2 ^ w : Nat)).toNat)) ∧
    (fpTy ty = true →
      alone (.vrsum ⟨d, a, p, ty, rm⟩) w
        (treeSum ty r.plain r.down ftz ((List.range n).map fun i => if act i then laneAt w va i else topBit ty)).1 ∧
      alone (.vrmax ⟨d, a, p, ty, rm⟩) w (best x (.inf true) fun b y => if rankLt b y then y else b) ∧
      alone (.vrmin ⟨d, a, p, ty, rm⟩) w (best x (.inf false) fun b y => if rankLt b y then b else y) ∧
      alone (.vramax ⟨d, a, p, ty, rm⟩) w
        (best (fun i => (x i).abs) (.fin ⟨false, 0, 0, false⟩) fun b y => if rankLt b y then y else b) ∧
      (∃ (out : Nat → Nat) (v : Vec) (fl : Word),
        out 0 = ((if (term 0).isNaN then nanRes [term 0] else ⟨term 0, 0⟩ : Res).arith ty r.plain false ftz).1 ∧
        (∀ i, i + 1 < n → out (i + 1) =
          ((addVal r.down (unpack ty ftz (out i)) (term (i + 1))).arith ty r.plain false ftz).1) ∧
        exec (.vscan ⟨d, a, ⟨p, z⟩, ty, rm⟩) s = .next (s.after t fun u =>
          ({ u with fpstat := u.fpstat ||| fl }.popQueues (popsOf [a])).put env.rrb d v) ∧
        t.laneResult env w d ⟨p, z⟩ v out)) ∧
    (ty = .f16 ∨ ty = .bf16 → alone (.vrsumw ⟨d, a, p, ty, rm⟩) 32
      (treeSum .f32 r.plain r.down ftz ((List.range n).map fun i =>
        if act i then (convert .f32 ty .rne false ftz (laneAt w va i)).1 else topBit .f32)).1)

/-- R50, R228, R244 to R246: VCVT, VPACK, VUNPK and VQNT put each converted element in its place: segment g of the narrower side, the
two halves, or the block of 32 with its scale byte; lanes outside the segment of a register keep their values, and are zero in a
store queue (for VQNT to a queue the zeros are the model's choice, log 77). VQNT with one physical register for both destinations
faults RESERVED_FIELD. (The conversion of one element and the scaling of one block are the functions of Machine/Numbers.lean and
Machine/VConv.lean.) Stated with every trap enable 0. -/
def Obligations.VectorConversions : Prop :=
  ∀ (s : State) (t : Machine.Task) (d : VDst) (a b : VSrc) (pr : VPred) (dst src : ETy) (rm : Rnd) (sat : Bool)
    (g : BitVec 3) (va vb : Vec),
    s.Ready true t → s.cur.eng = .v →
    let env := s.env t
    t.source env.rrb a = some va → t.source env.rrb b = some vb → t.hasRoom d 1 = true → trapEnables env.fpctl = 0 →
    let wd := dst.width
    let ws := src.width
    let n := 2048 / ws
    let z := env.fpctl.getLsbD 3
    let r := roundAt rm env.fpctl t.vst
    let act (w i : Nat) : Bool := laneActive w (t.pread env.prb pr.p) i
    let oldIn (d : VDst) (i : Nat) : Nat :=
      match d with
      | .reg k => laneAt wd (t.vread env.rrb k) i
      | .push _ => 0
    let idle (d : VDst) (i : Nat) : Nat := if pr.z then 0 else oldIn d i
    let second : VDst :=
      match d with
      | .reg k => .reg (k + 1)
      | .push q => .push q
    let cv (k v : Nat) : Nat := (convert dst src (r.mode k) sat z v).1 % 2 ^ wd
    let ends (i : Instr) (srcs : List VSrc) (out : List (VDst × Vec)) : Prop := ∃ fl,
      exec i s = .next (s.after t fun u =>
        let u := out.foldl (fun u x => u.put env.rrb x.1 x.2)
          ({ u with fpstat := u.fpstat ||| fl }.popQueues (popsOf srcs))
        if r.code = 4 then u.setVst r.lfsr else u)
    (wd < ws → g.toNat < ws / wd → ∃ v, ends (.vcvt ⟨d, a, pr, dst, src, rm, sat, g⟩) [a] [(d, v)] ∧
      ∀ k < 2048 / wd,
        let i := k - g.toNat * n
        laneAt wd v k =
          if g.toNat * n ≤ k ∧ i < n then (if act ws i then cv k (laneAt ws va i) else idle d k) else oldIn d k) ∧
    (ws ≤ wd → g.toNat < wd / ws → ∃ v, ends (.vcvt ⟨d, a, pr, dst, src, rm, sat, g⟩) [a] [(d, v)] ∧
      ∀ i < 2048 / wd, laneAt wd v i =
        if act wd i then cv i (laneAt ws va (g.toNat * (2048 / wd) + i)) else idle d i) ∧
    (ws = 2 * wd → ∃ v, ends (.vpack ⟨d, a, b, pr, dst, src, rm, sat⟩) [a, b] [(d, v)] ∧
      ∀ k < 2048 / wd, laneAt wd v k =
        if act ws (k % n) then cv k (laneAt ws (if k < n then va else vb) (k % n)) else idle d k) ∧
    (wd = 2 * ws → t.hasRoom d 2 = true →
      ∃ v v', ends (.vunpk ⟨d, a, pr, dst, src, rm, sat⟩) [a] [(d, v), (second, v')] ∧
      ∀ i < 2048 / wd,
        laneAt wd v i = (if act wd i then cv i (laneAt ws va i) else idle d i) ∧
        laneAt wd v' i =
          (if act wd i then cv (2048 / wd + i) (laneAt ws va (2048 / wd + i)) else idle second i)) ∧
    (∀ q, fpTy src = true → (dst = .e2m1 ∨ dst = .e4m3 ∨ dst = .e5m2) → g.toNat < ws / wd →
      (∀ k, d = .reg k → physV env.rrb k = physV env.rrb q →
        exec (.vqnt ⟨d, a, q, dst, src, rm, g⟩) s = .next (s.faulted t { cause := .reservedField })) ∧
      ((∀ k, d = .reg k → physV env.rrb k ≠ physV env.rrb q) →
        ∃ v v', ends (.vqnt ⟨d, a, q, dst, src, rm, g⟩) [a] [(d, v), (.reg q, v')] ∧
          (∀ k < 2048 / wd, ¬(g.toNat * n ≤ k ∧ k < (g.toNat + 1) * n) → laneAt wd v k = oldIn d k) ∧
          (∀ k < 256, ¬(g.toNat * (n / 32) ≤ k ∧ k < (g.toNat + 1) * (n / 32)) →
            laneAt 8 v' k = laneAt 8 (t.vread env.rrb q) k) ∧
          ∀ j < n / 32,
            let block := quantBlock dst r ((List.range 32).map fun k => unpack src false (laneAt ws va (32 * j + k)))
              (g.toNat * n + 32 * j)
            laneAt 8 v' (g.toNat * (n / 32) + j) = block.1 % 256 ∧
            ∀ k < 32, laneAt wd v (g.toNat * n + 32 * j + k) = (block.2.getD k (0, 0)).1 % 2 ^ wd))

/-- R230: a V word waits while a queue it reads is empty or a store queue it writes has no free entry: it pops nothing and
writes nothing. (Stated for words of two sources and one destination.) -/
def Claims.VectorWordsWaitForQueues : Prop :=
  ∀ (s : State) (t : Machine.Task) (o : VX2) (f : VF2) (i : Instr), s.Ready true t → s.cur.eng = .v →
    ((i = .vadd o ∨ i = .vsub o ∨ i = .vmin o ∨ i = .vxor o) ∧
      (t.source (s.env t).rrb o.a = none ∨ t.source (s.env t).rrb o.b = none ∨ t.hasRoom o.d 1 = false) ∨
     (i = .vfadd f ∨ i = .vfmul f) ∧
      (t.source (s.env t).rrb f.a = none ∨ t.source (s.env t).rrb f.b = none ∨ t.hasRoom f.d 1 = false)) →
    exec i s = .next (s.waiting t)

/-- The frame of the V words: of the core's task only vector registers, predicates, queues, FPSTAT and LSEED change, and what
sequencing changes; no s or k register, no byte of memory and no other core (the record of the order of accesses can change,
log 7). -/
def Claims.VectorFrame : Prop :=
  ∀ (s u : State) (i : Instr), (∃ op body, i.fields = some (.v, op, body)) → exec i s = .next u →
    u = { s with cores := u.cores, records := u.records, order := u.order } ∧ (∀ c, c ≠ s.cur.core → u.core c = s.core c) ∧
    (u.core s.cur.core).tiles = (s.core s.cur.core).tiles ∧
    ∀ t t', s.task s.cur.core = some t → u.task s.cur.core = some t' →
      ({ t with v := t'.v, p := t'.p, q := t'.q, fpstat := t'.fpstat, lseed := t'.lseed } : Machine.Task).Seq
        t' s.cur.eng s.cur.clauses

/-! ## Reset, steps and encodings (07, 08, 25) -/

/-- R399, R413, R469, R481, R485: the module after power-on: die 0 in ROM, no task on any core, every queue disabled with
its control registers at their reset values, every port down, every sensor at its limits. The values of R481 and of the
tables' Reset columns are the spec's; the limits of the sensors are the model's reading (log 47). -/
def Obligations.ResetLeavesSpecValues : Prop :=
  let s := State.reset
  s.boot = .rom ∧ (∀ c, s.task c = none) ∧
  (∀ q, let x := s.queue q
    x.qcfg = 0 ∧ x.qring = 0 ∧ bits x.qtime 63 48 = 50 ∧ bits x.qtime 47 24 = 2000 ∧ bits x.qtime 23 0 = 1000 ∧
      x.wptr = 0 ∧ x.rptr = 0 ∧ x.errIdx = 0 ∧ x.cause = 0 ∧ x.level = 0 ∧ x.halted = false) ∧
  (∀ d n, let p : Port := SMap.look {} (s.router d).ports n
    p.dis = false ∧ p.retrain = false ∧ p.downs = 0 ∧ p.far = 0 ∧ p.cause = 0 ∧ p.st = 0) ∧
  ∀ n, let x : Sensor := SMap.look {} s.sensors n
    x.trip = 0x06e0 ∧ x.throt = 0x05f0 ∧ x.passed = false ∧ x.value = 0

/-- The memory after reset is in canonical form, no cell of it is listed, and every byte of device memory reads as the value
that log entry 3 chose (R481 says that device memory is lost at a reset, and no rule says what it then reads as). -/
def Obligations.ResetIsSound : Prop :=
  State.reset.memSound ∧ State.reset.mem = [] ∧ ∀ pa, State.reset.homeByte pa = 0

/-- R20, R24, R176, R382: a step whose turn is a strand's fetches the word at its program counter. The strand runs the
instruction that a word of its own tag, or of X, decodes to, takes the fault of one that decodes to none, and passes a word
of another strand's tag. Time passes first, the same on both dies but for what a correction adds (R488, log 46); a fault of the word
waits for a parked word of its strand (R97). Whose turn it is comes from State.turns or a free value (log 2). -/
def Obligations.StepRunsDecoded : Prop :=
  ∀ (s s1 : State) (c : Nat) (e : Eng) (r : List Turn) (t0 t : Machine.Task) (w : IWord),
    s.turns = .strand c e :: r →
    let s0 : State := { { s with ctr := s.ctr + 1 }.passTime (Config.elapsed s.ctr) with turns := r }
    s.task c = some t0 → (s0.meetSafePoint c e t0).task c = some t →
    ((s0.meetSafePoint c e t0).core c).halted = false → (strandsOf t.kernel).contains e = true →
    (s0.meetSafePoint c e t0).heldBack t e = false →
    (s0.meetSafePoint c e t0).fetch c t (t.strand e).pc = (s1, .ok w) →
    let tag := (w.extractLsb' 125 3).toNat
    let mine : Prop := tag = Eng.num e ∨ tag = 7 ∨ (e = .s ∧ (tag = 6 ∨ t.kernel = true))
    (¬mine → step s = .next (s1.skipWord c e w)) ∧
    (mine → ∀ cl i, decode t.kernel w = .ok (cl, i) → (t.kernel = true → tag = 0 ∨ 6 ≤ tag) →
      step s = exec i { s1 with cur := ⟨c, e, cl, 0⟩ }) ∧
    (mine → ∀ k, decode t.kernel w = .error k → (t.kernel = true → tag = 0 ∨ 6 ≤ tag) →
      step s = .next (s1.wordFaults c e t { cause := k })) ∧
    (mine → t.kernel = true → 1 ≤ tag → tag ≤ 5 → step s = .next (s1.wordFaults c e t { cause := .illegalOpcode }))

/-- R162 to R175: words that the spec writes out, of nine families, decode to the instructions it gives beside them, and those
instructions encode to the words. -/
def Obligations.SpecWordsDecode : Prop :=
  let reads (w : Nat) (cl : Clauses) (i : Instr) : Prop :=
    decode false (BitVec.ofNat 128 w) = .ok (cl, i) ∧ encode cl i = some (BitVec.ofNat 128 w)
  let plain : Clauses := ⟨none, none⟩
  reads 0x0308386000014600000000000000106a ⟨some ⟨7, 12⟩, none⟩ (.ld ⟨5, 6, 16, .b8, .acq, .die⟩) ∧
  reads 0xe02000000001400000000000ffffffff plain (.brc ⟨5, 0, .eq, 0xffffffff⟩) ∧
  reads 0x21000004240208010080000000000000 ⟨none, some ⟨9, 0, .done⟩⟩
    (.vfadd ⟨.reg 130, .reg 1, .reg 2, ⟨0, false⟩, .f32, .rne, false⟩) ∧
  reads 0x4060000000080a300310884304000000 plain
    (.mma ⟨1, ⟨5, 3, none, false, false⟩, ⟨6, 4, some 0, true, false⟩, .bf16, .bf16, 3⟩) ∧
  reads 0x61300000000000042516820100000100 plain (.gatherPaged ⟨2, 4, 1, 10, 11, .bf16, 256⟩) ∧
  reads 0x80200000000000c61490000072000010 plain (.rst ⟨3, 6, 5, 9, 16, .b8, .rel, .die, false⟩) ∧
  reads 0xa0100000000204000000000000000080 plain (.jcopy ⟨8, 4, 0x80⟩) ∧
  reads 0x070000000000c7000000000000000000 plain (.kset ⟨3, 7, 0⟩) ∧
  reads 0xe0d00000000000000000000000000000 plain .fret ∧
  decode true 0x0c500000000105000000000000000000 = .ok (plain, .killtask ⟨4, 5⟩) ∧
  decode false 0x0c500000000105000000000000000000 = .error .privilegedWord

/-- R161 to R176: decoding inverts encoding, and only words that encoding gives decode: a word decodes, at kernel level, to an
instruction and clauses exactly when that instruction is well formed and encodes, with those clauses, to that word. -/
def Obligations.DecodeInvertsEncode : Prop :=
  ∀ (cl : Clauses) (i : Instr) (w : IWord), decode true w = .ok (cl, i) ↔ (i.wf = true ∧ encode cl i = some w)

/-- R176: the checks of a word in their order: RESERVED_ENGINE, ILLEGAL_OPCODE, PRIVILEGED (for the S opcodes 0x0c0 to 0x0c5
at user level), RESERVED_SPECIFIER, RESERVED_FIELD; the first that fails is the word's cause, and each of the five fails for
some word at user level. Which of the last two causes a few fields give is the model's reading (logs 60, 78). -/
def Obligations.DecodeChecksInOrder : Prop :=
  (∀ k ∈ [Cause.reservedEngine, .illegalOpcode, .privilegedWord, .reservedSpecifier, .reservedField],
    ∃ w, decode false w = .error k) ∧
  ∀ (priv : Bool) (w : IWord),
    let op := (w.extractLsb' 116 9).toNat
    let reserved (e : Eng) : Prop := 0xc0 ≤ op ∧ op ≤ 0xc5 ∧ e = .s ∧ priv = false
    (w.extractLsb' 125 3 = 6 → decode priv w = .error .reservedEngine) ∧
    (∀ e, Eng.ofCode (w.extractLsb' 125 3) = some e →
      decode priv w ≠ .error .reservedEngine ∧
      (opDefined e op = false → decode priv w = .error .illegalOpcode) ∧
      (opDefined e op = true → reserved e → decode priv w = .error .privilegedWord) ∧
      (opDefined e op = true → ¬reserved e →
        (specBad e op (w.extractLsb' 0 84) = true → decode priv w = .error .reservedSpecifier) ∧
        (specBad e op (w.extractLsb' 0 84) = false → decode priv w = decode true w ∧
          (decode priv w = .error .reservedField ∨ ∃ cl i, decode priv w = .ok (cl, i) ∧
            i.fields.map (fun f => (f.1, f.2.1.toNat)) = some (e, op))) ∧
        (w.getLsbD 98 = true → w.extractLsb' 84 2 = 3 → specBad e op (w.extractLsb' 0 84) = false →
          decode priv w = .error .reservedField)))

/-- Every step keeps the memory of the module in its one canonical form, addresses strictly rising and no byte listed that
an unlisted one equals, whatever strand, engine, Pilot or link takes the step. -/
def Obligations.StepKeepsMemory : Prop :=
  ∀ s u : State, s.memSound → step s = .next u → u.memSound

/-! ## The array (10) -/

/-- R260 to R262, R283, R284: the M words that need no lease. LEASE completes at once for the holder, and otherwise waits
with its request posted once; LREL gives the lease or the request up; both, and MSTAT.clr, wait for the parked words before
them; MSTAT.clr clears the bits its mask names; MBURST opens and closes the core's declaration. -/
def Claims.LeaseAndBursts : Prop :=
  ∀ (s : State) (t : Machine.Task) (o : MstatOp), s.cur.eng = .m →
    let c := s.cur.core
    let cl := s.cluster c
    let ends (u : State) : Outcome := .next (u.passed (t.strand .m).pc [])
    let only (u : State) : Prop := u = { s.begun t with clusters := u.clusters } ∧
      (∀ k, k ≠ clusterOf c → SMap.look {} u.clusters k = (SMap.look {} s.clusters k : Cluster)) ∧
      (u.cluster c).sets = cl.sets ∧ (u.cluster c).level = cl.level
    (s.Ready true t →
      (t.anyParked .m = true → exec (.mstat o) s = .next (s.waiting t)) ∧
      (t.anyParked .m = false → ∃ m : BitVec 6, exec (.mstat o) s = .next (s.after t fun u => { u with sticky := m }) ∧
        ∀ i < 6, m.getLsbD i = (t.sticky.getLsbD i && !o.mask.getLsbD i))) ∧
    (s.Ready false t →
      exec .syncM s = ends (s.begun t) ∧
      (t.anyParked .m = true → exec .lease s = .next (s.waiting t) ∧ exec .lrel s = .next (s.waiting t)) ∧
      (t.anyParked .m = false →
        (cl.holder = some c → exec .lease s = ends (s.begun t)) ∧
        (cl.holder ≠ some c → c ∈ cl.reqs → exec .lease s = .next (s.waiting t)) ∧
        (cl.holder ≠ some c → c ∉ cl.reqs → exec .lease s =
          .next (((s.begun t).setCluster c { cl with reqs := cl.reqs ++ [c] }).stay c .m)) ∧
        (∃ u, exec .lrel s = ends u ∧ only u ∧ (u.cluster c).holder ≠ some c ∧ c ∉ (u.cluster c).reqs ∧
          (cl.holder ≠ some c → (u.cluster c).holder = cl.holder) ∧
          ∀ d, d ≠ c → (d ∈ (u.cluster c).reqs ↔ d ∈ cl.reqs))) ∧
      (∃ u, exec .mburstStart s = ends u ∧ only u ∧ (u.cluster c).falling = false ∧ (u.cluster c).soon = false ∧
        (∀ b, b ∈ (u.cluster c).bursts ↔ b = (c, s.now (dieOf c)) ∨ (b ∈ cl.bursts ∧ b.1 ≠ c))) ∧
      (∃ u, exec .mburstEnd s = ends u ∧ only u ∧ (∀ b, b ∈ (u.cluster c).bursts ↔ b ∈ cl.bursts ∧ b.1 ≠ c) ∧
        ((∀ b ∈ cl.bursts, b.1 = c) → if (s.begun t).workPending cl then (u.cluster c).soon = true
          else (u.cluster c).falling = true) ∧
        ((∃ b ∈ cl.bursts, b.1 ≠ c) → (u.cluster c).soon = false ∧ (u.cluster c).falling = cl.falling)))

/-- R264, R265: placing a set in a physical set. One that is resident or empty keeps its cells, a spilled one is reloaded
from its owner's save area, and its triple state is kept. When two other tenancies stand there, that of the one least
recently named goes to its owner's save area and counts in SPILLS. -/
def Claims.SetsArePlaced : Prop :=
  ∀ (s : State) (c : Nat) (i : BitVec 1) (t : Machine.Task), s.task c = some t →
    let p := s.placeSet c i
    let cl := s.cluster c
    ∃ t', p.task c = some t' ∧ (t'.acc i).st = .resident ∧ (t'.acc i).tri = (t.acc i).tri ∧
      (p.cluster c).sets.getLast? = some (c, i.toNat) ∧
      ((t.acc i).st ≠ .spilled → ∀ row col, p.cellAt c i row col = s.cellAt c i row col) ∧
      ((t.acc i).st = .spilled → ((c, i.toNat) ∈ cl.sets ∨ cl.sets.length < 2) → ∀ n, t.ctx = some n →
        ∀ row < 256, ∀ col < 256, p.cellAt c i row col =
          BitVec.ofNat 32 (s.physNat (s.setAddr n t.image i.toNat + 4 * (256 * row + col)) 4)) ∧
      ∀ d j x n, (c, i.toNat) ∉ cl.sets → 2 ≤ cl.sets.length → cl.sets.head? = some (d, j) → j < 2 →
        s.task d = some x → x.ctx = some n →
        (p.cluster c).sets = cl.sets.drop 1 ++ [(c, i.toNat)] ∧
        ∃ x', p.task d = some x' ∧ (x'.acc (BitVec.ofNat 1 j)).st = .spilled ∧
          (x'.acc (BitVec.ofNat 1 j)).tri = (x.acc (BitVec.ofNat 1 j)).tri ∧
          x'.spills.toNat = min 65535 (x.spills.toNat + 1) ∧
          ((x.acc (BitVec.ofNat 1 j)).tri = none →
            p.mem = (s.homeStore (s.setAddr n x.image j) (x.acc (BitVec.ofNat 1 j)).bytes).mem)

/-- R263, R270: an array word reached while its core neither holds the lease nor has a request posted faults
LEASE_NOT_HELD, before any other check of its operands but those of its encoding and ranks; one whose core has a request
posted waits. -/
def Claims.ArrayWordsNeedTheLease : Prop :=
  ∀ (s : State) (t : Machine.Task) (i : Instr), s.ReadyTiles i t → s.cur.eng = .m → (accOf i).isSome = true →
    (match i with
      | .accld o => t.peerBad o.t.peer = false
      | .attq o => t.peerBad o.t.peer = false
      | .mma o | .attkv o => t.peerBad o.ta.peer = false ∧ t.peerBad o.tb.peer = false
      | .attmrg o => t.peerBad o.ta.peer = false ∧ t.peerBad o.tb.peer = false
      | _ => True) →
    let cl := s.cluster s.cur.core
    cl.holder ≠ some s.cur.core →
    (s.cur.core ∉ cl.reqs → exec i s = .next (s.faulted t { cause := .leaseNotHeld })) ∧
    (s.cur.core ∈ cl.reqs → exec i s = .next (s.waiting t))

/-- R72, R264, R265, R271, R272: ACCZ empties its set; ACCLD, its tiles resident, gives rows 0 to rows − 1 the elements of its
slab, converted exactly, a NaN as the f32 default NaN, and zero bits where they are outside, keeps the other rows of the set as
placed, and leaves the triple state. -/
def Claims.AccumulatorLoads : Prop :=
  ∀ (s : State) (t : Machine.Task),
    let c := s.cur.core
    (∀ o, s.ReadyArray (.accz o) t →
      ∃ u u', exec (.accz o) s = .next u ∧ u.task c = some u' ∧ u'.acc o.acc = {} ∧
        (∀ row col, u.cellAt c o.acc row col = 0) ∧ (c, o.acc.toNat) ∉ (u.cluster c).sets) ∧
    ∀ (s1 : State) (o : AccldOp) (b : Binding) (l : List TileUse) (v : SlabView), s.ReadyArray (.accld o) t →
      t.peerBad o.t.peer = false → t.binding o.t.slot = some b → b.d.ty = o.src →
      let slab := mSlab o.t (s.env t) (rowsOf o.kb) 256
      (s.begun t).nameRead c (s.waited t) (mCore o.t c t) b slab o.t.lu o.t.mc = (s1, .ok l) → s.TilesThere s1 t l →
      s1.viewOf (s.waited t) (mCore o.t c t) slab l = some v →
      let p := (s1.noteWork c).placeSet c o.acc
      ∃ u u', exec (.accld o) s = .next u ∧ u.task c = some u' ∧ (u'.acc o.acc).st = .resident ∧
        (u'.acc o.acc).tri = none ∧ ∀ row < 256, ∀ col < 256, u.cellAt c o.acc row col =
          if row < rowsOf o.kb then
            match v.get row col with
            | some x =>
              if o.src = ETy.i32 then x.1
              else if o.src = ETy.f32 then
                (if (unpack .f32 false x.1.toNat).isNaN then BitVec.ofNat 32 (defaultNaN .f32) else x.1)
              else BitVec.ofNat 32 (convert ETy.f32 o.src .rne false false x.1.toNat).1
            | none => 0
          else p.cellAt c o.acc row col

/-- R72, R73, R274, R275: MMA, its tiles resident, adds to each cell of the set as placed the products of row i of A with row j of B, block by
block: in i32 their sum wraps modulo 2^32, in f32 each block of products is one step of R72. An element that is outside
makes no product, and every other cell state is kept. -/
def Obligations.MatrixMultiply : Prop :=
  ∀ (s s1 s2 : State) (t : Machine.Task) (o : MmaOp) (ba bb : Binding) (la lb : List TileUse) (va vb : SlabView),
    let c := s.cur.core
    s.ReadyArray (.mma o) t → t.peerBad o.ta.peer = false → t.peerBad o.tb.peer = false →
    t.binding o.ta.slot = some ba → t.binding o.tb.slot = some bb → ba.d.ty = o.aty → bb.d.ty = o.bty →
    let kb : Nat := if o.aty.width = 16 then 32 else if o.aty.width = 8 then 64 else 128
    let n := (o.kb.toNat + 1) * kb
    let sa := mSlab o.ta (s.env t) 256 n
    let sb := mSlab o.tb (s.env t) 256 n
    (s.begun t).nameRead c (s.waited t) (mCore o.ta c t) ba sa o.ta.lu o.ta.mc = (s1, .ok la) →
    s1.nameRead c (s.waited t) (mCore o.tb c t) bb sb o.tb.lu o.tb.mc = (s2, .ok lb) →
    s.TilesThere s2 t (la ++ lb) →
    s2.viewOf (s.waited t) (mCore o.ta c t) sa (la ++ lb) = some va →
    s2.viewOf (s.waited t) (mCore o.tb c t) sb (la ++ lb) = some vb →
    let p := (s2.noteWork c).placeSet c o.acc
    ∃ u u', exec (.mma o) s = .next u ∧ u.task c = some u' ∧ (u'.acc o.acc).st = .resident ∧ (u'.acc o.acc).tri = none ∧
      ∀ i < 256, ∀ j < 256,
        let old := p.cellAt c o.acc i j
        let both (k : Nat) : Option ((BitVec 32 × BitVec 8) × (BitVec 32 × BitVec 8)) :=
          match va.get i k, vb.get j k with
          | some x, some y => some (x, y)
          | _, _ => none
        u.cellAt c o.acc i j =
          if o.aty = .i8 then
            old + BitVec.ofInt 32 (((List.range n).filterMap both).map fun x =>
              ((x.1.1.setWidth 8).toInt * (x.2.1.setWidth 8).toInt)).sum
          else BitVec.ofNat 32 ((List.range (o.kb.toNat + 1)).foldl (fun a b =>
            blockStep a (((List.range kb).filterMap fun k => both (b * kb + k)).map fun x =>
              (mulVal (scaled o.aty x.1) (scaled o.bty x.2)).val)) old.toNat)

/-- R273, R281: ACCST and ATTST, their tiles resident and their stores possible, complete: the stored tiles hold what the
store left, ACCST with FIN empties the set and without it keeps every cell of the set as placed, as ATTST does with the
triple (of an empty set ATTST leaves none, log 76). -/
def Claims.AccumulatorStores : Prop :=
  ∀ (s s1 s2 : State) (t : Machine.Task),
    let c := s.cur.core
    let t1 := s.waited t
    let same (u v : State) : Prop := ∀ n i, u.tileElem c n i = v.tileElem c n i
    (∀ (o : AccstOp) (b : Binding) (l : List TileUse), s.ReadyArray (.accst o) t → t.binding o.slot = some b →
      b.d.ty = o.dst → (s.begun t).nameWrite c t1 b (accstSlab o (s.env t)) = (s1, .ok l) → s.TilesThere s1 t l →
      let r := (s1.noteWork c).placeSet c o.acc
      let x := drainAll t1 (s.env t) o.rm o.sat o.dst o.cell (r.accNow c o.acc).array (rowsOf o.kb)
        (s1.insideOf c t1 b.d (accstSlab o (s.env t)) l)
      r.writeTiles c t1 b l (slabElem b.d (accstSlab o (s.env t)) x.out) = .done s2 →
      ∃ u u', exec (.accst o) s = .next u ∧ u.task c = some u' ∧ same u s2 ∧
        (o.fin = true → u'.acc o.acc = {}) ∧
        (o.fin = false → (u'.acc o.acc).tri = (t.acc o.acc).tri ∧
          ∀ row < 256, ∀ col < 256, u.cellAt c o.acc row col = r.cellAt c o.acc row col)) ∧
    (∀ (o : AttstOp) (a b : Binding) (l : List TileUse), s.ReadyArray (.attst o) t → (t.acc o.acc).plain = false →
      t.binding o.oslot = some a → t.binding o.mslot = some b → a.d.ty = o.oty → b.d.ty = ETy.f32 →
      (bothUses (s.begun t) (fun s => s.nameWrite c t1 a (attstO o (s.env t)))
        fun s => s.nameWrite c t1 b (attstM o (s.env t))) = (s1, .uses l) → s.TilesThere s1 t l →
      let r := (s1.noteWork c).placeSet c o.acc
      let tri := (r.accNow c o.acc).tri.getD ⟨[], [], 0, none⟩
      let x := drainAll t1 (s.env t) o.rm o.sat o.oty ETy.f32 (r.accNow c o.acc).array (rowsOf o.kb)
        (s1.insideOf c t1 a.d (attstO o (s.env t)) l)
      r.writeBoth c t1 a b (l.filter ((attstO o (s.env t)).has a.d)) (l.filter ((attstM o (s.env t)).has b.d))
        (slabElem a.d (attstO o (s.env t)) x.out)
        (slabElem b.d (attstM o (s.env t)) fun row col => if col = 0 then tri.mOf row else tri.lOf row) = .done s2 →
      ∃ u u', exec (.attst o) s = .next u ∧ u.task c = some u' ∧ same u s2 ∧
        (u'.acc o.acc).tri = (t.acc o.acc).tri ∧ ∀ row col, u.cellAt c o.acc row col = r.cellAt c o.acc row col)

/-- R276 to R280, R282: the attention words, their tiles resident. ATTQ opens a triple with m = −inf, l = +0, O = +0 and the
query's values; ATTKV and ATTMRG change its active rows alone, each by the row step of R75 or R76; ATTFIN divides O by l in
the active rows that met a key, writes +0 elsewhere, and closes the triple. What MSTAT records is the model's reading (log
17). -/
def Obligations.AttentionWords : Prop :=
  ∀ (s s1 s2 : State) (t : Machine.Task),
    let c := s.cur.core
    let t1 := s.waited t
    let e := s.env t
    (∀ (o : AttqOp) (b : Binding) (l : List TileUse), s.ReadyArray (.attq o) t → t.peerBad o.t.peer = false →
      t.binding o.t.slot = some b → b.d.ty = o.qty → bits (kget e.k o.kc) 95 64 ≤ 2 →
      (bits (kget e.k o.kc) 95 64 = 2 → bits (kget e.k o.kc) 111 96 ≠ 0) →
      (s.begun t).nameRead c t1 (mCore o.t c t) b (attqSlab o e b) o.t.lu o.t.mc = (s1, .ok l) → s.TilesThere s1 t l →
      ∃ u u' tri q, exec (.attq o) s = .next u ∧ u.task c = some u' ∧ (u'.acc o.acc).tri = some tri ∧ tri.qb = some q ∧
        (∀ r < 256, tri.mOf r = 0xff800000 ∧ tri.lOf r = 0 ∧ ∀ col < 256, u.cellAt c o.acc r col = 0) ∧
        q.ty = o.qty ∧ (q.d : Int) = max 0 (min 256 (((b.d.extents 0).getD 0 0 : Int) - coord (kget e.k o.t.k) 0 * b.d.shape.2)) ∧
        tri.active = q.nq ∧ q.scale = (kget e.k o.kc).extractLsb' 0 32 ∧ q.qpos0 = (kget e.k o.kc).extractLsb' 32 32 ∧
        q.mode = bits (kget e.k o.kc) 95 64 ∧ q.window = bits (kget e.k o.kc) 111 96 ∧
        q.group = max 1 (bits (kget e.k o.kc) 127 112)) ∧
    (∀ (o : MmaOp) (a b : Binding) (l : List TileUse) (tri : Triple) (q : QueryBuf), s.ReadyArray (.attkv o) t →
      t.peerBad o.ta.peer = false → t.peerBad o.tb.peer = false → (t.acc o.acc).tri = some tri → tri.qb = some q →
      t.binding o.ta.slot = some a → t.binding o.tb.slot = some b → a.d.ty = o.aty → b.d.ty = o.bty →
      kvBad q o.aty a b (kget e.k o.ta.k) (kget e.k o.tb.k) = false →
      bothUses (s.begun t) (fun s => s.nameRead c t1 (mCore o.ta c t) a (kvSlab o.ta o.kb e a) o.ta.lu o.ta.mc)
        (fun s => s.nameRead c t1 (mCore o.tb c t) b (kvSlab o.tb o.kb e b) o.tb.lu o.tb.mc) = (s1, .uses l) →
      s.TilesThere s1 t l →
      let p := (s1.noteWork c).placeSet c o.acc
      let k := s1.view t1 (mCore o.ta c t) a.d (kvSlab o.ta o.kb e a) l
      let v := s1.view t1 (mCore o.tb c t) b.d (kvSlab o.tb o.kb e b) l
      ∃ u u' tri', exec (.attkv o) s = .next u ∧ u.task c = some u' ∧ (u'.acc o.acc).tri = some tri' ∧
        tri'.qb = some q ∧ tri'.active = tri.active ∧
        (∀ r < 256, tri.active ≤ r → tri'.mOf r = tri.mOf r ∧ tri'.lOf r = tri.lOf r ∧
          ∀ col < 256, u.cellAt c o.acc r col = p.cellAt c o.acc r col) ∧
        (∀ r < 256, r < tri.active →
          let x := attendAll q o.aty o.bty k v (o.kb.toNat + 1) r
            ⟨tri.mOf r, tri.lOf r, (List.range 256).map fun col => (p.cellAt c o.acc r col).toNat, 0⟩
          tri'.mOf r = x.m % 2 ^ 32 ∧ tri'.lOf r = x.l % 2 ^ 32 ∧
            ∀ col < 256, (u.cellAt c o.acc r col).toNat = x.o.getD col 0 % 2 ^ 32)) ∧
    (∀ (o : AccOp) (tri : Triple), s.ReadyArray (.attfin o) t → (t.acc o.acc).tri = some tri →
      let p := ((s.begun t).noteWork c).placeSet c o.acc
      ∃ u u', exec (.attfin o) s = .next u ∧ u.task c = some u' ∧ (u'.acc o.acc).tri = none ∧
        ∀ r < 256, ∀ col < 256, (u.cellAt c o.acc r col).toNat =
          if r < tri.active ∧ ¬(tri.mOf r = 0xff800000 ∧ tri.lOf r = 0) then
            divF32 (p.cellAt c o.acc r col).toNat (tri.lOf r) % 2 ^ 32 else 0) ∧
    (∀ o : AccOp, s.ReadyArray (.attfin o) t → (t.acc o.acc).tri = none →
      ((t.acc o.acc).st = .empty → ∃ u u', exec (.attfin o) s = .next u ∧ u.task c = some u' ∧
        (u'.acc o.acc).st = .resident ∧ (u'.acc o.acc).tri = none ∧
        ∀ row col, u.cellAt c o.acc row col = s.cellAt c o.acc row col) ∧
      ((t.acc o.acc).st ≠ .empty → exec (.attfin o) s = .next (s.faulted t { cause := .attState }))) ∧
    (∀ (o : AttmrgOp) (a b : Binding) (la lb : List TileUse) (va vb : SlabView),
      s.ReadyArray (.attmrg o) t → t.peerBad o.ta.peer = false → t.peerBad o.tb.peer = false →
      (t.acc o.acc).plain = false → t.binding o.ta.slot = some a → t.binding o.tb.slot = some b → a.d.ty = o.oty →
      b.d.ty = ETy.f32 →
      (s.begun t).nameRead c t1 (mCore o.ta c t) a (mSlab o.ta e (rowsOf o.kb) 256) o.ta.lu o.ta.mc = (s1, .ok la) →
      s1.nameRead c t1 (mCore o.tb c t) b (mSlab o.tb e (rowsOf o.kb) 2) o.tb.lu o.tb.mc = (s2, .ok lb) →
      s.TilesThere s2 t (la ++ lb) →
      s2.viewOf t1 (mCore o.ta c t) (mSlab o.ta e (rowsOf o.kb) 256) (la ++ lb) = some va →
      s2.viewOf t1 (mCore o.tb c t) (mSlab o.tb e (rowsOf o.kb) 2) (la ++ lb) = some vb →
      let p := (s2.noteWork c).placeSet c o.acc
      let tri := (t.acc o.acc).tri.getD ⟨[], [], 0, none⟩
      let last := if tri.qb.isSome then min (rowsOf o.kb) tri.active else rowsOf o.kb
      ∃ u u' tri', exec (.attmrg o) s = .next u ∧ u.task c = some u' ∧ (u'.acc o.acc).tri = some tri' ∧
        tri'.qb = tri.qb ∧ tri'.active = (if tri.qb.isSome then tri.active else max tri.active (rowsOf o.kb)) ∧
        (∀ r < 256, last ≤ r → tri'.mOf r = tri.mOf r ∧ tri'.lOf r = tri.lOf r ∧
          ∀ col < 256, u.cellAt c o.acc r col = p.cellAt c o.acc r col) ∧
        (∀ r < last,
          let old : TRow := ⟨tri.mOf r, tri.lOf r, (List.range 256).map fun col => (p.cellAt c o.acc r col).toNat, 0⟩
          let x := match vb.get r 0, vb.get r 1 with
            | some m2, some l2 => old.merge m2.1.toNat l2.1.toNat fun col =>
              if o.oty = ETy.f32 then va.bits r col
              else if va.inside r col then (convert ETy.f32 o.oty .rne false false (va.bits r col)).1 else 0
            | _, _ => old.merge 0xff800000 0 fun _ => 0
          tri'.mOf r = x.m % 2 ^ 32 ∧ tri'.lOf r = x.l % 2 ^ 32 ∧
            ∀ col < 256, (u.cellAt c o.acc r col).toNat = x.o.getD col 0 % 2 ^ 32))

/-! ## Slots and tiles (04, 11) -/

/-- R78, R81, R103, R104, R120, R292 to R295: the words of a slot, with no parked word before them. TBIND binds the slot to the
descriptor it reads, as an acquire at module scope, and its faults leave the slot as it was; both wait for the fills and parked words of
the slot, a team peer's among them, and TBIND for an earlier run's access to the descriptor; TUNB drops its tiles, once written back,
and unbinds it; TVACQ waits while VERSION is older than the minimum and then takes it for AV, as an acquire at its scope; TVBUMP, after
the strand's runs and the write-backs, adds 1 to VERSION by one atomic, as a release at its scope, and changes no binding. -/
def Obligations.SlotBindings : Prop :=
  ∀ (s s1 s2 : State) (t : Machine.Task) (needs : Bool), s.Ready needs t → s.cur.eng = .a → t.anyParked .a = false →
    let c := s.cur.core
    let t1 := s.waited t
    let ends (u : State) : Outcome := .next (u.passed (t.strand .a).pc [])
    let binds (u : State) (n : BitVec 10) : Option Binding := (u.task c).bind (·.binding n)
    (∀ o : SlotAddr, needs = true → (s.begun t).slotBusy c t1 o.slot = true → exec (.tbind o) s = .next (s.waiting t)) ∧
    (∀ o : SlotOp, needs = false → (s.begun t).slotBusy c t1 o.slot = true → exec (.tunb o) s = .next (s.waiting t)) ∧
    (∀ o : SlotAddr, needs = true → (s.begun t).slotBusy c t1 o.slot = false →
      let a := (sget (s.env t).s o.sa + o.imm.signExtend 64).toNat % 2 ^ 56
      let fault (u : State) (k : Cause) : Outcome :=
        .next (u.takeFault c .a { cause := k, addr := BitVec.ofNat 56 a, slot := o.slot })
      ((s.begun t).wordBehind c (s.waited t) (s.env t) [(a, 64)] = true → exec (.tbind o) s = .next (s.waiting t)) ∧
      ((s.begun t).wordBehind c (s.waited t) (s.env t) [(a, 64)] = false →
      ∀ l, (s.begun t).readRun (t.whoAs c .a) .rd a 64 = (s1, .ok l) →
        let d : BitVec 512 := BitVec.ofNat 512 (leNat l)
        (∀ k, descCheck a d = some k → exec (.tbind o) s = fault s1 k) ∧
        (descCheck a d = none → (s1.acquire (.strand c .a) .module).rebind c t1 o.slot (mkBinding a d) = (s2, none) →
          exec (.tbind o) s = ends s2 ∧ binds s2 o.slot = some (mkBinding a d) ∧
            ∀ n, n ≠ o.slot → binds s2 n = t.binding n))) ∧
    (∀ o : SlotOp, needs = false → (s.begun t).slotBusy c t1 o.slot = false →
      (t.binding o.slot = none → exec (.tunb o) s = ends (s.begun t)) ∧
      (t.binding o.slot ≠ none → (s.begun t).clearSlot c t1 o.slot = (s2, none) →
        ∃ u, exec (.tunb o) s = ends u ∧ binds u o.slot = none ∧ (∀ n, n ≠ o.slot → binds u n = t.binding n) ∧
          ∀ x ∈ (u.core c).tiles, ¬(x.name.asid = t.asid ∧ x.name.slot = o.slot)) ∧
      (∀ f, t.binding o.slot ≠ none → (s.begun t).clearSlot c t1 o.slot = (s2, some f) →
        exec (.tunb o) s = .next (s2.takeFault c .a f))) ∧
    (∀ (o : TvacqOp) (b : Binding) (n : Nat), needs = true → (t.strand .a).phase ≠ .rereading →
      t.binding o.slot = some b → (s.begun t).wordBehind c (s.waited t) (s.env t) [(b.addr.toNat + 12, 4)] = false →
      (s.begun t).readNat (t.whoAs c .a) (b.addr.toNat + 12) 4 = (s1, .ok n) →
      let v : BitVec 32 := (sget (s.env t).s o.sa).setWidth 32 + o.imm
      let behind : Prop := (BitVec.ofNat 32 n - v).toInt < 0
      (¬behind → ∃ u, exec (.tvacq o) s = ends (u.acquire (.strand c .a) o.scope) ∧ binds u o.slot = some { b with av := v }) ∧
      (behind → ∃ u u', exec (.tvacq o) s = .next u ∧ u.task c = some u' ∧ (u'.strand .a).phase = .rereading ∧
        (u'.strand .a).pc = (t.strand .a).pc ∧ u'.binding o.slot = some b)) ∧
    (∀ (o : TvbumpOp) (b : Binding) (n : Nat), needs = false → t.binding o.slot = some b →
      (∀ g ∈ t.gens, g.2.active = false) →
      (s.begun t).writeBackAll c ((s.begun t).slotTiles c t1 o.slot) = (s1, none) →
      (s1.showTiles c o.scope).atomic { t.whoAs c .a with rel := some o.scope } (b.addr.toNat + 12) 4 (.amo .add 4 1)
        (fun v => some ((v + 1) % 2 ^ 32)) = (s2, .ok n) →
      exec (.tvbump o) s = ends s2 ∧ binds s2 o.slot = some b) ∧
    (∀ o : TvacqOp, needs = true → (t.strand .a).phase ≠ .rereading → t.binding o.slot = none →
      exec (.tvacq o) s = .next (s.faulted t { cause := .slotUnbound, slot := o.slot })) ∧
    (∀ o : TvbumpOp, needs = false → (∃ g ∈ t.gens, g.2.active = true) →
      exec (.tvbump o) s = .next (s.waiting t)) ∧
    (∀ o : TvbumpOp, needs = false → (∀ g ∈ t.gens, g.2.active = false) → t.binding o.slot = none →
      exec (.tvbump o) s = .next (s.faulted t { cause := .slotUnbound, slot := o.slot }))

/-- R92, R93, R96, R101, R296, R298, R301: the words that name tiles or a slot and fill nothing. On a bound slot TUNPIN unpins,
THINT hints, TWB writes the dirty tiles back, TINV drops, each the named tile or every tile of the slot that its core holds,
and no other tile; TPREF keeps the coordinates it has read as an itinerary; an unbound slot faults SLOT_UNBOUND. -/
def Obligations.TileHousekeeping : Prop :=
  ∀ (s s1 : State) (t : Machine.Task) (needs : Bool), s.Ready needs t → s.cur.eng = .a →
    (∀ w ∈ t.replay, w.env.eng ≠ .a) →
    let c := s.cur.core
    let ends (u : State) : Outcome := .next (u.passed (t.strand .a).pc [])
    let named (slot : BitVec 10) (k : KReg) (n : TileName) : Prop := n = ⟨t.asid, slot, kget (s.env t).k k⟩
    let within (slot : BitVec 10) (n : TileName) : Prop := n.asid = t.asid ∧ n.slot = slot
    let changes (i : Instr) (p : TileName → Prop) (f : Tile → Tile) : Prop := ∃ u, exec i s = ends u ∧ u.mem = s.mem ∧
      ∀ n, (p n → (u.core c).tile n = ((s.core c).tile n).map f) ∧ (¬p n → (u.core c).tile n = (s.core c).tile n)
    let drops (i : Instr) (p : TileName → Prop) : Prop := ∃ u, exec i s = ends u ∧ u.mem = s.mem ∧
      ∀ n, (p n → (u.core c).tile n = none) ∧ (¬p n → (u.core c).tile n = (s.core c).tile n)
    let writes (i : Instr) (l : List Tile) : Prop :=
      ((s.begun t).writeBackAll c l = (s1, none) → exec i s = ends s1) ∧
        ∀ f, (s.begun t).writeBackAll c l = (s1, some f) → exec i s = .next (s1.takeFault c .a f)
    (∀ (slot : BitVec 10) (k : KReg) (x : Binding), needs = true → t.binding slot = some x →
      changes (.tunpin ⟨slot, k⟩) (named slot k) (fun y => { y with pinned := false }) ∧
      changes (.thint ⟨slot, k, .norm⟩) (named slot k) (fun y => { y with strm := false, class0 := false }) ∧
      changes (.thint ⟨slot, k, .strm⟩) (named slot k) (fun y => { y with strm := true, class0 := false }) ∧
      changes (.thint ⟨slot, k, .lu⟩) (named slot k) (fun y => { y with class0 := true }) ∧
      writes (.twb ⟨slot, k⟩) ((s.core c).tile ⟨t.asid, slot, kget (s.env t).k k⟩).toList ∧
      ((s.begun t).tileBusy c slot (kget (s.env t).k k) = false → drops (.tinv ⟨slot, k⟩) (named slot k)) ∧
      ((s.begun t).tileBusy c slot (kget (s.env t).k k) = true → exec (.tinv ⟨slot, k⟩) s = .next (s.waiting t))) ∧
    (∀ (slot : BitVec 10) (k : KReg) (x : Binding) (m : Bool), needs = false → t.binding slot = some x →
      changes (.tunpinSlot ⟨slot, k⟩) (within slot) (fun y => { y with pinned := false }) ∧
      (∃ u, exec (.thintSlot ⟨slot, k, m⟩) s = ends u ∧ (u.task c).bind (·.binding slot) = some { x with strm := m } ∧
        (u.core c).tiles = (s.core c).tiles) ∧
      writes (.twbSlot ⟨slot, k⟩) ((s.core c).tiles.filter fun y => y.name.asid == t.asid && y.name.slot == slot) ∧
      ((s.begun t).slotBusy c (s.waited t) slot = false → drops (.tinvSlot ⟨slot, k⟩) (within slot)) ∧
      ((s.begun t).slotBusy c (s.waited t) slot = true → exec (.tinvSlot ⟨slot, k⟩) s = .next (s.waiting t))) ∧
    (∀ (slot : BitVec 10) (k : KReg) (i : Instr), t.binding slot = none →
      (needs = true → i ∈ [Instr.tunpin ⟨slot, k⟩, .thint ⟨slot, k, .lu⟩, .twb ⟨slot, k⟩, .tinv ⟨slot, k⟩] →
        exec i s = .next (s.faulted t (tileFault .slotUnbound slot (kget (s.env t).k k)))) ∧
      (needs = false → i ∈ [Instr.tunpinSlot ⟨slot, k⟩, .thintSlot ⟨slot, k, true⟩, .twbSlot ⟨slot, k⟩, .tinvSlot ⟨slot, k⟩] →
        exec i s = .next (s.faulted t { cause := .slotUnbound, slot := slot }))) ∧
    (∀ (o : TprefOp) (x : Binding) (l : List Byte), needs = true → t.binding o.slot = some x → t.itins.length < 4 →
      let a := (sget (s.env t).s o.sa + o.imm.signExtend 64).toNat % 2 ^ 56 / 16 * 16
      (s.begun t).wordBehind c (s.waited t) (s.env t) [(a, 16 * (o.n.toNat + 1))] = false →
      (s.begun t).readRun (t.whoAs c .a) .rd a (16 * (o.n.toNat + 1)) = (s1, .ok l) →
      ∃ u u' ks, exec (.tpref o) s = ends u ∧ u.task c = some u' ∧ u'.itins = t.itins ++ [⟨o.slot, ks, t.runs, (t.strand .a).epoch, (t.strand .a).path⟩] ∧
        ks.length = o.n.toNat + 1 ∧ ∀ i < ks.length, ks.getD i 0 = BitVec.ofNat 128 (leNat ((l.drop (16 * i)).take 16))) ∧
    (needs = false → exec .syncA s = ends (s.begun t))

/-- R92, R95, R96, R120, R296, R297: TFILL and TPIN of a tile. With the tile resident TFILL completes, and TPIN pins it unless the
core has 256 pins or the set 15, and stores its status where its address names one: 0, and then the tile is pinned, 1 or 2, and then it
is not (1 where both limits are reached is the model's choice, log 63). The store waits for an earlier A word's access to the place;
where it faults the pin stands and the restart point follows the word. With the tile absent the word parks with its operands as read
and its fill starts, once a stale dirty tile of the name is written back, or waits when 32 words are parked; an unbound slot faults
SLOT_UNBOUND. -/
def Claims.FillsAndPins : Prop :=
  ∀ (s s2 : State) (t : Machine.Task) (slot : BitVec 10) (k : KReg) (sa : SReg) (imm : BitVec 32) (i : Instr),
    s.ReadyTiles i t → s.cur.eng = .a → i = .tfill ⟨slot, k⟩ ∨ i = .tpin ⟨slot, k, sa, imm⟩ →
    let c := s.cur.core
    let kv := kget (s.env t).k k
    let n : TileName := ⟨t.asid, slot, kv⟩
    let u : TileUse := { core := c, slot := slot, k := kv, write := true }
    let b0 := s.begun t
    let t1 := s.waited t
    let ends (v : State) : Outcome := .next (v.passed (t.strand .a).pc [])
    t.clash .a none [u] = false →
    (t.binding slot = none → exec i s = .next (s.faulted t (tileFault .slotUnbound slot kv))) ∧
    ∀ b, t.binding slot = some b →
      (b0.hitTile t1 u = none → 32 ≤ t.replay.length → b0.setFull t1 [u] = none → exec i s = .next (s.waiting t)) ∧
      (b0.hitTile t1 u = none → t.replay.length < 32 → b0.setFull t1 [u] = none → b0.flushStale t1 [u] = (s2, none) →
        ∃ v v' w, exec i s = ends v ∧ v.task c = some v' ∧ v'.replay = t.replay ++ [w] ∧ w.instr = i ∧ w.env = s.env t ∧
          w.uses = [u] ∧ (∃ f ∈ v'.fills, f.core = c ∧ f.slot = slot ∧ f.k = kv) ∧ v.mem = s2.mem ∧
          (v.core c).tiles = (s2.core c).tiles) ∧
      (∀ f, b0.hitTile t1 u = none → b0.setFull t1 [u] = some f →
        exec i s = .next (s.faulted t (tileFault .tileSetFull slot kv))) ∧
      (∀ x, b0.hitTile t1 u = some x →
        (i = .tfill ⟨slot, k⟩ → ∃ v y, exec i s = ends v ∧ (v.core c).tile n = some y ∧ y.data = x.data ∧
          y.pinned = x.pinned ∧ y.strm = b.strm ∧ v.mem = s.mem) ∧
        (let st : Nat := if x.pinned then 0 else if 256 ≤ (s.core c).tiles.countP (·.pinned) then 1
            else if 15 ≤ (s.core c).tiles.countP fun y => tileSet y.name.slot y.name.k == tileSet slot kv && y.pinned
              then 2 else 0
          let a := (sget (s.env t).s sa + imm.signExtend 64).toNat % 2 ^ 56
          let p := if st = 0 then b0.modTile c n fun x => { x with pinned := true } else b0
          let store := p.writeRun (t1.whoWord c (s.env t)) .wr a (leBytes 4 st)
          i = .tpin ⟨slot, k, sa, imm⟩ →
          (∃ y, (p.core c).tile n = some y ∧ y.pinned = (st == 0) ∧ y.data = x.data) ∧ p.mem = s.mem ∧
          (sa = 0 → exec i s = ends (p.finishUses c t1 [u])) ∧
          (sa ≠ 0 → b0.wordBehind c t1 (s.env t) [(a, 4)] = true → exec i s = .next (s.waiting t)) ∧
          (sa ≠ 0 → b0.wordBehind c t1 (s.env t) [(a, 4)] = false →
            (store = (s2, none) → exec i s = ends (s2.finishUses c t1 [u])) ∧
            (∀ e, store = (s2, some e) → (∀ va, e ≠ .refused va) → exec i s = .next
              (if t.parkedOwn .a then s.waiting t
                else (s2.finishUses c t1 [u]).takeFault c .a { e.info with after := true })))))

/-- R83, R84, R100, R299, R300: TZERO and TCOPY, their tiles there, no earlier A word's access to the places in the way, and their
stores possible, complete: every present element of the destination within the extents holds zero bits, or the bits of the
source's element; the tile is dirty. A store to a resident tile of the task's own, not packed-sparse, is possible where
every place of it may be written. -/
def Claims.TileWrites : Prop :=
  ∀ (s s2 : State) (t : Machine.Task),
    let c := s.cur.core
    let t1 := s.waited t
    let holds (i : Instr) (n : TileName) (f : Nat → Nat → BitVec 32) : Prop :=
      ∃ (v : State) (x : Tile), exec i s = .next (v.passed (t.strand .a).pc []) ∧ (v.core c).tile n = some x ∧ x.dirty = true ∧
        ∀ row < x.bind.d.shape.1, ∀ col < x.bind.d.shape.2, x.mask.getLsbD row = true →
          inExt x.bind.d (tileExt x) n.k row col = true → x.elem (row * x.bind.d.shape.2 + col) = f row col
    let writable (u : TileUse) : Prop := ∃ x v p, (s.begun t).hitTile t1 u = some x ∧ x.owner = t.uid ∧ x.bind.d.layout ≠ 2 ∧
      (s.begun t).placeTile c .wr x (some (.strand c .a)) = (v, .ok p)
    (∀ (o : TileOp) (b : Binding) (u : TileUse), s.ReadyTiles (.tzero o) t → s.cur.eng = .a →
      t.binding o.slot = some b → destUse c b o.slot (kget (s.env t).k o.k) = .ok u → s.TilesThere (s.begun t) t [u] →
      (s.begun t).wordBehind c t1 (s.env t)
        ((s.begun t).tilePlaces (t1.who c) t1 o.slot (kget (s.env t).k o.k)) = false →
      writable u ∨ (s.begun t).writeTiles c t1 b [u] (fun _ _ _ => some 0) = .done s2 →
      holds (.tzero o) ⟨t.asid, o.slot, kget (s.env t).k o.k⟩ fun _ _ => 0) ∧
    (∀ (o : TcopyOp) (b d : Binding) (u : TileUse), s.ReadyTiles (.tcopy o) t → s.cur.eng = .a →
      t.peerBad o.peer = false → t.binding o.dslot = some d → t.binding o.sslot = some b → d.d.ty = b.d.ty →
      d.d.shape = b.d.shape → (s.begun t).peerBound c (copyCore o c t) o.sslot b = true →
      destUse c d o.dslot (kget (s.env t).k o.dk) = .ok u →
      let l := [{ core := copyCore o c t, slot := o.sslot, k := kget (s.env t).k o.sk, lu := o.lu : TileUse }, u]
      s.TilesThere (s.begun t) t l →
      (s.begun t).wordBehind c t1 (s.env t)
        ((s.begun t).tilePlaces (t1.who c) t1 o.dslot (kget (s.env t).k o.dk)) = false →
      let v := (s.begun t).view t1 (copyCore o c t) b.d
        ⟨o.sslot, kget (s.env t).k o.sk, b.d.shape.1, b.d.shape.2⟩ l
      writable u ∨ (s.begun t).writeTiles c t1 d [u] (fun _ r col => some (v.bits r col)) = .done s2 →
      holds (.tcopy o) ⟨t.asid, o.dslot, kget (s.env t).k o.dk⟩ fun row col => BitVec.ofNat 32 (v.bits row col)) ∧
    (∀ (o : TcopyOp) (b d : Binding), s.ReadyTiles (.tcopy o) t → s.cur.eng = .a → t.peerBad o.peer = false →
      t.binding o.dslot = some d → t.binding o.sslot = some b → (d.d.ty ≠ b.d.ty ∨ d.d.shape ≠ b.d.shape) →
      exec (.tcopy o) s = .next (s.faulted t { cause := .operandType }))

/-! ## Generators and index registers (11) -/

/-- R302 to R309: GSET loads the record it reads, as an acquire at module scope (what a record with a reserved bit and also a bad TYPE
faults is the model's reading, log 29, and not stated); GRUN and GSTO of an idle generator start a run of the record, or complete
at once when a count is 0, and .cont goes on with a stopped one; a busy generator or queue makes them wait; GSTOP stops a run
at an entry boundary and discards what a load run has half assembled; QCLR empties its queue. -/
def Claims.GeneratorWords : Prop :=
  ∀ (s s1 : State) (t : Machine.Task) (needs : Bool), s.Ready needs t → s.cur.eng = .a →
    let c := s.cur.core
    let ends (u : State) : Outcome := .next (u.passed (t.strand .a).pc [])
    let starts (u : State) (g : BitVec 4) : Outcome := .next (u.passed (t.strand .a).pc [.run g.toNat (t.runs + 1)])
    (∀ (o : GsetOp) (v : Nat), needs = true → (t.gen o.g.toNat).active = false →
      let a := (sget (s.env t).s o.sa + o.imm.signExtend 64).toNat % 2 ^ 56
      let fault (u : State) (k : Cause) : Outcome :=
        .next (if t.parkedOwn .a then s.waiting t else u.takeFault c .a { cause := k, addr := BitVec.ofNat 56 a })
      (s.begun t).wordBehind c (s.waited t) (s.env t) [(a, 32)] = false →
      (a % 32 ≠ 0 → exec (.gset o) s = fault (s.begun t) .descriptorInvalid) ∧
      (a % 32 = 0 → (s.begun t).readNat (t.whoAs c .a) a 32 = (s1, .ok v) →
        let p : BitVec 256 := BitVec.ofNat 256 v
        let ty := ETy.ofCode (p.extractLsb' 56 5)
        (∀ x, p.extractLsb' 61 3 ≠ 0 → ty = some x → 8 ≤ x.width → exec (.gset o) s = fault s1 .reservedField) ∧
        (p.extractLsb' 61 3 = 0 → (∀ x, ty = some x → x.width < 8) → exec (.gset o) s = fault s1 .descriptorInvalid) ∧
        (∀ x, p.extractLsb' 61 3 = 0 → ty = some x → 8 ≤ x.width →
          ∃ u u', exec (.gset o) s = ends u ∧ u.order = (s1.acquire (.strand c .a) .module).order ∧
            u.task c = some u' ∧ SMap.look 0 u'.g o.g.toNat = p ∧
            ∀ g, g ≠ o.g.toNat → SMap.look 0 u'.g g = SMap.look 0 t.g g))) ∧
    (needs = false → ∀ (i : Instr) (load row cont : Bool) (g : BitVec 4) (q : Nat),
      ((∃ n : BitVec 3, i = .grun ⟨g, n, row, cont⟩ ∧ load = true ∧ q = n.toNat) ∨
        (∃ n : BitVec 2, i = .gsto ⟨g, n, row, cont⟩ ∧ load = false ∧ q = 8 + n.toNat)) →
      let x := t.gen g.toNat
      let kind := RunKind.nest (SMap.look 0 t.g g.toNat) row
      (t.genBusy g.toNat q = true → exec i s = .next (s.waiting t)) ∧
      (t.genBusy g.toNat q = false → (cont = false ∨ x.mode ≠ .stopped) →
        (kind.count = 0 → ∃ u u', exec i s = ends u ∧ u.task c = some u' ∧ (u'.gen g.toNat).mode = .idle) ∧
        (0 < kind.count → ∃ u u' y, exec i s = starts u g ∧ u.task c = some u' ∧ u'.gen g.toNat = y ∧
          y.mode = .running ∧ y.load = load ∧ y.queue = q ∧ y.kind = kind ∧ y.entry = 0 ∧ y.elem = 0 ∧
          u'.runs = t.runs + 1)) ∧
      (t.genBusy g.toNat q = false → cont = true → x.mode = .stopped → x.entry < x.kind.count →
        ∃ u u' y, exec i s = starts u g ∧ u.task c = some u' ∧ u'.gen g.toNat = y ∧ y.mode = .running ∧ y.kind = x.kind ∧
          y.entry = x.entry ∧ y.elem = x.elem)) ∧
    (needs = false → ∀ g : BitVec 4,
      let x := t.gen g.toNat
      (x.active = false → ∃ u u', exec (.gstop ⟨g⟩) s = ends u ∧ u.task c = some u' ∧ u'.gens = t.gens ∧ u'.q = t.q ∧
        u'.sigs = t.sigs) ∧
      (x.active = true → x.load = false → x.mode = .running → x.elem ≠ 0 →
        exec (.gstop ⟨g⟩) s = .next (s.waiting t)) ∧
      (x.active = true → ¬(x.load = false ∧ x.mode = .running ∧ x.elem ≠ 0) →
        ∃ u u', exec (.gstop ⟨g⟩) s = ends u ∧ u.task c = some u' ∧ u'.q = t.q ∧
          u'.gen g.toNat = { x with mode := .stopped, elem := if x.load then 0 else x.elem,
                                    part := if x.load then 0 else x.part } ∧
          (∀ p ∈ u'.sigs, Token.run g.toNat x.run ∉ p.until_))) ∧
    (needs = false → ∀ q : BitVec 4, (∀ g, (t.gen g).queue = q.toNat → (t.gen g).load = false → (t.gen g).mode = .running → (t.gen g).elem = 0) →
      SMap.wf {} t.gens = true →
      ∃ u u', exec (.qclr ⟨q⟩) s = ends u ∧ u.task c = some u' ∧ SMap.look [] u'.q q.toNat = [] ∧
        (∀ n, n ≠ q.toNat → SMap.look [] u'.q n = SMap.look [] t.q n) ∧
        ∀ g, (u'.gen g).active = true → (u'.gen g).queue ≠ q.toNat)

/-- R311 to R313: LDX reads s[SB] values into its index register, with LEN and the bound, and faults beyond 256; LDX.bt reads
the live positions of a run of blocks with the sequence's generation as its mark, and with .pos their positions; a reserved
bit of the descriptor faults RESERVED_FIELD, before an alignment that the spec ranks with it nowhere (log 64). -/
def Claims.IndexLoads : Prop :=
  ∀ (s s1 s2 : State) (t : Machine.Task), s.Ready true t → s.cur.eng = .a →
    let c := s.cur.core
    let ends (u : State) : Outcome := .next (u.passed (t.strand .a).pc [])
    let ent (x : IndexReg) (k : Nat) : BitVec 32 := SMap.look 0 x.ent k
    (∀ (o : LdxOp) (l : List Byte),
      let n := (sget (s.env t).s o.sb).toNat
      let a := (sget (s.env t).s o.sa).toNat % 2 ^ 56
      (256 < n → exec (.ldx o) s = .next (s.faulted t { cause := .indexOverflow })) ∧
      (n ≤ 256 → (s.begun t).wordBehind c (s.waited t) (s.env t) [(a, 4 * n)] = false → (s.begun t).readRun (t.whoAs c .a) .rd a (4 * n) = (s1, .ok l) →
        ∃ u u' x, exec (.ldx o) s = ends u ∧ u.task c = some u' ∧ u'.index o.i.toNat = x ∧ x.len = n ∧
          x.bound = o.bound ∧ x.mark = none ∧
          ∀ k < 256, ent x k = if k < n then BitVec.ofNat 32 (leNat ((l.drop (4 * k)).take 4))
            else ent (t.index o.i.toNat) k)) ∧
    (∀ (o : LdxBtOp) (d : Nat) (l : List (BitVec 32 × BitVec 32)),
      let a := (sget (s.env t).s o.sa).toNat % 2 ^ 56
      let v := sget (s.env t).s o.sb
      let bt := d % 2 ^ 56
      let nblk := d / 2 ^ 96 % 2 ^ 32
      let from_ := v.toNat % 2 ^ 32
      let blocks := (List.range (min (v.toNat / 2 ^ 32) (nblk - from_))).map (· + from_)
      let reserved : Prop := d / 2 ^ 448 % 2 ^ 64 ≠ 0 ∨ d / 2 ^ 312 % 2 ^ 8 ≠ 0 ∨ d / 2 ^ 248 % 2 ^ 8 ≠ 0 ∨
        d / 2 ^ 56 % 2 ^ 8 ≠ 0
      let fault (u : State) (k : Cause) : Outcome :=
        .next (if t.parkedOwn .a then s.waiting t else u.takeFault c .a { cause := k, addr := BitVec.ofNat 56 a })
      (s.begun t).wordBehind c (s.waited t) (s.env t) [(a, 64)] = false →
      (a % 64 ≠ 0 → exec (.ldxBt o) s = fault (s.begun t) .descriptorInvalid) ∧
      (a % 64 = 0 → (s.begun t).readNat (t.whoAs c .a) a 64 = (s1, .ok d) →
        (reserved → exec (.ldxBt o) s = fault s1 .reservedField) ∧
        (¬reserved → bt % 16 ≠ 0 → exec (.ldxBt o) s = fault s1 .descriptorInvalid) ∧
        (¬reserved → bt % 16 = 0 → 
          (s.begun t).wordBehind c (s.waited t) (s.env t) (blocks.map fun b => ((bt + 16 * b) % 2 ^ 56, 16)) = false →
          s1.readBlocks (t.whoAs c .a) bt blocks = (s2, .ok (.ok l)) →
          (256 < l.length → exec (.ldxBt o) s = fault s2 .indexOverflow) ∧
          (l.length ≤ 256 → (o.pos = true → o.i.toNat % 2 = 0) →
            ∃ u u' x, exec (.ldxBt o) s = ends u ∧ u.task c = some u' ∧ u'.index o.i.toNat = x ∧ x.len = l.length ∧
              x.bound = o.bound ∧ x.mark = some (BitVec.ofNat 56 a, BitVec.ofNat 32 (d / 2 ^ 416)) ∧
              (∀ k < l.length, some (ent x k) = (l[k]?).map (·.1)) ∧
              (o.pos = true → (u'.index (o.i.toNat + 1)).len = l.length ∧
                (u'.index (o.i.toNat + 1)).bound = 0x80000000 ∧
                ∀ k < l.length, some (ent (u'.index (o.i.toNat + 1)) k) = (l[k]?).map (·.2))))))

/-- R304, R314 to R316: GATHER and SCATTER of a register without a source mark, or whose mark still holds the sequence's
generation, start a run of one row per entry, or of the index values; a register whose entry lies outside its bound faults
GATHER_BOUNDS with that entry, a stale mark faults STALE_INDEX, and a busy generator or queue makes the word wait. The generation is read as an acquire at module scope. -/
def Claims.GathersAndScatters : Prop :=
  ∀ (s s1 : State) (t : Machine.Task) (g r : BitVec 4) (q3 : BitVec 3) (w2 : BitVec 2) (sa sb : SReg) (ty : ETy)
    (bytes : BitVec 9) (i : Instr) (load inBounds : Bool) (q : Nat) (kind : RunKind), s.Ready true t → s.cur.eng = .a →
    let c := s.cur.core
    let x := t.index r.toNat
    let at_ (k : Nat) : BitVec 32 := SMap.look 0 x.ent k
    let base := (sget (s.env t).s sa)
    let stride := (sget (s.env t).s sb)
    let lin : RunKind := .rows ((List.range x.len).map fun k =>
      BitVec.ofInt 56 (base.toNat + (at_ k).toNat * stride.toInt)) bytes.toNat ty
    let paged : RunKind := .rows ((List.range x.len).map fun k => BitVec.ofNat 56 (base.toNat +
      (at_ k).toNat / 64 * (stride.toNat / 2 ^ 32) + (at_ k).toNat % 64 * (stride.toNat % 2 ^ 32))) bytes.toNat ty
    x.len ≤ 256 →
    (i, load, inBounds, q, kind) ∈ [(Instr.gatherLin ⟨g, r, q3, sa, sb, ty, bytes⟩, true, true, q3.toNat, lin),
      (.gatherPaged ⟨g, r, q3, sa, sb, ty, bytes⟩, true, true, q3.toNat, paged),
      (.gatherIdx ⟨g, r, q3⟩, true, false, q3.toNat, .idx ((List.range x.len).map at_)),
      (.scatterLin ⟨g, r, w2, sa, sb, ty, bytes⟩, false, true, 8 + w2.toNat, lin),
      (.scatterPaged ⟨g, r, w2, sa, sb, ty, bytes⟩, false, true, 8 + w2.toNat, paged)] →
    let valid (k : Nat) : Prop := 0 ≤ (at_ k).toInt ∧ (at_ k).toNat < x.bound.toNat
    let behind (a : Va) : Bool := (s.begun t).wordBehind c (s.waited t) (s.env t) [(a.toNat + 52, 4)]
    let fault (u : State) (f : FaultInfo) : Outcome :=
      .next (if t.parkedOwn .a then s.waiting t else u.takeFault c .a f)
    (t.genBusy g.toNat q = true → exec i s = .next (s.waiting t)) ∧
    (t.genBusy g.toNat q = false →
      (∀ a v n, x.mark = some (a, v) → behind a = false →
        (s.begun t).readNat (t.whoAs c .a) (a.toNat + 52) 4 = (s1, .ok n) → n ≠ v.toNat →
        exec i s = fault s1 { cause := .staleIndex, addr := a }) ∧
      ((x.mark = none ∧ s1 = s.begun t) ∨ (∃ a v s0, x.mark = some (a, v) ∧ behind a = false ∧
          (s.begun t).readNat (t.whoAs c .a) (a.toNat + 52) 4 = (s0, .ok v.toNat) ∧
          s1 = s0.acquire (.strand c .a) .module) →
        (∀ e < x.len, inBounds = true → ¬valid e → (∀ k < e, valid k) →
          exec i s = fault s1
            { cause := .gatherBounds, info := BitVec.ofNat 64 ((at_ e).toNat + e * 2 ^ 32), info2 := r.setWidth 64 }) ∧
        ((inBounds = true → ∀ k < x.len, valid k) →
          (x.len = 0 → ∃ (u : State) (u' : Machine.Task), exec i s = .next (u.passed (t.strand .a).pc []) ∧ u.task c = some u' ∧
            (u'.gen g.toNat).mode = .idle) ∧
          (0 < x.len → ∃ (u : State) (u' : Machine.Task) (y : Gen),
            exec i s = .next (u.passed (t.strand .a).pc [.run g.toNat (t.runs + 1)]) ∧ u.task c = some u' ∧ u'.gen g.toNat = y ∧ y.mode = .running ∧
            y.load = load ∧ y.queue = q ∧ y.kind = kind ∧ y.entry = 0 ∧ u'.runs = t.runs + 1))))

/-! ## Fabric words (12) -/

/-- R318 to R327, R464: each F word that names a die sends one request, with the key and the identity of its context and the next
number of its pair of dies, to the label DIE + s[SC], and the strand goes on; a release is sent once what happens before it in its
module is visible at its scope, and leaves after every earlier write of the task. RSIG and the bulk words fault RESERVED_FIELD for a
field or a length out of range, and a length of 0 sends nothing. That a word waits while an earlier landing is still to reach its own
place, and when the source of a put is read, are the model's readings (log 30). -/
def Claims.RemoteRequests : Prop :=
  ∀ (s s1 : State) (t : Machine.Task) (n : Nat), s.ReadyF true t n →
    let c := s.cur.core
    let e := s.env t
    let fab := (s.begun t).fabOf n
    let ends (u : State) : Outcome := .next (u.passed (t.strand .f).pc [])
    let bad : Outcome := .next (s.faulted t { cause := .reservedField })
    let sends (i : Instr) (from_ : State) (rel : Option Scope) (p : FReq → Prop) : Prop :=
      let f := from_.leaveOrdered c rel
      ∃ (u : State) (r : FReq),
        exec i s = .next ((u.modTask c fun y => y.fall .f).signalWord c .f (t.strand .f).pc [.reqs [r.id]]) ∧
        u.reqs = f.reqs ++ [r] ∧ u.task c = (f.task c).map (fun y => { y with fseq := y.fseq + 1 }) ∧ u.mem = f.mem ∧
        r.id = f.nextReq ∧ r.core = c ∧ r.image = t.image ∧ r.ctx = n ∧ r.order = t.fseq ∧ r.pc = (t.strand .f).pc ∧
        r.die = dieOf c ∧ r.key = (f.fabOf n).extractLsb' 0 16 ∧ r.fid = (f.ctx n).fid ∧ r.performed = false ∧
        r.sent = f.now (dieOf c) ∧ r.seq = SMap.look 0 (f.router (dieOf c)).next r.dst.toNat ∧ r.rel = rel ∧
        (∀ q ∈ f.ownReqs n t.image, rel ≠ none → opWrites q.op = true → q.id ∈ r.waits) ∧ p r
    let at_ (x : Word) : Va := x.setWidth 56
    let die (d : BitVec 14) (x : SReg) : BitVec 14 := d + (sget e.s x).setWidth 14
    let free (x : SReg) (k : Nat) : Prop :=
      (s.begun t).landBusy (s.waited t) n ((sget e.s x).toNat % 2 ^ 56) k = false
    let lands (r : FReq) (x : SReg) (k : Nat) : Prop := r.land = some (at_ (sget e.s x)) ∧ r.landSize = k
    let acq (o : Ord) (k : Scope) : Option Scope := if o = .acq ∨ o = .ar then some k else none
    let rel (o : Ord) (k : Scope) : Option Scope := if o = .rel ∨ o = .ar then some k else none
    let val (x : SReg) (k : Nat) : Nat :=
      ((sget e.s x).toNat + if k = 16 then (sget e.s (x + 1)).toNat * 2 ^ 64 else 0) % 2 ^ (8 * k)
    (∀ o : RldOp, (free o.sd o.size.bytes → sends (.rld o) (s.begun t) none fun r => r.dst = die o.die o.sc ∧
        r.op = .read o.size.bytes ∧ r.va = at_ (sget e.s o.sa + o.imm.signExtend 64) ∧ lands r o.sd o.size.bytes ∧
        r.acq = acq o.ord o.scope ∧ r.adp = (o.adp && fab.getLsbD 16)) ∧
      (¬free o.sd o.size.bytes → exec (.rld o) s = .next (s.waiting t))) ∧
    (∀ o : RstOp, sends (.rst o) (s.begun t) (rel o.ord o.scope) fun r => r.dst = die o.die o.sc ∧
        r.va = at_ (sget e.s o.sa + o.imm.signExtend 64) ∧ r.land = none ∧ r.acq = none ∧
        ∃ b, r.op = .write b ∧ b.length = o.size.bytes ∧ leNat b = val o.sb o.size.bytes) ∧
    (∀ o : RamoOp, free o.sd o.size.bytes → sends (.ramo o) (s.begun t) (rel o.ord o.scope) fun r => r.dst = die o.die o.sc ∧
        r.op = .amo o.op o.size.bytes (BitVec.ofNat 64 (val o.sb o.size.bytes)) ∧ r.va = at_ (sget e.s o.sa) ∧
        lands r o.sd o.size.bytes ∧ r.acq = acq o.ord o.scope) ∧
    (∀ o : RcasOp, free o.sd o.size.bytes → sends (.rcas o) (s.begun t) (rel o.ord o.scope) fun r => r.dst = o.die ∧
        r.op = .cas o.size.bytes (BitVec.ofNat 128 (val o.sb o.size.bytes)) (BitVec.ofNat 128 (val o.sc o.size.bytes)) ∧
        r.va = at_ (sget e.s o.sa) ∧ lands r o.sd o.size.bytes ∧ r.acq = acq o.ord o.scope) ∧
    (∀ o : RsigOp, ((sget e.s o.sa).extractLsb' 50 14 ≠ 0 → exec (.rsig o) s = bad) ∧
      ((sget e.s o.sa).extractLsb' 50 14 = 0 → sends (.rsig o) (s.begun t) (some .module) fun r => r.dst = die o.die o.sc ∧
        r.land = none ∧ ∃ m, r.op = .sig m ∧ m.grid = (sget e.s o.sb).setWidth 32 ∧
          m.tx = (sget e.s o.sa).extractLsb' 0 16 ∧ m.ty = (sget e.s o.sa).extractLsb' 16 16 ∧
          m.tz = (sget e.s o.sa).extractLsb' 32 16 ∧ m.rank = (sget e.s o.sa).extractLsb' 48 2 ∧ m.sem = o.sem ∧
          m.inc = o.inc ∧ m.fid = r.fid)) ∧
    (∀ o : RbulkOp,
      let len := (sget e.s o.sd).toNat
      let a := (sget e.s o.sa).toNat % 2 ^ 56
      (2 ^ 32 < len → exec (.rput o) s = bad ∧ exec (.rget o) s = bad) ∧
      (len = 0 → ∃ u, exec (.rput o) s = ends u ∧ exec (.rget o) s = ends u ∧ u.reqs = s.reqs ∧ u.mem = s.mem) ∧
      (0 < len → len ≤ 2 ^ 32 → free o.sa len →
        (sends (.rget o) (s.begun t) none fun r => r.dst = die o.die o.sc ∧ r.op = .get len ∧ r.va = at_ (sget e.s o.sb) ∧
          lands r o.sa len) ∧
        ∀ b, (s.begun t).readRun { t.whoMap c .f with unit := bulkUnit a (at_ (sget e.s o.sb)).toNat len } .rd a len = (s1, .ok b) →
          sends (.rput o) s1 none fun r => r.dst = die o.die o.sc ∧ r.op = .put b ∧ r.va = at_ (sget e.s o.sb) ∧
            r.land = none))

/-- R320: a recorded failure of an earlier F word is taken by the next F word instead of its own effect: the fault's cause,
word, address and label are the earliest failure's, and no failure is kept. RWAIT takes it once the words it waits for have
ended (R328). -/
def Claims.DeferredFailuresAreTaken : Prop :=
  ∀ (s : State) (t : Machine.Task) (n : Nat) (needs : Bool) (i : Instr) (d : Deferred), s.Ready needs t →
    s.cur.eng = .f → t.ctx = some n → (i = .rwait → s.ownReqs n t.image = [] ∧ ∀ g ∈ t.groups, g.2.st ≠ .busy) →
    i.fields.map (·.1) = some .f → (needs = true ∨ i ∈ [Instr.syncF, .rfence, .rwait]) → d ∈ t.defer →
    (∀ x ∈ t.defer, x ≠ d → d.order < x.order) →
    ∃ u u' f, exec i s = .next u ∧ u.task s.cur.core = some u' ∧ u'.defer = [] ∧ f ∈ u'.faults ∧ f.cause = d.cause ∧
      f.pc = (if d.pc = 0 then (t.strand .f).pc else d.pc) ∧ f.addr = d.addr ∧ f.label = d.label ∧ f.strand = some .f ∧
      f.info = ((t.strand .f).pc).setWidth 64 ∧ f.more.toNat = min 65535 (t.defer.length - 1) ∧ u.reqs = s.reqs ∧
      u.mem = s.mem

/-- R328, R330 to R335, R136: the group words and the words that wait. GRPSET joins with status 0 and stores the status;
GRPSTAT stores the state, the cause, the member count and the episodes; MLDRED of a ready group sends its contribution with
the partition's key, one with an absent member aborts the group for every member, discards the episode's parts and records
PEER_ABSENT, one whose key the die's own router does not hold records PARTITION_KEY and leaves the slot ready (the model's reading,
log 31), one of an aborted group records its cause and the absent label, one of an unset group faults GROUP_UNSET; MCAST sends one put
to every other member; RFENCE waits for the writes of the task and RWAIT for all it has in progress. The words wait for a landing that
overlaps what they read or write, which is the model's reading (log 30). -/
def Obligations.GroupWords : Prop :=
  ∀ (s s1 s2 : State) (t : Machine.Task) (n : Nat) (needs : Bool), s.ReadyF needs t n →
    let c := s.cur.core
    let e := s.env t
    let t1 := s.waited t
    let ends (u : State) : Outcome := .next (u.passed (t.strand .f).pc [])
    let next (u : State) : State := u.modTask c fun x => { x with fseq := x.fseq + 1 }
    let unset : Outcome := .next (s.faulted t { cause := .groupUnset })
    let at_ (x : SReg) : Nat := (sget e.s x).toNat % 2 ^ 56
    let free (a k : Nat) : Prop := (s.begun t).landBusy t1 n a k = false
    (∀ (o : GrpsetOp) (d : Option GroupDesc), needs = true → (t.group o.cg).st ≠ .busy →
      let a := (sget e.s o.sa + o.imm.signExtend 64).toNat % 2 ^ 56
      free (at_ o.sd) 8 → free a 64 →
      (a % 64 ≠ 0 ∧ s1 = s.begun t ∧ d = none) ∨
        (a % 64 = 0 ∧ ∃ v s0, (s.begun t).readNat (t1.whoMap c .f) a 64 = (s0, .ok v) ∧
          s1 = s0.acquire (.strand c .f) .module ∧ d = groupDesc (BitVec.ofNat 512 v)) →
      let st := s1.groupStatus c t1 n o.cg d
      let r : State := match st, d with
        | 0, some x => (s1.reserve (dieOf c) t.uid o.cg ((s1.fabOf n).extractLsb' 0 16) x.slots).modTask c fun y =>
            y.setGroup o.cg.toNat { st := .ready, desc := some x, label := (s1.router (dieOf c)).lself }
        | _, _ => s1
      (d = none → st = 1) ∧ (o.sd = 0 → exec (.grpset o) s = ends (next r)) ∧
      (o.sd ≠ 0 → r.writeRun (t1.whoMap c .f) .wr (at_ o.sd) (leBytes 8 st) = (s2, none) → exec (.grpset o) s = ends (next s2))) ∧
    (∀ o : GrpstatOp, needs = true → free (at_ o.sd) 8 →
      let g := t.group o.cg
      let st := match g.st with | .unset => 0 | .ready => 1 | .busy => 2 | .aborted => 3
      let members := match g.desc with
        | some d => 2 ^ ((List.range 14).countP fun i => d.mask.getLsbD i)
        | none => 0
      let v := st + g.cause.code * 2 ^ 8 + members * 2 ^ 16 + g.done % 2 ^ 32 * 2 ^ 32
      (o.sd = 0 → exec (.grpstat o) s = ends (next (s.begun t))) ∧
      (o.sd ≠ 0 → (s.begun t).writeRun (t1.whoMap c .f) .wr (at_ o.sd) (leBytes 8 v) = (s2, none) →
        exec (.grpstat o) s = ends (next s2))) ∧
    (∀ o : MldredOp, needs = true →
      let g := t.group o.cg
      let present (l : BitVec 14) : Bool := (((s.begun t).router (dieOf c)).physOf ((s.begun t).router (dieOf c)).inj l).isSome
      let router := (s.begun t).router (dieOf c)
      let key : BitVec 16 := ((s.begun t).fabOf n).extractLsb' 0 16
      let records (x : Cause) (l : Option (BitVec 14)) (st : GroupState) (parts : List HeldPart) : Prop :=
        ∃ u u', exec (.mldred o) s = .next u ∧ u.task c = some u' ∧
          u'.defer.getLast? = some ⟨t.fseq, x, (t.strand .f).pc, 0, l, o.cg⟩ ∧ (∀ y ∈ t.defer, y ∈ u'.defer) ∧
          (u'.group o.cg).st = st ∧ u'.fseq = t.fseq + 1 ∧ u.contribs = parts ∧
          (st = .aborted → (u'.group o.cg).absent = l)
      (g.st = .unset ∨ (g.st = .ready ∧ g.desc = none) → exec (.mldred o) s = unset) ∧
      (g.st = .busy → exec (.mldred o) s = .next (s.waiting t)) ∧
      (g.st = .aborted → records g.cause g.absent .aborted s.contribs) ∧
      (∀ d, g.st = .ready → g.desc = some d →
        (∀ l, l ∈ d.members → present l = false → (∀ x ∈ d.members, x < l → present x = true) →
          records .peerAbsent (some l) .aborted
            (s.contribs.filter fun x => !([0, 1].contains x.die && forEpisode d g ((s.begun t).ctx n).fid x.msg))) ∧
        ((∀ l ∈ d.members, present l = true) → router.keyEntry router.inj key = none →
          records .partitionKey none .ready s.contribs) ∧
        (∀ b, (∀ l ∈ d.members, present l = true) → (router.keyEntry router.inj key).isSome →
          free (at_ o.sb) (d.count * (d.oty.width / 8)) → free (at_ o.sa) (d.count * (d.ity.width / 8)) →
          (s.begun t).readRun { t1.whoMap c .f with unit := d.ity.width / 8 } .rd (at_ o.sa) (d.count * (d.ity.width / 8)) =
            (s1, .ok b) →
          let m := contribOf d g (s1.ctx n).fid key router.inj b
          m.label = g.label ∧ m.gid = d.gid ∧ m.mask = d.mask ∧ m.op = d.op ∧ m.episode = g.done ∧ m.count = d.count ∧
          m.vals.length = d.count ∧
          (∀ i < d.count,
            let x := leNat ((b.drop (i * (d.ity.width / 8))).take (d.ity.width / 8))
            (m.vals.getD i 0).toNat = (if d.ity = .f32 then x else (convert .f32 d.ity .rne false false x).1) % 2 ^ 32) ∧
          (∀ x, s1.contribute (dieOf c) d m = .error (s2, x) → records x none .ready s2.contribs) ∧
          (s1.contribute (dieOf c) d m = .ok s2 →
            ∃ u u', exec (.mldred o) s = .next u ∧ u.task c = some u' ∧ u.contribs = s2.contribs ∧
              ⟨dieOf c, s1.now (dieOf c), m⟩ ∈ u.contribs ∧ (u'.group o.cg).st = .busy ∧
              (u'.group o.cg).out = BitVec.ofNat 56 (at_ o.sb) ∧ u'.fseq = t.fseq + 1 ∧ u.mem = s.mem)))) ∧
    (∀ o : McastOp, needs = true →
      let g := t.group o.cg
      let len := (sget e.s o.sd).toNat
      let there : Prop := (g.st = .ready ∨ g.st = .busy) ∧ g.desc ≠ none
      (¬there → exec (.mcast o) s = unset) ∧
      (there → 2 ^ 32 < len → exec (.mcast o) s = .next (s.faulted t { cause := .reservedField })) ∧
      (there → len = 0 → exec (.mcast o) s = ends (next (s.begun t))) ∧
      (∀ d b, g.st = .ready ∨ g.st = .busy → g.desc = some d → 0 < len → len ≤ 2 ^ 32 → free (at_ o.sa) len →
        (s.begun t).readRun { t1.whoMap c .f with unit := bulkUnit (at_ o.sa) (at_ o.sb) len } .rd (at_ o.sa) len =
          (s1, .ok b) →
        ∃ u l, exec (.mcast o) s = .next u ∧ u.reqs = s1.reqs ++ l ∧ u.mem = s.mem ∧
          l.map (·.dst) = d.members.filter (· != (s1.router (dieOf c)).lself) ∧
          ∀ r ∈ l, r.op = .put b ∧ r.va = (sget e.s o.sb).setWidth 56 ∧ r.ctx = n ∧ r.core = c)) ∧
    (needs = false →
      let writing : Prop := ∃ r ∈ s.reqs, r.ctx = n ∧ r.image = t.image ∧
        (match r.op with | .read _ | .get _ | .fetch _ => False | _ => True)
      let running : Prop := (∃ r ∈ s.reqs, r.ctx = n ∧ r.image = t.image) ∨ ∃ g ∈ t.groups, g.2.st = .busy
      exec .syncF s = ends (next (s.begun t)) ∧
      (writing → exec .rfence s = .next (s.waiting t)) ∧ (¬writing → exec .rfence s = ends (next (s.begun t))) ∧
      (running → exec .rwait s = .next (s.waiting t)) ∧ (¬running → exec .rwait s = ends (next (s.begun t))))

/-! ## Job words (12) -/

/-- R337 to R340, R348: the J words that submit a card. A misaligned card or completion record is rejected with status 3, a
full intake with 1, a spent quota with 2, each storing its status where s[SD] names a place and submitting nothing; else the
job is accepted under the context's next handle, which the word stores, and a card whose fields are invalid then faults
DESCRIPTOR_INVALID. The card is read, as an acquire, after what happens before the word is at its home and visible at module scope
(R131). That an invalid card consumes no handle is the model's reading (log 34); that the job of an invalid context is accepted and
ends at once, and that a full intake comes before a spent quota, are its choices (logs 69, 79). -/
def Claims.JobSubmissions : Prop :=
  ∀ (s s1 s2 s3 : State) (t : Machine.Task) (n kind : Nat) (o : JsubOp) (i : Instr), s.Ready true t → s.cur.eng = .j →
    t.ctx = some n → (kind, i) ∈ [(1, Instr.jcopy o), (2, .jfill o), (3, .jsel o), (4, .jpage o), (5, .jspan o),
      (6, .jcommit o), (7, .jtag o)] →
    let c := s.cur.core
    let e := s.env t
    let a := (sget e.s o.scard + o.imm.signExtend 64).toNat % 2 ^ 56
    let d := (sget e.s o.sd).toNat % 2 ^ 56
    let mute (u : State) : State := { u with cur := { u.cur with clauses := { u.cur.clauses with sig := none } } }
    let rejects (u : State) (st : Nat) : Prop :=
      (o.sd = 0 → exec i s = .next ((mute u).passed (t.strand .j).pc [])) ∧
      (o.sd ≠ 0 → u.writeRun (t.whoAs c .j) .wr d (leBytes 8 st) = (s3, none) →
        exec i s = .next ((mute s3).passed (t.strand .j).pc []))
    (a % 128 ≠ 0 → rejects (s.begun t) 3) ∧
    ∀ v, a % 128 = 0 → ((s.begun t).beforeJob c).readNat (t.whoAs c .j) a 128 = (s1, .ok v) →
      let card : BitVec 1024 := BitVec.ofNat 1024 v
      let read := s1.acquire (.strand c .j) .module
      (cardCrec card % 32 ≠ 0 → rejects read 3) ∧
      ∀ foot, cardCrec card % 32 = 0 → (if cardBad kind card then (read, Except.ok (Except.ok none))
          else read.readFoot (t.whoAs c .j) card) = (s2, .ok (.ok foot)) →
        let g := s2.acquire (.strand c .j) .module
        let die := g.jobDie n (dieOf c) (foot.getD (derivedRegions card none))
        let busy := (g.jobs.filter fun j => j.die == die && j.code == 0).length
        let mine := (g.jobs.filter fun j => j.ctx == n && j.code == 0).length
        let h := nextHandle (SMap.look 0 g.jobHandle n)
        (1024 ≤ busy → rejects g 1) ∧
        (busy < 1024 → (g.ctx n).jquota ≤ mine → rejects g 2) ∧
        (busy < 1024 → mine < (g.ctx n).jquota → (s3 = g ∧ o.sd = 0 ∨ o.sd ≠ 0 ∧
            g.writeRun (t.whoAs c .j) .wr d (leBytes 8 (h * 2 ^ 32)) = (s3, none)) →
          (cardBad kind card = true → exec i s =
            .next (s3.takeFault c .j { cause := .descriptorInvalid, addr := BitVec.ofNat 56 a })) ∧
          (cardBad kind card = false → (∀ x ∈ s3.jobs, x.seq < s3.jobSeq) →
            ∃ (u : State) (u' : Machine.Task) (j : Job), exec i s = .next (u.passed (t.strand .j).pc [.job h]) ∧ u.task c = some u' ∧ u'.jobs = t.jobs ++ [h] ∧
            j ∈ u.jobs ∧ j.ctx = n ∧ j.handle = BitVec.ofNat 32 h ∧ j.card = card ∧ j.foot = foot ∧ j.die = die ∧
            j.code = (if (s3.badCtx n).isSome then 4 else 0) ∧ SMap.look 0 u.jobHandle n = h ∧
            ∀ x ∈ u.jobs, x.seq < u.jobSeq))

/-- R347 to R349: JNODE writes its record to the slot of the queue's next count, and adds 1 to WPTR, or is rejected with
status 3, 2 or 1; JSTAT stores the code of a job's state, 6 for one that is not known or not among the context's 4,096 latest;
JWAIT stores it once the job has ended and waits till then, its issue signal applied as the wait begins, JWAIT.all for all the
task's jobs; each is an acquire; JCANCEL of a job that has not run ends it and stores 0, of another
1, of an unknown one 2; a handle with a bit above 31, a queue number above 255, or no place for the result fault
RESERVED_FIELD. That JNODE tests 3, then 2, then 1 is the model's choice (log 80). -/
def Claims.JobWords : Prop :=
  ∀ (s s1 s2 s3 : State) (t : Machine.Task) (n : Nat), s.Ready true t → s.cur.eng = .j → t.ctx = some n →
    let c := s.cur.core
    let e := s.env t
    let ends (u : State) : Outcome := .next (u.passed (t.strand .j).pc [])
    let bad : Outcome := .next (s.faulted t { cause := .reservedField })
    let d (x : SReg) : Nat := (sget e.s x).toNat % 2 ^ 56
    let stores (i : Instr) (u : State) (sd : SReg) (v : Nat) : Prop :=
      (u.waitedJ c).writeRun (t.whoAs c .j) .wr (d sd) (leBytes 8 v) = (s3, none) → exec i s = ends s3
    let waits (i : Instr) : Prop :=
      ((t.strand .j).phase = .issued → exec i s = .next (s.waiting t)) ∧
      ((t.strand .j).phase ≠ .issued → ∃ u u', exec i s = .next u ∧ u.task c = some u' ∧ (u'.strand .j).phase = .issued ∧
        u.mem = s.mem)
    (∀ o : JnodeOp,
      let a := (sget e.s o.scard + o.imm.signExtend 64).toNat % 2 ^ 56
      let qn := (sget e.s o.sa).toNat
      let q := s.queue qn
      let size := 2 ^ (bits q.qcfg 27 24 + 4)
      let mute (u : State) : State := { u with cur := { u.cur with clauses := { u.cur.clauses with sig := none } } }
      let rejects (st : Nat) : Prop :=
        (o.sd = 0 → exec (.jnode o) s = ends (mute (s.begun t))) ∧
        (o.sd ≠ 0 → (s.begun t).writeRun (t.whoAs c .j) .wr (d o.sd) (leBytes 8 st) = (s3, none) →
          exec (.jnode o) s = ends (mute s3))
      (255 < qn → exec (.jnode o) s = bad) ∧
      (qn ≤ 255 → a % 128 ≠ 0 → rejects 3) ∧
      (qn ≤ 255 → a % 128 = 0 → (s.begun t).ownsQueue n qn = false → rejects 2) ∧
      (qn ≤ 255 → a % 128 = 0 → (s.begun t).ownsQueue n qn = true →
        (q.wptr - q.rptr = BitVec.ofNat 32 size → rejects 1) ∧
        (∀ b, q.wptr - q.rptr ≠ BitVec.ofNat 32 size →
          (s.begun t).readRun (t.whoAs c .j) .rd a 128 = (s1, .ok b) →
          let x := s1.queue qn
          (s1.acquire (.strand c .j) .module).writeHome (t.whoMap c .j)
            (bits x.qring 55 0 + 128 * (x.wptr.toNat % 2 ^ (bits x.qcfg 27 24 + 4))) b = (s2, none) →
          (s3 = s2 ∧ o.sd = 0 ∨ o.sd ≠ 0 ∧
            s2.writeRun (t.whoAs c .j) .wr (d o.sd) (leBytes 8 (x.wptr.toNat * 2 ^ 32)) = (s3, none)) →
          let r := s3.releaseNow (.strand c .j) .module
          exec (.jnode o) s = ends (r.setQueue qn { r.queue qn with wptr := (r.queue qn).wptr + 1 })))) ∧
    (∀ o : JhOp,
      let h : BitVec 32 := (sget e.s o.sa).setWidth 32
      let last := SMap.look 0 s.jobHandle n
      let age := if h.toNat ≤ last then last - h.toNat else last + (2 ^ 32 - 1) - h.toNat
      let job := if age < 4096 then s.jobs.find? fun j => j.ctx == n && j.handle == h && j.node.isNone else none
      let code := match job with | some j => j.code | none => 6
      let all := t.jobs.map fun h => (h, (s.begun t).jobFate n (BitVec.ofNat 32 h))
      (o.sd = 0 → exec (.jwait o) s = bad ∧ exec (.jwaitAll o) s = bad ∧ exec (.jstat o) s = bad ∧ exec (.jcancel o) s = bad) ∧
      ((sget e.s o.sa).extractLsb' 32 32 ≠ 0 → exec (.jwait o) s = bad ∧ exec (.jstat o) s = bad ∧
        exec (.jcancel o) s = bad) ∧
      (o.sd ≠ 0 → (sget e.s o.sa).extractLsb' 32 32 = 0 →
        stores (.jstat o) (s.begun t) o.sd code ∧
        (2 ≤ code → stores (.jwait o) (s.begun t) o.sd code) ∧
        (code < 2 → waits (.jwait o)) ∧
        (job = none → stores (.jcancel o) (s.begun t) o.sd 2) ∧
        (∀ j, job = some j → j.code ≠ 0 → stores (.jcancel o) (s.begun t) o.sd 1) ∧
        (∀ j, job = some j → j.code = 0 → (s.begun t).recordRefused j = false →
          stores (.jcancel o) (((s.begun t).endJob j .cancelled).jobShown (s.begun t) j) o.sd 0) ∧
        (∀ j, job = some j → j.code = 0 → (s.begun t).recordRefused j = true → waits (.jcancel o))) ∧
      (o.sd ≠ 0 → (∃ x ∈ all, x.2 < 2) → waits (.jwaitAll o)) ∧
      (o.sd ≠ 0 → (∀ x ∈ all, x.2 = 2) → stores (.jwaitAll o) (s.begun t) o.sd 2) ∧
      (∀ x, o.sd ≠ 0 → (∀ x ∈ all, 2 ≤ x.2) → all.find? (fun x => x.2 != 2) = some x →
        stores (.jwaitAll o) (s.begun t) o.sd (x.2 + x.1 * 2 ^ 32))) ∧
    exec .syncJ s = ends (s.begun t)


/-! ## What the part does by itself: signals, writes on their way, parked words and fills (02, 04, 05, 21) -/

/-- R33, R34, R36: the earliest of a task's pending signals whose tokens have all come is applied, with the writes it stands for:
its semaphore gains INC + 1 and the strands that wait on it look again, or the task takes SEM_OVERFLOW and keeps the value, and the
signal is pending no more; that of a saved task goes to its image. -/
def Claims.PendingSignals : Prop :=
  ∀ (s : State) (t : Machine.Task) (p : PendSig) (l r : List PendSig),
    let n := s.input.unit
    t.sigs = l ++ p :: r → (∀ q ∈ l, ∃ k ∈ q.until_, s.tokenMet t k = false) → (∀ k ∈ p.until_, s.tokenMet t k = true) →
    let t' : Machine.Task := { t with sigs := l ++ r }
    let inc : BitVec 16 := p.clause.inc.setWidth 16 + 1
    (n < 194 → s.task n = some t →
      let x := t.semOf p.clause.sem
      let v := x.val + inc
      ((v.setWidth 8 - x.floor).toNat ≤ 127 →
        exec .signalClause s = .next (((s.setTask n t').pairFor n p.clause p.ids).setTask n
          (t'.changeSem p.clause.sem { x with val := v }))) ∧
      (127 < (v.setWidth 8 - x.floor).toNat → exec .signalClause s = .next ((s.setTask n t').takeFaultAt n p.eng p.pc
        { cause := .semOverflow, pc := p.pc, info := BitVec.ofNat 64 (p.clause.sem.toNat + 256 * (n % 256)),
          again := some (p.clause, p.ids) }))) ∧
    (∀ m, 194 ≤ n → s.images[n - 194]? = some m → m.task = t →
      let a := m.addr + 0x2a00 + 4 * p.clause.sem.toNat
      let old := s.physNat a 4
      let v : BitVec 16 := BitVec.ofNat 16 old + inc
      let floor : BitVec 8 := BitVec.ofNat 8 (old / 2 ^ 16)
      let kept : State := { s with images := s.images.map fun x => if x.addr = m.addr then { x with task := t' } else x }
      (v.setWidth 8 - floor).toNat ≤ 127 →
        exec .signalClause s = .next (kept.quietStore a (leBytes 4 (v.toNat + floor.toNat * 2 ^ 16))))

/-- R35, R466: a signal that another module's fabric brings passes the checks of the die's router or is dropped; it is then applied
to the task of the context with its identity by its INC, or leaves SEM_OVERFLOW with the sender's label; that of a saved task goes to
its image; one that names no task changes nothing. That it stands for all that the die has seen is the model's reading (log 7). -/
def Claims.ArrivingSignals : Prop :=
  ∀ (s : State) (m : RsigMsg), s.input.load = .sig m → s.input.unit < 2 →
    let die := s.input.unit
    let fault : FaultInfo := { cause := .semOverflow, origin := 5, label := some m.srcLabel,
                               info := BitVec.ofNat 64 (m.sem.toNat + m.srcCore.toNat * 256) }
    (∀ c r, (s.router die).admits m.bank m.key = some (c, r) → exec .rsigArrival s = .next (s.setRouter die r)) ∧
    ((s.router die).admits m.bank m.key = none →
      (s.ctxOfFid m.fid = none → exec .rsigArrival s = .next s) ∧
      ∀ n, s.ctxOfFid m.fid = some n →
        (s.sigTarget n m = none → exec .rsigArrival s = .next s) ∧
        (∀ x, s.sigTarget n m = some (.inr x) → exec .rsigArrival s = .next (s.signalImage x m.sem m.inc fault)) ∧
        ∀ c t, s.sigTarget n m = some (.inl c) → s.task c = some t →
          let x := t.semOf m.sem
          let v := x.val + m.inc
          ((v.setWidth 8 - x.floor).toNat ≤ 127 →
            exec .rsigArrival s = .next ((s.pairAll c m.sem).setTask c (t.changeSem m.sem { x with val := v }))) ∧
          (127 < (v.setWidth 8 - x.floor).toNat → exec .rsigArrival s = .next (s.taskFault c fault)))

/-- R126, R127: the oldest write of a die on its way is applied at its home once the writes that its stamp covers have been, by a
comparison modulo 2^32 of each position's counter, and its die's counter follows; until then nothing happens. With no tile dirty in
its lines, each byte then reads at its home as written, and every other byte as before. -/
def Claims.WritesCrossInOrder : Prop :=
  ∀ (s : State) (w : XWrite) (l : List XWrite),
    let die := s.input.unit
    let reached (x : Nat × BitVec 32) : Prop := 0 ≤ (s.appliedOf x.1 - x.2).toInt
    s.flight die = w :: l →
    ((∃ x ∈ w.need, ¬reached x) → exec .causalWriteApply s = .next s) ∧
    ((∀ x ∈ w.need, reached x) → ∃ u : State, exec .causalWriteApply s = .next u ∧ u.flight die = l ∧
      u.appliedOf (s.stampAt die) = s.appliedOf (s.stampAt die) + 1 ∧ (∀ d, d ≠ die → u.flight d = s.flight d) ∧
      (∀ p, p ≠ s.stampAt die → u.appliedOf p = s.appliedOf p) ∧
      ((∀ d ∈ s.dirty, d.1 ∉ linesOf w.addr w.bytes.length) → ∀ pa, u.homeByte pa =
        if w.addr ≤ pa ∧ pa < w.addr + w.bytes.length then w.bytes.getD (pa - w.addr) 0 else s.homeByte pa))

/-- R294, R433: a TVACQ that waits reads again. A refused access goes again when its gap is over, and faults MIGRATION_BUSY at
its word and address once RTMO has passed since it was first refused. -/
def Claims.WaitingAccesses : Prop :=
  ∀ (s : State) (t : Machine.Task),
    let c := s.input.unit
    s.task c = some t →
    ((t.strand .a).phase = .rereading →
      exec .versionReread s = .next (s.setTask c (t.setStrand .a { t.strand .a with phase := .begun }))) ∧
    ∀ (e : Eng) (r : Retry), e ≠ .x → s.input.load = .num (Machine.Eng.num e) → (t.strand e).retry = some r → r.go = false →
      let x := t.strand e
      let rtmo := match t.ctx with
        | some n => (s.ctx n).rtmoTicks
        | none => 1000000
      let now := s.now (dieOf c)
      let past := (now - r.since).toNat
      (rtmo ≤ past → exec .refusedAccessRetry s = .next ((s.setTask c (t.setStrand e { x with retry := none })).takeFault c e
        { cause := .migrationBusy, addr := r.addr })) ∧
      (past < rtmo → r.next ≤ now →
        exec .refusedAccessRetry s = .next (s.setTask c (t.setStrand e { x with retry := some { r with go := true } }))) ∧
      (past < rtmo → now < r.next → exec .refusedAccessRetry s = .next s)

/-- R101, R106, R107: a channel's directory recalls its oldest registration: the tile that made it is written back, clean and
without registrations; when its write-back faults it is held, gives up that registration alone, and its running owner keeps the fault
for the next word it reaches. A channel without a registration recalls nothing. -/
def Claims.Recalls : Prop :=
  ∀ (s s1 : State) (x : Tile) (l r : List (Nat × Nat × TileName)) (line c : Nat),
    let mine (d : Nat × Nat × TileName) : Prop := channelOf (d.1 * 64) = s.input.unit
    ((∀ d ∈ s.dirty, ¬mine d) → exec .tileWriteBack s = .next s) ∧
    (s.dirty = l ++ (line, c, x.name) :: r → (∀ d ∈ l, ¬mine d) → mine (line, c, x.name) →
      (s.core c).tile x.name = some x →
      (s.writeBack c x = (s1, none) → exec .tileWriteBack s = .next s1 ∧
        (∃ y, (s1.core c).tile x.name = some y ∧ y.dirty = false ∧ y.held = none ∧ y.data = x.data) ∧
        ∀ d ∈ s1.dirty, d.2 ≠ (c, x.name)) ∧
      (∀ f, s.writeBack c x = (s1, some f) → s1.ownerRuns c x = true → exec .tileWriteBack s =
        .next (({ s1 with dirty := s1.dirty.filter (· != (line, c, x.name)) } : State).modTask c fun k =>
          { k with recalls := k.recalls ++ [{ f with origin := 2, k := x.name.k }] })))

/-- R25, R92, R391: a task that has nothing left to do leaves its core, its pins, its lease and its posted request, and its save
image is reserved no more; no other core's task changes; with the last task of its team the team is over, its images are free and its
node counts it. -/
def Claims.TasksEnd : Prop :=
  ∀ (s : State) (t : Machine.Task),
    let c := s.input.unit
    s.task c = some t → t.kernel = false → s.localDone t = true →
    ∃ u, exec .taskEnd s = .next u ∧ u.task c = none ∧ (∀ d, d ≠ c → u.task d = s.task d) ∧
      (u.cluster c).holder ≠ some c ∧ c ∉ (u.cluster c).reqs ∧ (∀ x ∈ (u.core c).tiles, x.pinned = false) ∧
      (∀ n, t.ctx = some n → (n, t.image) ∉ u.reservedImages ∧ ∀ x ∈ u.teams, x.ctx = n → t.image ∉ x.images) ∧
      ∀ tm, s.teamOf t = some tm → (∀ x ∈ s.teamTasks tm, x.1 = c) →
        (∀ m ∈ s.images, ¬(m.task.node = tm.node ∧ m.task.team = tm.num)) →
        (∀ x ∈ u.teams, ¬(x.node = tm.node ∧ x.num = tm.num)) ∧
        (∀ i ∈ tm.images, (tm.ctx, i) ∉ u.reservedImages) ∧
        ∀ n, s.node tm.node = some n → ∃ n', u.node tm.node = some n' ∧ n'.ended = n.ended ++ [tm.num]

/-- R95 to R97, R262, R433, R440: a parked word whose tiles are all there and whose refused access is not waiting, an array word
only under the lease and within its quantum, executes with the operands it read at issue and is parked no more, the others staying;
while a tile is missing its fill is started. Its fault is the task's, with ORIGIN 1 at its word, once no earlier word of its strand is
parked; until then it waits. -/
def Claims.ParkedWordsExecute : Prop :=
  ∀ (s s2 : State) (t : Machine.Task) (p : Parked) (w : TileWord),
    let c := s.input.unit
    let a : Agent := .strand c p.env.eng
    s.task c = some t → t.replay[s.input.idx]? = some p → tileWordOf p.instr = some w → t.mayReplay p = true →
    Retry.early p.retry (s.now (dieOf c)) = false →
    (s.allHit t p.uses = false →
      ∃ u', exec .replayExecute s = .next (s.setTask c u') ∧ u'.replay = t.replay ∧
        ∀ x ∈ p.uses, x.fill = true → s.hitTile t x = none →
          ∃ f ∈ u'.fills, f.core = x.core ∧ f.slot = x.slot ∧ f.k = x.k) ∧
    (s.allHit t p.uses = true → ((accOf p.instr).isSome = true → (s.cluster c).holder = some c ∧
        s.mustPass (s.cluster c) = false) →
      let r := w.act p.env { s with cur := ⟨c, p.env.eng, p.clauses, 0⟩ } c t p.uses
      (r = .done s2 → exec .replayExecute s =
        .next (((s2.finishUses c t p.uses).wroteAs s (some a)).unpark c p (s2.wroteSince s.order.next (some a)))) ∧
      ∀ f, r = .fault s2 f →
        (t.parkedEarlier p.env.eng p.epoch p.path = true → exec .replayExecute s = .next s) ∧
        (t.parkedEarlier p.env.eng p.epoch p.path = false → f.after = false → exec .replayExecute s =
          .next ((s2.wroteAs s (some a)).taskFault c
            { f with origin := 1, strand := some p.env.eng, pc := p.env.pc, parked := true }))) ∧
    ∀ (v : State) (t2 : Machine.Task) (ids : List Nat), v.task c = some t2 → ∃ t3, (v.unpark c p ids).task c = some t3 ∧
      ∀ q, q ∈ t3.replay ↔ q ∈ t2.replay ∧ ¬(q.env.eng = p.env.eng ∧ q.epoch = p.epoch ∧ q.path = p.path)

/-- R94, R97, R120, R304: a fill of a tile that is not there reads the tile and installs it, clean, with the version it was started under;
its elements are those read, and the fill is over; a stale dirty tile of the name is written back before. An itinerary's next
fill does the same under the slot's acquired version, and is passed over, and counted, when its tile cannot be read. A fill for the A
strand, and an itinerary's, comes once every earlier A word's access to the same places has (R120, R304). -/
def Claims.TilesAreFilled : Prop :=
  ∀ (s s0 s1 s2 : State) (t : Machine.Task) (y : Filled) (way : Nat) (pin : Bool),
    let c := s.input.unit
    let i := s.input.idx
    let filled (core : Nat) (n : TileName) (v : BitVec 32) (own : Nat) (rest : Machine.Task → Prop) : Prop :=
      ∃ u u' x, exec .tileFill s = .next u ∧ u.task c = some u' ∧ rest u' ∧ (u.core core).tile n = some x ∧ x.ver = v ∧
        x.dirty = false ∧ x.pinned = pin ∧ x.way = way ∧ x.age = 0 ∧ x.mask = y.mask ∧ x.owner = own ∧
        ∀ k < y.data.length, x.elem k = y.data.getD k 0
    s.task c = some t →
    (∀ (f : Fill) (p : Parked) (o : Machine.Task) (b : Binding),
      let n : TileName := ⟨t.asid, f.slot, f.k⟩
      t.fills[i]? = some f → p ∈ t.replay → (p.env.eng = f.eng ∧ p.epoch = f.epoch ∧ p.path = f.path) →
      s.task f.core = some o → o.asid = t.asid → s.hitTile t ⟨f.core, f.slot, f.k, false, true, false, false⟩ = none →
      o.binding f.slot = some b → s.peerMoved c t f = false →
      (f.eng = .a → s.fillBehind c t o f = false) →
      s.flushStale t [f.use] = (s0, none) →
      s0.readTile { o.who f.core with agent := some (.strand c f.eng), place := some (f.runs, f.epoch, f.path) } o f.slot f.k =
        (s1, .ok y) →
      s1.makeRoom f.core n [] = .ok s2 way pin →
      filled f.core n f.av o.uid fun u' => u'.fills = t.fills.eraseIdx i) ∧
    (∀ (x : Itinerary) (k : BitVec 128) (l : List (BitVec 128)) (b : Binding),
      t.fills.length ≤ i → t.itins[i - t.fills.length]? = some x → x.todo = k :: l → t.binding x.slot = some b →
      s.hitTile t ⟨c, x.slot, k, false, true, false, false⟩ = none →
      s.aBehind c t x.runs (fun e p => before e p x.epoch x.path) (s.tilePlaces (t.who c) t x.slot k) = false →
      s.flushStale t [⟨c, x.slot, k, false, true, false, false⟩] = (s0, none) →
      let w : Who := { t.whoMap c .a with place := some (x.runs, x.epoch, x.path) }
      (s0.readTile w t x.slot k = (s1, .ok y) → s1.makeRoom c ⟨t.asid, x.slot, k⟩ [] = .ok s2 way pin →
        filled c ⟨t.asid, x.slot, k⟩ b.av t.uid fun u' => u'.fills = t.fills ∧ (l = [] →
          u'.itins = t.itins.eraseIdx (i - t.fills.length))) ∧
      (∀ e, s0.readTile w t x.slot k = (s1, .error e) → ∃ (u : State) (u' : Machine.Task), exec .tileFill s = .next u ∧ u.task c = some u' ∧
        u'.fills = t.fills ∧ (u.core c).skips = (s1.core c).skips + 1))

/-! ## Clusters and generators by themselves (10, 11) -/

/-- R262: a free array goes to the first requesting core of its cluster in ascending order after the last holder, and its
quantum opens with the bounds that its partition gives then. At a bound the lease passes on, its holder's request posted last, when another core requests; when none does,
the quantum restarts. That a cycle is 20/21 of a tick is the model's reading (log 6), and that before there has been a holder the
cluster's first core counts as the last one is its choice (log 74). -/
def Claims.LeaseArbitration : Prop :=
  ∀ s : State,
    let k := s.input.unit
    let cl := s.clusterAt k
    (cl.holder ≠ none ∨ (∀ d ∈ cl.reqs, d / 4 ≠ k) → exec .leaseGrant s = .next s) ∧
    (∀ c, cl.holder = none → c ∈ cl.reqs → c / 4 = k →
      (∀ d ∈ cl.reqs, d / 4 = k → (c % 4 + 3 - cl.last % 4) % 4 ≤ (d % 4 + 3 - cl.last % 4) % 4) →
      ∃ cl', exec .leaseGrant s = .next (s.putCluster k cl') ∧ cl'.holder = some c ∧ (∀ d, d ∈ cl'.reqs ↔ d ∈ cl.reqs ∧ d ≠ c) ∧
        cl'.last = c ∧ cl'.words = 0 ∧ cl'.since = s.now (dieOf c) ∧ cl'.qcmd = (s.quantum c).1 ∧ cl'.qcyc = (s.quantum c).2 ∧ cl'.sets = cl.sets ∧ cl'.level = cl.level) ∧
    (cl.holder = none → exec .leaseQuantumExpiry s = .next s) ∧
    ∀ c, cl.holder = some c →
      let over_ : Prop := cl.qcmd ≤ cl.words ∨ cl.qcyc ≤ (s.now (dieOf c) - cl.since).toNat
      (¬over_ → exec .leaseQuantumExpiry s = .next s) ∧
      (over_ → cl.reqs ≠ [] → exec .leaseQuantumExpiry s =
        .next (s.putCluster k { cl with holder := none, last := c, reqs := cl.reqs ++ [c] })) ∧
      (over_ → cl.reqs = [] → exec .leaseQuantumExpiry s =
        .next (s.putCluster k { cl with
          words := 0, since := s.now (dieOf c), qcmd := (s.quantum c).1, qcyc := (s.quantum c).2 }))

/-- R283: the current level of a cluster rises by one eighth, to 8 or where a sensor is hot to 4 at most, while a
declaration stands or the holder has an array word ready, which ends ramp-down; else it falls by one while ramp-down runs, and a hot
sensor's bound holds it too; a
declaration lapses 4,096 cycles after its core's last array word; ramp-down starts 256 cycles after the last array work, or at its end where an MBURST.end has asked for it.
That a level is held by stepping no higher than 4, and that a cycle is 20/21 of a tick, are the model's readings (logs 6,
47, 48). -/
def Claims.CurrentLevels : Prop :=
  ∀ s : State,
    let k := s.input.unit
    let cl := s.clusterAt k
    let ready : Prop := ∃ c t p, cl.holder = some c ∧ s.task c = some t ∧ p ∈ t.replay ∧ (accOf p.instr).isSome = true ∧
      s.allHit t p.uses = true
    let busy : Prop := cl.bursts ≠ [] ∨ ready
    let idle := (s.now (dieOf (4 * k)) - cl.lastWork).toNat
    let cap : Nat := if ∃ x ∈ s.sensors, x.2.throt.toInt < x.2.value.toInt then 4 else 8
    (busy → exec .arrayLevelStep s = .next (s.putCluster k { cl with level := min cap (cl.level + 1), falling := false })) ∧
    (¬busy → exec .arrayLevelStep s =
      .next (s.putCluster k { cl with level := min cap (if cl.falling then cl.level - 1 else cl.level) })) ∧
    (¬busy → cl.soon = true ∨ 256 * 20 / 21 ≤ idle →
      exec .rampDownStart s = .next (s.putCluster k { cl with falling := true, soon := false })) ∧
    (busy ∨ cl.soon = false ∧ idle < 256 * 20 / 21 → exec .rampDownStart s = .next s) ∧
    ∃ cl', exec .burstLapse s = .next (s.putCluster (k / 4) cl') ∧
      ({ cl' with bursts := [] } : Cluster) = { s.clusterAt (k / 4) with bursts := [] } ∧
      ∀ b, b ∈ cl'.bursts ↔ b ∈ (s.clusterAt (k / 4)).bursts ∧
        ¬(b.1 = k ∧ 4096 * 20 / 21 ≤ (s.now (dieOf k) - b.2).toNat)

/-- R120, R303 to R309, R433: an entry of a running load is read, element by element, and pushed at the tail of its queue when there
is room; the run goes on to the next entry, or is over with its last. An entry of a running store is the head of its queue, written
and popped. Without room, or without an entry, the run waits, as it does behind an earlier A word's access to the same places, and as a
store run does for its refused write and while its die has 2^30 writes unapplied (R127). -/
def Claims.GeneratorEntries : Prop :=
  ∀ (s s1 : State) (t : Machine.Task) (y : Gen),
    let c := s.input.unit
    let g := s.input.idx
    let x := t.gen g
    let q : List Vec := SMap.look [] t.q x.queue
    let ps := (x.kind.parts x.entry).drop x.elem
    let moves (i : Instr) (r : List Vec) : Prop := ∃ u u', exec i s = .next u ∧ u.task c = some u' ∧
      SMap.look [] u'.q x.queue = r ∧ (∀ n, n ≠ x.queue → SMap.look [] u'.q n = SMap.look [] t.q n) ∧
      (x.entry + 1 < x.kind.count → (u'.gen g).entry = x.entry + 1 ∧ (u'.gen g).elem = 0 ∧ (u'.gen g).mode = .running) ∧
      (x.kind.count ≤ x.entry + 1 → (u'.gen g).mode = .idle) ∧ (∀ n, n ≠ g → u'.gen n = t.gen n) ∧
      u'.s = t.s ∧ u'.v = t.v ∧ ∀ die pa, u.byteOn die pa = s1.byteOn die pa
    s.task c = some t → x.mode = .running →
    (s.runBehind c t x ps = true → exec .generatorLoadEntry s = .next s ∧ exec .generatorStoreEntry s = .next s) ∧
    (s.runBehind c t x ps = false →
      (x.load = true → (16 ≤ q.length → exec .generatorLoadEntry s = .next s) ∧
        (q.length < 16 → s.loadParts c g (t.whoAs c .a) x ps = (s1, .ok y) →
          moves .generatorLoadEntry (q ++ [y.part ||| x.kind.base x.entry]))) ∧
      (x.load = false → (q = [] → exec .generatorStoreEntry s = .next s) ∧
        (s.stalled c = true ∨ Retry.early x.retry (s.now (dieOf c)) = true → exec .generatorStoreEntry s = .next s) ∧
        ∀ v rest, q = v :: rest → s.stalled c = false → Retry.early x.retry (s.now (dieOf c)) = false →
          s.storeParts c g { t.whoAs c .a with place := some (x.run, 0, 0) } x v ps = (s1, .ok y) →
          moves .generatorStoreEntry rest))


/-! ## The control node, the registers above HBM and the links (01, 20, 21, 23, 25) -/

/-- R17, R110 to R112, R133, R435, R483: a control-node access is refused before READY, and once die 1 has found die 0 lost. Else a
write to device memory is applied at its home before the next, a read returns the bytes at their homes, and a compare-and-swap of 8
aligned bytes, after every write in flight, writes the new value where the old one is as expected, and answers what it found. What
meets a failed check or needs a lost line is reported and gives no bytes, as a misaligned compare-and-swap does: that empty answer is
the model's reading (log 38). -/
def Claims.Mailbox : Prop :=
  ∀ s : State,
    let a := s.input.unit
    let n := s.input.idx
    let refuses : State := { s with outbox := s.outbox ++ [.notReady a] }
    let answers (b : List Byte) : State := { s with outbox := s.outbox ++ [.answer a b] }
    let reports (u : State) (c : Cause) : Outcome := .next (({ u with mismatch := false } : State).manage 0
      { cause := c, addr := BitVec.ofNat 56 a, info := if c = .checkMismatch then 4 else 0 })
    let partly (b : List Byte) : Prop := ∃ l ∈ linesOf a b.length, l ∈ s.lost ∧ ¬(a ≤ l * 64 ∧ l * 64 + 64 ≤ a + b.length)
    let lost (k : Nat) : Prop := ∃ l ∈ linesOf a k, l ∈ s.lost
    (s.boot ≠ .ready ∨ (s.router 1).partnerLost = true → exec .controlNodeRead s = .next refuses ∧
      (∀ b, s.input.load = .bytes b → exec .controlNodeWrite s = .next refuses) ∧
      (∀ x y, s.input.load = .pair x y → exec .mailboxCas s = .next refuses)) ∧
    (s.boot = .ready → (s.router 1).partnerLost = false → whereIs a = .hbm →
      (∀ b, s.input.load = .bytes b →
        (s.mismatch = true → exec .controlNodeWrite s = reports s .checkMismatch) ∧
        (s.mismatch = false → partly b → exec .controlNodeWrite s = reports s .uncorrectableData) ∧
        (s.mismatch = false → ¬partly b → a + b.length ≤ hbmEnd →
          ∃ u : State, exec .controlNodeWrite s = .next u ∧ u.wb = s.wb ∧ u.reqs = s.reqs ∧
            ((∀ d ∈ s.dirty, d.1 ∉ linesOf a b.length) → ∀ pa, u.homeByte pa =
              if a ≤ pa ∧ pa < a + b.length then b.getD (pa - a) 0 else s.homeByte pa))) ∧
      (s.mismatch = false → ¬lost n →
        exec .controlNodeRead s = .next (answers ((List.range n).map fun i => s.homeByte (a + i)))) ∧
      (s.mismatch = true → exec .controlNodeRead s = reports (answers []) .checkMismatch) ∧
      (s.mismatch = false → lost n → exec .controlNodeRead s = reports (answers []) .uncorrectableData) ∧
      (∀ x y, s.input.load = .pair x y →
        (a % 8 ≠ 0 → exec .mailboxCas s = .next (answers [])) ∧
        (a % 8 = 0 → s.mismatch = false → lost 8 → exec .mailboxCas s = reports (answers []) .uncorrectableData) ∧
        (a % 8 = 0 → s.mismatch = true → exec .mailboxCas s = reports (answers []) .checkMismatch) ∧
        (a % 8 = 0 → s.mismatch = false → ¬lost 8 →
          let old := s.drain (s.flightIds 0 ++ s.flightIds 1)
          (∀ d ∈ old.dirty, d.1 ∉ linesOf a 8) →
          ∃ u : State, exec .mailboxCas s = .next u ∧
            u.outbox = old.outbox ++ [.casAnswer a (BitVec.ofNat 64 (old.physNat a 8))] ∧ u.wb = old.wb ∧
            u.physNat a 8 = (if old.physNat a 8 = x.toNat then y.toNat else old.physNat a 8) ∧
            ∀ pa, ¬(a ≤ pa ∧ pa < a + 8) → u.homeByte pa = old.homeByte pa)))

/-- R3, R399, R413, R458, R483, R485: the register writes of the control node, where its accesses are taken; elsewhere
they change nothing and are answered as not ready (R17, R483). QCFG keeps its fields alone; EN 1 ends a halt, and where EN
was 0 takes the level of the owning context's PRIO and stops the timer. WPTR, QRING, QTIME (a field of 0 stores 1) and a
temperature sensor's limits take what is written; read-only registers keep their values. -/
def Claims.RegisterWrites : Prop :=
  ∀ (s : State) (v : Word), s.input.load = .word v →
    let a := s.input.unit
    let orOne (x : Nat) : Nat := if x = 0 then 1 else x
    let refuses (x : Nat) : Outcome := .next { s with outbox := s.outbox ++ [.notReady x] }
    (s.mailboxUp = false → exec .registerWrite s = refuses a ∧
      (a < 256 → exec .qcfgWrite s = refuses (hbmEnd + 4096 * a) ∧ exec .wptrWrite s = refuses (hbmEnd + 4096 * a + 0x100)) ∧
      (a < 2 → exec .fepochWrite s = refuses (0x9020000008 + 0x100000 * a))) ∧
    (a < 256 → s.mailboxUp = true →
      let x := s.queue a
      let cfg := v &&& 0x80000fff0f000000
      exec .wptrWrite s = .next (s.setQueue a { x with wptr := v.setWidth 32 }) ∧
      (v.getLsbD 63 = false → exec .qcfgWrite s = .next (s.setQueue a { x with qcfg := cfg })) ∧
      (v.getLsbD 63 = true → ∃ y, exec .qcfgWrite s = .next (s.setQueue a y) ∧ y.qcfg = cfg ∧ y.halted = false ∧
        (x.halted = true → y.errIdx = 0 ∧ y.cause = 0) ∧ (x.halted = false → y.errIdx = x.errIdx ∧ y.cause = x.cause) ∧
        (x.qcfg.getLsbD 63 = false → y.timer = none ∧
          y.level = BitVec.ofNat 3 (s.ctx ((v.extractLsb' 32 12).toNat)).prio) ∧
        (x.qcfg.getLsbD 63 = true → y.timer = x.timer ∧ y.level = x.level) ∧
        y.qring = x.qring ∧ y.qtime = x.qtime ∧ y.wptr = x.wptr ∧ y.rptr = x.rptr)) ∧
    (∀ q, q < 256 → s.mailboxUp = true →
      let x := s.queue q
      let page := hbmEnd + 4096 * q
      (a = page + 0x008 → exec .registerWrite s = .next (s.setQueue q { x with qring := v &&& 0x00fffffffffff000 })) ∧
      (a = page + 0x010 → exec .registerWrite s = .next (s.setQueue q { x with
        qtime := BitVec.ofNat 64 (orOne (v.toNat / 2 ^ 48) * 2 ^ 48 + orOne (v.toNat / 2 ^ 24 % 2 ^ 24) * 2 ^ 24 +
          orOne (v.toNat % 2 ^ 24)) })) ∧
      (a = page + 0x108 ∨ a = page + 0x110 → exec .registerWrite s = .next s)) ∧
    (∀ n, n < 64 → s.mailboxUp = true → a = 0x9010000000 + 8 * n →
      let x : Sensor := SMap.look {} s.sensors n
      let limit : BitVec 16 := v.extractLsb' 48 16
      ∃ y, exec .registerWrite s = .next { s with sensors := SMap.put {} s.sensors n y } ∧
        y.trip = (if 0x06e0 < limit.toInt then 0x06e0 else limit) ∧ y.throt = v.extractLsb' 32 16 ∧
        y.passed = (x.passed && !v.getLsbD 31) ∧ y.value = x.value) ∧
    ∀ d, d < 2 → s.mailboxUp = true → a = d →
      let r := s.router d
      let acc := v.extractLsb' 8 2
      (acc.getLsbD (v.getLsbD 0).toNat = true →
        exec .fepochWrite s = .next (s.setRouter d { r with accept := acc, inj := v.getLsbD 0 })) ∧
      (acc.getLsbD (v.getLsbD 0).toNat = false → exec .fepochWrite s = .next (s.setRouter d { r with wrej := true }))

/-- R2, R457, R465, R483: a 4-byte write into a label, route or key bank that is not accepted is what the window then reads there, but
for the reserved bits [35:19] of a key entry, which read as zero, every other word of the window reading as before; one into an accepted bank sets WREJ and changes nothing else. Where the control node's accesses are not taken
it is answered as not ready (R17, R483). -/
def Claims.WindowTables : Prop :=
  ∀ (s : State) (v : Word) (d off bank : Nat), s.input.load = .word v → s.input.unit = d → s.input.idx = off → d < 2 →
    off % 4 = 0 →
    (0x10000 ≤ off ∧ off < 0x30000 ∧ bank = (off - 0x10000) / 0x10000) ∨
      (0x30000 ≤ off ∧ off < 0x40000 ∧ bank = (off - 0x30000) / 0x8000) ∨
      (0x40000 ≤ off ∧ off < 0x40400 ∧ bank = (off - 0x40000) / 0x200) →
    (s.mailboxUp = false → exec .windowTableWrite s =
      .next { s with outbox := s.outbox ++ [.notReady (0x9020000000 + d * 0x100000 + off)] }) ∧
    (s.mailboxUp = true → (s.router d).accept.getLsbD bank = true →
      exec .windowTableWrite s = .next (s.setRouter d { s.router d with wrej := true })) ∧
    (s.mailboxUp = true → (s.router d).accept.getLsbD bank = false → ∃ u : State, exec .windowTableWrite s = .next u ∧
      u = { s with routers := u.routers } ∧ u.window32 d off = (if off < 0x40000 then v.toNat % 2 ^ 32
        else if off % 8 = 0 then v.toNat % 2 ^ 19 else v.toNat % 2 ^ 32 / 16 * 16) ∧
      (∀ x, x % 4 = 0 → x ≠ off → u.window32 d x = s.window32 d x) ∧ ∀ k, k ≠ d → u.router k = s.router k)

/-- R469 to R472: a port that is up goes down when its link is silent (cause 2), replays too often (1), its partner die is
lost (5) or DIS is set (4, disabled): the count of falls rises, the notice of it stands in the die's log, other ports stay;
when it is the die-to-die port, no write stays on its way. A die that is found lost where the port is down already takes cause 5, with
a die-lost notice, once. An up port sends idle flits. Which in-flight writes a loss of port 0 drops is the model's choice (logs 8,
43). -/
def Claims.PortsGoDown : Prop :=
  ∀ s : State,
    let die := s.input.unit
    let p := s.input.idx
    let x := (s.router die).port p
    let told (u : State) (n : Nat) (kind : BitVec 4) (cause : BitVec 3) : Prop :=
      ∃ m ∈ (u.router die).seen, m.stamp = s.now die ∧ m.near = (s.router die).phys ∧
        m.far = ((s.router die).port n).far ∧ m.dim.toNat = n ∧ m.kind = kind ∧ m.cause = cause.setWidth 4
    let falls (i : Instr) (n : Nat) (cause : BitVec 3) (st : BitVec 2) (kind : BitVec 4) : Prop :=
      ∃ u : State, exec i s = .next u ∧
        (u.router die).port n = { (s.router die).port n with
          st := st, cause := cause, downs := ((s.router die).port n).downs + 1 } ∧
        (∀ k, k ≠ n → (u.router die).port k = (s.router die).port k) ∧ told u n kind cause ∧
        (n = 0 → s.linkFailed = false → u.flight 0 = [] ∧ u.flight 1 = [])
    (die < 2 → p < 14 → x.st = 2 →
      exec .idleFlit s = .next { s with outbox := s.outbox ++ [.idle die p] } ∧
      falls .linkSilence p 2 0 0 ∧ falls .linkReplayLimit p 1 0 0 ∧ (x.dis = true → falls .pctlDis p 4 3 0) ∧
      (x.dis = false → exec .pctlDis s = .next s)) ∧
    (die < 2 → (s.router die).partnerLost = true → exec .dieLost s = .next s) ∧
    (die < 2 → (s.router die).partnerLost = false → ((s.router die).port 0).st = 2 →
      falls .dieLost 0 5 0 0 ∧ falls .dieLost 0 5 0 2) ∧
    (die < 2 → (s.router die).partnerLost = false → ((s.router die).port 0).st ≠ 2 → ∃ u : State, exec .dieLost s = .next u ∧
      (u.router die).port 0 = { (s.router die).port 0 with cause := 5 } ∧ (u.router die).partnerLost = true ∧ told u 0 2 5) ∧
    (die < 2 → p < 14 → x.st ≠ 2 → exec .idleFlit s = .next s ∧ exec .linkSilence s = .next s ∧
      exec .linkReplayLimit s = .next s)

/-- R469 to R471, R473: a written RETRAIN starts training a port that is down and not disabled, and DIS disables a port or
with DIS clear leaves it down. Training ends with the port up, with the label found and a link-up notice, or down with cause
3, a fall with its notice, for a label it does not expect, and with cause 2 for a failure; the die-to-die port comes up with both ends, and its causal stamps are
cleared. A notice that comes is logged once. The cause of a failed training is the model's reading (log 44). -/
def Claims.PortsComeUp : Prop :=
  ∀ s : State,
    let die := s.input.unit
    let p := s.input.idx
    let r := s.router die
    let x := r.port p
    let put (y : Port) : State := s.setRouter die (r.setPort p y)
    (die < 2 → p < 14 →
      (x.retrain = false → exec .pctlRetrain s = .next s) ∧
      (x.retrain = true → x.st = 0 → x.dis = false → exec .pctlRetrain s = .next (put { x with retrain := false, st := 1 })) ∧
      (x.retrain = true → x.st ≠ 0 ∨ x.dis = true → exec .pctlRetrain s = .next (put { x with retrain := false })) ∧
      (x.dis = true → x.st ≠ 2 → x.st ≠ 3 → exec .pctlDis s = .next (put { x with st := 3, cause := 4 })) ∧
      (x.dis = false → x.st = 3 → exec .pctlDis s = .next (put { x with st := 0 })) ∧
      ∀ far ok, s.input.load = .trained far ok →
        let both : Prop := p = 0 → ((s.router (1 - die)).port 0).st = 2 ∨ ((s.router (1 - die)).port 0).st = 1
        let told (u : State) (kind : BitVec 4) : Prop := ∃ m ∈ (u.router die).seen, m.stamp = s.now die ∧ m.near = r.phys ∧
          m.far = far ∧ m.dim.toNat = p ∧ m.kind = kind
        (x.st ≠ 1 → exec .linkTrainingDone s = .next s) ∧
        (x.st = 1 →
          (x.chk = true → far ≠ x.expect → ∃ u : State, exec .linkTrainingDone s = .next u ∧
            (u.router die).port p = { x with st := 0, far := far, cause := 3, downs := x.downs + 1 } ∧ told u 0) ∧
          ((x.chk = true → far = x.expect) → ok = false →
            exec .linkTrainingDone s = .next (put { x with st := 0, far := far, cause := 2 })) ∧
          ((x.chk = true → far = x.expect) → ok = true → ¬both → exec .linkTrainingDone s = .next s) ∧
          ((x.chk = true → far = x.expect) → ok = true → both → ∃ u : State, exec .linkTrainingDone s = .next u ∧
            (u.router die).port p = { x with st := 2, far := far } ∧ told u 1 ∧
            (p = 0 → (u.router die).partnerLost = false) ∧
            (p = 0 → s.linkFailed = true → u.flight 0 = [] ∧ u.flight 1 = [] ∧ u.applied = [] ∧ u.issued = []) ∧
            (p ≠ 0 → u.wb = s.wb ∧ u.applied = s.applied ∧ u.issued = s.issued)))) ∧
    ∀ n, s.input.load = .notice n → die < 2 →
      (n ∈ r.seen → exec .linkNoticeReceive s = .next s) ∧
      (n ∉ r.seen → ∃ u, exec .linkNoticeReceive s = .next u ∧ (u.router die).seen = r.seen ++ [n] ∧
        (u.router die).nwidx = r.nwidx + 1 ∧
        let k := r.nwidx.toNat % 256
        let old : BitVec 128 := SMap.look 0 r.notices k
        (old.getLsbD 0 = true → (u.router die).nlost = r.nlost + 1 ∧ (u.router die).notices = r.notices) ∧
        (old.getLsbD 0 = false → (u.router die).nlost = r.nlost ∧
          SMap.look 0 (u.router die).notices k = n.stamp ++ n.near ++ n.far ++ n.dim ++ n.kind ++ n.cause ++ 0#23 ++ 1#1))


/-! ## Requests, answers and episodes by themselves (12, 23) -/

/-- R109, R127, R135, R319, R323, R431 to R433, R460 to R467: a request that may leave is injected, which once gives it its bank and
physical label. Without an entry for its key it fails PARTITION_KEY, with an absent label PEER_ABSENT, and by the router's checks or on
its way with their cause; one that leaves the module goes out on its channel and waits for its answer; one that reaches a die of the
module is performed there and lands what comes back, fails with what it meets, or goes again where it was refused. A request of another
module is checked, performed once and answered; one of the deterministic class waits until every earlier one of its pair has been. A
load-store access of another module waits for the writes its stamp covers, goes on to a page's new home, and is performed for the
context of its identifier, or answered TRANSLATION_ABSENT. -/
def Claims.RequestsAreCarried : Prop :=
  ∀ (s s1 : State) (q : FReq),
    (s.input.load = .req (.own q.id) → (s.reqs.find? fun x => x.id == q.id) = some q → s.mayLeave q = true →
      let r := s.router q.die
      let q' := s.inject q
      let u0 := s.setReq q'
      let fails (u : State) (c : Cause) : Prop := exec .remoteRequest s =
        .next (u.setReq { q' with failed := some ⟨q.order, c, q.pc, q.va, some q.dst, 0⟩, performed := true })
      (q.phys ≠ none → q' = q) ∧
      (q.phys = none → q' = { q with bank := r.inj, phys := r.physOf r.inj q.dst, sent := s.now q.die }) ∧
      (r.keyEntry q'.bank q.key = none → fails u0 .partitionKey) ∧
      ∀ e, r.keyEntry q'.bank q.key = some e →
        (q'.phys = none → fails u0 .peerAbsent) ∧
        ∀ p, q'.phys = some p →
          (∀ c r', r.admits q'.bank q.key = some (c, r') → fails (u0.setRouter q.die r') c) ∧
          (r.admits q'.bank q.key = none →
            let way := State.followPacket q'.bank q.key p 4 q.die (if q.adp then 3 else 0) 0 u0
            let there (die : Nat) := s1.performAt r.lself die q.dst q.fid q.va q.op q.acq q.rel
            (∀ c, way = (s1, .lost c) → fails s1 c) ∧
            (∀ die port cls, way = (s1, .left die port cls) → exec .remoteRequest s =
              .next { s1.setReq { q' with performed := true } with
                outbox := s1.outbox ++ [.request q.id die port (cls ++ 0#1 ++ (s1.router die).lane q'.bank q.key) q.seq
                  (s1.oldestSeq q') q'.bank p q.dst q.op q.acq q.rel] }) ∧
            (∀ die, way = (s1, .here die) →
              (∀ u b, there die = .ok u b → exec .remoteRequest s = .next (u.land { q' with retry := none } b)) ∧
              (∀ u c i, there die = .fail u c i → fails u c) ∧
              (there die = .refused → exec .remoteRequest s = .next (s1.setReq { q' with
                performed := false, retry := some (Retry.again q.retry (s1.now q.die) q.va) })) ∧
              (there die = .wait → exec .remoteRequest s = .next s1)))) ∧
    (∀ die src dst adp seq oldest fid key bank va op acq rel,
      s.input.load = .req (.ext die src dst adp seq oldest fid key bank va op acq rel) → die < 2 →
      let done := (s.router die).done
      let turn : Prop := adp = true ∨ ∀ k, oldest ≤ k → k < seq → (src, k) ∈ done
      let replies (u : State) (a : AckResult) : Prop :=
        exec .remoteRequest s = .next { u with outbox := u.outbox ++ [.reply src seq bank a] }
      let there := s.performAt src die dst fid va op acq rel
      ((src, seq) ∈ done → exec .remoteRequest s = .next s) ∧
      (∀ c r, (src, seq) ∉ done → (s.router die).admits bank key = some (c, r) → replies (s.setRouter die r) (.fail c dst)) ∧
      ((src, seq) ∉ done → (s.router die).admits bank key = none → ¬turn → exec .remoteRequest s = .next s) ∧
      ((src, seq) ∉ done → (s.router die).admits bank key = none → turn →
        (∀ b, there = .ok s1 b → replies (s1.setRouter die { s1.router die with
          done := (s1.router die).done ++ [(src, seq)] }) (.ok b)) ∧
        (∀ c i, there = .fail s1 c i → replies s1 (.fail c dst)) ∧
        (there = .refused → replies s .refused) ∧ (there = .wait → exec .remoteRequest s = .next s))) ∧
    ∀ die src asid va op stamp, s.input.load = .req (.ls die src asid va op stamp) → die < 2 →
      let me := (s.router die).lself
      let replies (u : State) (a : AckResult) (i : Nat) : Prop :=
        exec .remoteRequest s = .next { u with outbox := u.outbox ++ [.lsReply src va a i] }
      (s.reached stamp = false → exec .remoteRequest s = .next s) ∧
      (s.reached stamp = true → s.ctxOfAsid asid = none → replies s (.fail .translationAbsent me) 0) ∧
      ∀ n, s.reached stamp = true → s.ctxOfAsid asid = some n →
        let on_ := s.goesOn (s.pilotWho die n) n (opAcc op) va.toNat (opSize op)
        let there := s.performOp src die n va op none none
        (∀ l, on_ = some (l, true) → exec .remoteRequest s =
          .next { s with outbox := s.outbox ++ [.forward src (BitVec.ofNat 14 l) asid va op stamp] }) ∧
        ((∀ l, on_ ≠ some (l, true)) →
          (∀ b, there = .ok s1 b → replies (s1.countApplied src op) (.ok b) 0) ∧
          (∀ c i, there = .fail s1 c i → replies s1 (.fail c me) i) ∧
          (there = .refused → replies s .refused 0) ∧ (there = .wait → exec .remoteRequest s = .next s))

/-- R319, R322 to R325, R431: what a request does at the die that carries its label, for the context bound to its identity, as an
acquire and a release at the scopes it carries: a read or a get gives the bytes it reads, a write or a put stores its bytes, an atomic answers the old value; another label fails PEER_ABSENT, an identity of no context REMOTE_CONTEXT, a
misaligned atomic ATOMIC_ALIGN, and a page moved for good TRANSLATION_ABSENT with reason 3. -/
def Claims.RequestsArePerformed : Prop :=
  ∀ (s s1 : State) (src : BitVec 14) (die n k : Nat) (dst : BitVec 14) (fid : BitVec 32) (va : Va) (b : List Byte)
    (acq rel : Option Scope),
    let w : Who := { s.pilotWho die n with rel := rel }
    let perform (op : RemoteOp) := s.performAt src die dst fid va op acq rel
    let elsewhere (op : RemoteOp) : Prop := ∃ l, s.goesOn w n (opAcc op) va.toNat (opSize op) = some (l, false)
    let ends (u : State) : State := match acq with
      | some k => u.acquire (.pilot die) k
      | none => u
    (∀ op, dst ≠ (s.router die).lself → perform op = .fail s .peerAbsent 0) ∧
    (∀ op, dst = (s.router die).lself → s.ctxOfFid fid = none → perform op = .fail s .remoteContext 0) ∧
    (dst = (s.router die).lself → s.ctxOfFid fid = some n →
      (∀ op, elsewhere op → perform op = .fail s .translationAbsent 3) ∧
      (s.readRun w .rd va.toNat k = (s1, .ok b) → (¬elsewhere (.read k) → perform (.read k) = .ok (ends s1) b) ∧
        (¬elsewhere (.get k) → perform (.get k) = .ok (ends s1) b)) ∧
      (s.writeRun w .wr va.toNat b = (s1, none) → (¬elsewhere (.write b) → perform (.write b) = .ok (ends s1) []) ∧
        (¬elsewhere (.put b) → perform (.put b) = .ok (ends s1) [])) ∧
      (∀ (o : AmoOp) (x : BitVec 64), ¬elsewhere (.amo o k x) →
        (va.toNat % k ≠ 0 → perform (.amo o k x) = .fail s .atomicAlign 0) ∧
        ∀ v, va.toNat % k = 0 → s.atomic w va.toNat k (.amo o k x) (fun v => changed v (amoFn o k v (x.toNat % 2 ^ (8 * k)))) =
          (s1, .ok v) → perform (.amo o k x) = .ok (ends s1) (leBytes k v)) ∧
      (∀ (x y : BitVec 128), ¬elsewhere (.cas k x y) →
        (va.toNat % k ≠ 0 → perform (.cas k x y) = .fail s .atomicAlign 0) ∧
        ∀ v, va.toNat % k = 0 → s.atomic w va.toNat k (.cas k x y) (casFn x.toNat y.toNat) = (s1, .ok v) →
          perform (.cas k x y) = .ok (ends s1) (leBytes k v)))

/-- R319, R320, R322, R433, R467: an answer that its router admits lands its bytes where the word asked and the request is over, the
requests behind it free to go; a refused one goes again; a failure that comes back, and RTMO without an answer, REMOTE_TIMEOUT or for
one refused so long MIGRATION_BUSY, make it a failed one, which is then retired, its failure kept for the F strand and its signal never
applied. -/
def Claims.AnswersLand : Prop :=
  ∀ (s : State) (q : FReq),
    let now := s.now q.die
    let fails (u : State) (i : Instr) (c : Cause) (label : BitVec 14) : Prop := exec i s =
      .next (u.setReq { q with failed := some ⟨q.order, c, q.pc, q.va, some label, 0⟩, performed := true })
    (∀ (u : State) (b : List Byte), (q.land = none ∧ u = s) ∨
        (∃ a, q.land = some a ∧ s.landHeld q a = false ∧ Retry.early q.retry now = false ∧
          s.writeRun (s.landWho q.die q.ctx q.image) .wr a.toNat b = (u, none)) →
      (∀ die pa, (s.land q b).byteOn die pa = u.byteOn die pa) ∧
      ∀ x ∈ (s.land q b).reqs, x.id ≠ q.id ∧ q.id ∉ x.waits) ∧
    ((s.reqs.find? fun x => x.id == s.input.unit && x.performed && x.failed.isNone) = some q →
      (∀ b, q.back = some b → exec .remoteAck s = .next (s.land q b)) ∧
      (∀ a c r, q.back = none → s.input.load = .ack a → (s.router q.die).admits q.bank q.key = some (c, r) →
        fails (s.setRouter q.die r) .remoteAck c q.dst) ∧
      (q.back = none → (s.router q.die).admits q.bank q.key = none →
        (∀ b, s.input.load = .ack (.ok b) → b.length = q.landSize →
          exec .remoteAck s = .next (s.land { q with retry := none } b)) ∧
        (∀ c l, s.input.load = .ack (.fail c l) → fails s .remoteAck c l) ∧
        (s.input.load = .ack .refused → exec .remoteAck s = .next (s.setReq { q with
          performed := false, retry := some (Retry.again q.retry now q.va) })))) ∧
    ((s.reqs.find? fun x => x.id == s.input.unit && x.failed.isNone) = some q →
      let rtmo := (s.ctx q.ctx).rtmoTicks
      let late : Prop := q.phys ≠ none ∧ q.back = none ∧ rtmo ≤ (now - q.sent).toNat
      (q.retry = none → (late → fails s .remoteTimeout .remoteTimeout q.dst) ∧ (¬late → exec .remoteTimeout s = .next s)) ∧
      ∀ r, q.retry = some r →
        (rtmo ≤ (now - r.since).toNat → fails s .remoteTimeout .migrationBusy q.dst) ∧
        ((now - r.since).toNat < rtmo → exec .remoteTimeout s = .next s)) ∧
    ∀ (t : Machine.Task) (n : Nat) (d : Deferred), s.input.unit < 194 → s.task s.input.unit = some t → t.ctx = some n →
      ((s.ownReqs n t.image).find? fun x => x.failed.isSome) = some q → q.failed = some d →
      ∃ (u : State) (u' : Machine.Task), exec .deferredFailure s = .next u ∧ u.task s.input.unit = some u' ∧
        u'.defer = t.defer ++ [d] ∧
        (∀ p, p ∈ u'.sigs ↔ p ∈ t.sigs ∧ ¬∃ l, Token.reqs l ∈ p.until_ ∧ q.id ∈ l) ∧
        ∀ x ∈ u.reqs, x.id ≠ q.id ∧ q.id ∉ x.waits

/-- R333, R334, R335, R369: with every member's contribution at its die's router in time, the result is written at a member's output,
in the tree order of its dimensions, and its slot is ready for the next episode, or aborted where its task has left the die it joined
from; an absent member, or the timeout of the first contribution, without all of them or before the last came, ends the episode for
every member of the module: each slot that contributes to it or stands ready for it is aborted with that cause, and one that
contributes has a deferred failure. A router takes a contribution whose key it knows. That each member computes its own episode is the
model's reading (log 31). -/
def Obligations.Episodes : Prop :=
  ∀ (s s1 : State) (t : Machine.Task) (n : Nat) (d : GroupDesc),
    let c := s.input.unit
    let g := s.input.idx
    let x : Group := SMap.look {} t.groups g
    let fid := (s.ctx n).fid
    let die := if x.label = (s.router 1).lself then 1 else 0
    let mine := s.contribs.filter fun y => y.die == die && forEpisode d x fid y.msg
    let limit := (if d.timeout = 0 then 2000 else d.timeout) * 1000
    let late : Prop := ∃ a b, mine.head? = some a ∧ mine.getLast? = some b ∧ limit ≤ (b.at_ - a.at_).toNat
    let aborts (i : Instr) (k : Cause) (label : Option (BitVec 14)) : Prop :=
      ∃ (u : State) (u' : Machine.Task), exec i s = .next u ∧ u.task c = some u' ∧
        (SMap.look {} u'.groups g : Group).cause = k ∧
        (∃ e ∈ u'.defer, e.order = x.req ∧ e.cause = k ∧ e.label = label ∧ e.group = BitVec.ofNat 4 g) ∧
        ∀ (e m h : Nat) (v : Machine.Task), s.task e = some v → v.ctx = some m → (s.ctx m).fid = fid →
          let y : Group := SMap.look {} v.groups h
          (y.st = .busy ∨ y.st = .ready) → y.done = x.done →
          (y.desc.map fun k => (k.gid, k.mask, k.base)) = some (d.gid, d.mask, d.base) →
          ∃ v', u.task e = some v' ∧ (SMap.look {} v'.groups h : Group).st = .aborted
    c < 194 → s.task c = some t → t.ctx = some n → x.desc = some d → x.st = .busy →
    (∀ m, s.input.load = .contrib m → (s.router (c % 2)).admits m.bank m.key = none →
      exec .contributionArrival s = .next { s with contribs := s.contribs ++ [⟨c % 2, s.now (c % 2), m⟩] }) ∧
    (∀ m k r, s.input.load = .contrib m → (s.router (c % 2)).admits m.bank m.key = some (k, r) →
      exec .contributionArrival s = .next (s.setRouter (c % 2) r)) ∧
    (∀ l, gatherParts (mine.map (·.msg)) d.members = some l → late → aborts .episodeResult .reduceTimeout none) ∧
    (∀ l, gatherParts (mine.map (·.msg)) d.members = some l → ¬late → s.images = [] →
      Retry.early x.retry (s.now die) = false →
      let vals (k : Nat) : Array (BitVec 32) := ((l.find? fun y => y.1 == k).map (·.2)).getD #[]
      s.writeRun (s.landWho die n t.image) .wr x.out.toNat
        ((reduceAll d vals).flatMap fun v => leBytes (d.oty.width / 8) v) = (s1, none) →
      ∃ (u : State) (u' : Machine.Task), exec .episodeResult s = .next u ∧ u.task c = some u' ∧
        (SMap.look {} u'.groups g : Group).st = (if x.moved then .aborted else .ready) ∧
        (SMap.look {} u'.groups g : Group).done = x.done + 1 ∧
        ∀ die pa, u.byteOn die pa = s1.byteOn die pa) ∧
    (gatherParts (mine.map (·.msg)) d.members = none →
      let r := s.router die
      (∀ k, (d.members.find? fun m => (r.physOf r.inj m).isNone) = some k → aborts .episodeResult .peerAbsent (some k)) ∧
      ((∀ m ∈ d.members, (r.physOf r.inj m).isSome = true) → exec .episodeResult s = .next s) ∧
      (s.input.load = .none → (∃ y, mine.head? = some y ∧ limit ≤ (s.now die - y.at_).toNat) →
        aborts .reduceTimeout (if ∃ m ∈ d.members, r.physOf r.inj m = none then .peerAbsent else .reduceTimeout)
          (d.members.find? fun m => (r.physOf r.inj m).isNone)) ∧
      (∀ l, s.input.load = .failure .reduceTimeout l → aborts .reduceTimeout .reduceTimeout none) ∧
      (∀ l, s.input.load = .failure .peerAbsent l → aborts .reduceTimeout .peerAbsent (some l)))

/-- R461, R463, R464, R466, R467: a packet is kept in arrival order; the oldest is dropped and counted when its bank is not
accepted, its key is unknown or no port serves it, takes effect where it has arrived, and otherwise leaves by the port of its next hop on
the lane of its key, or for port 0 arrives at the other die. The port that an adaptive packet takes, and whether one has room, are the
model's free choice (log 32). -/
def Claims.PacketsAreRouted : Prop :=
  ∀ s : State,
    let die := s.input.unit
    let r := s.router die
    let count (x : BitVec 16) : BitVec 16 := if x = 0xffff then x else x + 1
    die < 2 →
    (∀ p, s.input.load = .packet p →
      exec .packetRoute s = .next (s.setRouter die { r with buffered := r.buffered ++ [p] })) ∧
    ∀ p l, s.input.load = .none → r.buffered = p :: l →
      let r' := { r with buffered := l }
      (r.accept.getLsbD p.bank.toNat = false → SMap.wf {} s.routers = true →
        exec .packetRoute s = .next (s.setRouter die { r' with routedrops := count r.routedrops })) ∧
      (r.accept.getLsbD p.bank.toNat = true →
        (r.keyEntry p.bank p.key = none →
          exec .packetRoute s = .next (s.setRouter die { r' with keydrops := count r.keydrops })) ∧
        ∀ e, r.keyEntry p.bank p.key = some e →
          let hop := r.hop (Config.adaptiveFull s.ctr) p.bank p.dst (if p.cls = 1 then 2 else p.cls)
            (if p.cls = 1 then 0 else p.arrived)
          let lane := e.extractLsb' 16 3
          (hop = .drop → exec .packetRoute s = .next (s.setRouter die { r' with routedrops := count r.routedrops })) ∧
          (hop = .deliver →
            (p.cargo = .none → exec .packetRoute s = .next (s.setRouter die r')) ∧
            (∀ q, p.cargo = .req q → exec .packetRoute s = .next (((s.setRouter die r').takeReq q).takeLs q)) ∧
            ∀ id a, p.cargo = .ack id a → exec .packetRoute s = .next ((s.setRouter die r').takeAck id a)) ∧
          (∀ n c, 0 < n → hop = .out n c → exec .packetRoute s = .next { s.setRouter die r' with
            outbox := s.outbox ++ [.packet die n { p with cls := c, arrived := n + 1, lane := lane }] }) ∧
          (∀ c, hop = .out 0 c → ∃ u : State, exec .packetRoute s = .next u ∧ (u.router die).buffered = l ∧
            (u.router (1 - die)).buffered =
              (s.router (1 - die)).buffered ++ [{ p with cls := c, arrived := 1, lane := lane }]))


/-! ## Jobs by themselves (06, 12) -/

/-- R341, R342: a job that ends shows its code to JSTAT, 2 completed, 3 completed with a status, 4 faulted, 5 cancelled; its
completion record, bytes 8 to 31 before bytes 0 to 7, these as a release at module scope, gives its handle, cause, status, state, AUX, COUNT and the time; a
faulted one leaves a fault record besides. For whom a job's engine writes is the model's choice (log 33). What a record that cannot be written leaves is not claimed (log 34); how a job that
its invalid context bars ends is the model's choice (log 69). -/
def Claims.JobEndings : Prop :=
  ∀ (s s1 s2 : State) (j : Job) (e : JobEnd) (cause status state count aux code : Nat),
    (∃ st n a, e = .completed st n a ∧ (cause, status, state, count, aux) = (0, st, 2, n, a) ∧
        code = if st = 0 then 2 else 3) ∨
      (∃ (f : FaultInfo) (n : Nat), e = .faulted f n ∧ (cause, status, state, count, aux, code) = (f.cause.code, 0, 3, n, 0, 4)) ∨
      (e = .cancelled ∧ (cause, status, state, count, aux, code) = (0, 0, 4, 0, 0, 5)) ∨
      (∃ c, e = .barred c ∧ (cause, status, state, count, aux, code) = (c.code, 0, 3, 0, 0, 4)) →
    let w := s.jobWho j
    let start : State := match e with
      | .faulted f _ => { s with records := s.records ++ [⟨some j.ctx, j.die,
          { f with origin := 6, strand := none, pc := 0, handle := j.handle }, 1, f.cause.isUser, true, 0xffffffff, 0xff, w.asid⟩] }
      | _ => s
    let coded (u : State) : State := { u with jobs := u.jobs.map fun x => if x.seq = j.seq then { j with code := code } else x }
    let low := leBytes 8 (j.handle.toNat * 2 ^ 32 + cause * 2 ^ 16 + status * 2 ^ 8 + state)
    let high := leBytes 8 aux ++ leBytes 8 count ++ leBytes 8 (s.now j.die).toNat
    j.card.getLsbD 40 = false →
    (cardCrec j.card = 0 → s.endJob j e = coded start) ∧
    (cardCrec j.card ≠ 0 → start.writeHome w (cardCrec j.card + 8) high = (s1, none) →
      s1.writeHome { w with rel := some .module } (cardCrec j.card) low = (s2, none) → s.endJob j e = coded s2)

/-- R131, R339, R342, R344: copies and fills: every element goes from its source address, or is the
pattern, to its destination address, each once, in loop order unless two elements share bytes, and COUNT gives their number;
a nest outside the footprint ends FOOTPRINT before its first access; a fault at an element ends it with that element's
number as COUNT; what it wrote is visible at module scope when it ends. Where the page of an element, or of its completion
record, refuses, the job goes again, not before its gap is over, until RTMO has passed, when it ends with what that fault
would leave (R433). That a job is one step is the model's choice (log 33). -/
def Claims.CopiesAndFills : Prop :=
  ∀ (s s1 : State) (j : Job) (i : Instr),
    j ∈ s.jobs → j.seq = s.input.unit → j.code = 0 → (∀ x ∈ s.jobs, x.seq = j.seq → x = j) →
    (cardKind j.card = 1 ∧ i = .copyJob) ∨ (cardKind j.card = 2 ∧ i = .fillJob) →
    let c := j.card
    let w := s.jobWho j
    let n0 := bits c 415 384
    let n1 := bits c 447 416
    let n2 := bits c 479 448
    let size := 2 ^ bits c 482 480
    let n := n0 * n1 * n2
    let at_ (base k : Nat) (a b d : BitVec 64) : Nat := (BitVec.ofInt 56 (base + (k % n0 : Nat) * a.toInt +
      (k / n0 % n1 : Nat) * b.toInt + (k / (n0 * n1) : Nat) * d.toInt)).toNat
    let outside : Prop := ∃ l, j.foot = some l ∧
      ((cardKind c = 1 ∧ inFoot l false (nestRange (cardSrc c) (nestCounts c) (srcStrides c) size) = false) ∨
        inFoot l true (nestRange (cardDst c) (nestCounts c) (dstStrides c) size) = false)
    let order := copyOrder s w c n
    let ends (u : State) (e : JobEnd) : Prop :=
      exec i s = .next (if u.recordRefused j then s.tryJob j fun _ => (u.endJob j e).jobShown s j else (u.endJob j e).jobShown s j)
    order.Perm (List.range n) ∧ (orderShows c n = false → order = List.range n) ∧
    (Retry.early j.retry (s.now j.die) = true → exec i s = .next s) ∧
    (Retry.early j.retry (s.now j.die) = false →
      (outside → ends s (.faulted { cause := .footprint, addr := BitVec.ofNat 56 (cardFp c) } 0)) ∧
      (¬outside → copyEach w c order s = (s1, none) → ends s1 (.completed 0 n 0)) ∧
      (∀ k cause info va, ¬outside → copyEach w c order s = (s1, some (k, .fault cause info va)) →
        ends s1 (.faulted { cause := cause, addr := BitVec.ofNat 56 va, info := BitVec.ofNat 64 info } k)) ∧
      (∀ k va, ¬outside → copyEach w c order s = (s1, some (k, .refused va)) →
        exec i s = .next (s.tryJob j fun _ =>
          (s1.endJob j (.faulted (XlStop.info (.refused va)) k)).jobShown s j))) ∧
    ∀ (k : Nat) (l : List Nat) (u u1 u2 : State) (b : List Byte),
      (cardKind c = 1 ∧ u.readRun w .rd (at_ (cardSrc c) k (c.extractLsb' 512 64) (c.extractLsb' 640 64)
          (c.extractLsb' 768 64)) size = (u1, .ok b)) ∨
        (cardKind c = 2 ∧ u1 = u ∧ b = leBytes size (bits c 1023 896)) →
      u1.writeHome w (at_ (cardDst c) k (c.extractLsb' 576 64) (c.extractLsb' 704 64) (c.extractLsb' 832 64)) b = (u2, none) →
      copyEach w c (k :: l) u = copyEach w c l u2

/-- R159 to R162, R345: a selection ends with status 11 for invalid parameters, 12 for a source of another module, 10 when
an index would not fit, FOOTPRINT outside its footprint; else it writes the records of the passing elements in index order,
8 when they are more than the room, or of the best K in rank order, 9 when they are fewer, with their number as COUNT. That
a job is one step, and the order of the checks, are the model's choices (logs 33, 35). -/
def Claims.Selections : Prop :=
  ∀ (s s1 s2 : State) (j : Job) (b : List Byte),
    j ∈ s.jobs → j.seq = s.input.unit → j.code = 0 → (∀ x ∈ s.jobs, x.seq = j.seq → x = j) → cardKind j.card = 3 →
    Retry.early j.retry (s.now j.die) = false →
    let x := selOf j.card
    let w := s.jobWho j
    let n := x.nelem * x.size
    let ends (u : State) (e : JobEnd) : Prop :=
      exec .selectJob s = .next (if u.recordRefused j then s.tryJob j fun _ => (u.endJob j e).jobShown s j else (u.endJob j e).jobShown s j)
    let small : Prop := x.ibase + x.nelem ≤ 2 ^ (if x.wide then 64 else 32)
    let outside : Prop := ∃ l, j.foot = some l ∧
      (inFoot l false (x.src, n) = false ∨ inFoot l true (x.out, x.room * x.rec_) = false)
    (selBad j.card = true → ends s (.completed 11 0 0)) ∧
    (selBad j.card = false → (s.anyAway w x.src n = true → ends s (.completed 12 0 0)) ∧
      (s.anyAway w x.src n = false → (¬small → ends s (.completed 10 0 0)) ∧
        (small → outside → ends s (.faulted { cause := .footprint, addr := BitVec.ofNat 56 (cardFp j.card) } 0)) ∧
        (small → ¬outside → s.readRun w .rd x.src n = (s1, .ok b) →
          let ty := x.ty.getD .f32
          let all := (List.range x.nelem).map fun k => (k, leNat ((b.drop (k * x.size)).take x.size))
          let hits := all.filter fun e => x.passes s1.ctr e.1 ty e.2
          let best := bestOf (x.mode == 1) x.k
            ((all.map fun e => (e.1, e.2, selVal ty e.2)).filter fun e => !e.2.2.isNaN)
          (x.mode = 0 → s1.writeRecords w x.out ((hits.take x.cap).map fun e => x.record e.1 e.2) = (s2, none) →
            ends s2 (.completed (if x.cap < hits.length then 8 else 0) hits.length 0)) ∧
          (x.mode ≠ 0 → s1.writeRecords w x.out (best.map fun e => x.record e.1 e.2.1) = (s2, none) →
            ends s2 (.completed (if best.length < x.k then 9 else 0) best.length 0)))))

/-- R140, R146, R147, R148, R156, R157, R346: the span jobs but JSPAN, once no earlier span job of the sequence is left. An invalid card, or a sequence that breaks its limits, ends with status 6, a reserved bit of one
RESERVED_FIELD. JTAG writes TSPAN and TCLASS; JPAGE grows the tail block, takes a frame for each further 64 positions, and
ends with 2 or 1 where the table or the pool has no room; JCOMMIT moves COMMIT, or ends with 5, 4 or 3; a repair truncates
to COMMIT. That a job is one step, and the order of the checks, are the model's choices (logs 33, 36, 37). -/
def Claims.SpanJobs : Prop :=
  ∀ (s s1 s2 s3 s4 : State) (j : Job) (x : SeqD) (i : Instr),
    j ∈ s.jobs → j.seq = s.input.unit → j.code = 0 → (∀ x ∈ s.jobs, x.seq = j.seq → x = j) →
    Retry.early j.retry (s.now j.die) = false → s.spanBehind j = false →
    let c := j.card
    let w := s.jobWho j
    let ends (u : State) (e : JobEnd) : Prop :=
      exec i s = .next (if u.recordRefused j then s.tryJob j fun _ => (u.endJob j e).jobShown s j else (u.endJob j e).jobShown s j)
    (cardKind c, c.getLsbD 377, i) ∈ [(4, false, Instr.pageJob), (6, false, .commitJob), (6, true, .commitRepair),
      (7, false, .tagJob)] →
    (spanBad c = true → ends s (.completed 6 0 0)) ∧
    (spanBad c = false →
      (∀ v, cardKind c = 7 → s.readNat w (cardSeq c + 48) 4 = (s1, .ok v) →
        s1.writeAll w [(cardSeq c + 49, (leBytes 4 (v % 2 ^ 10 + cardClass c * 2 ^ 10 + cardSpan c * 2 ^ 16)).drop 1)] =
          .ok s2 → ends s2 (.completed 0 0 0)) ∧
      (∀ v, cardKind c ≠ 7 → s.readNat w (cardSeq c) 64 = (s1, .ok v) →
        let d : BitVec 512 := BitVec.ofNat 512 v
        (seqReserved d = true → ends s1 (.faulted { cause := .reservedField, addr := BitVec.ofNat 56 (cardSeq c) } 0)) ∧
        (seqReserved d = false → (seqOf (cardSeq c) d).bad = true → ends s1 (.completed 6 0 0))) ∧
      (∀ (l : List Nat), i = .commitJob → s.readSeq w (cardSeq c) = .ok (s1, x) → s1.readCursors w x = .ok (s2, l) →
        let n := cardN c
        (n < x.commit → ends s2 (.completed 5 0 0)) ∧
        (x.commit ≤ n → x.nextpos < n → ends s2 (.completed 4 0 0)) ∧
        (x.commit ≤ n → n ≤ x.nextpos →
          (∀ k < x.nlayer, l.getD k 0 < n → (∀ m < k, n ≤ l.getD m 0) → ends s2 (.completed 3 0 k)) ∧
          ((∀ k < x.nlayer, n ≤ l.getD k 0) → s2.writeAll w [(x.addr + 20, leBytes 4 n)] = .ok s3 →
            ends s3 (.completed 0 0 0)))) ∧
      (∀ (bs : List Block) (p : Pool), i = .commitRepair → s.readSeq w (cardSeq c) = .ok (s1, x) →
        s1.readEntries w x 0 x.nblk = .ok (s2, bs) →
        let new := bs.map (repairBlock x.commit)
        let last := (List.range x.nblk).foldl (fun m b => if (new[b]?.map (·.st)).getD 0 ≠ 0 then b + 1 else m) 0
        let freed := (bs.filter fun b => b.st = 1 && x.commit ≤ b.first).map (·.frame)
        (freed ≠ [] → s2.needPool j.ctx x.pool = .ok p) →
        (s2.pendRoom j.die freed.length = false → exec i s = .next s) ∧
        (s2.pendRoom j.die freed.length = true →
          s2.writeAll w (((new.zip (List.range x.nblk)).filter fun b => bs[b.2]? != some b.1).map
            (fun b => (x.bt + 16 * b.2, leBytes 16 b.1.nat)) ++ [(x.cur, (List.replicate x.nlayer x.commit).flatMap (leBytes 4)),
              (x.addr + 16, leBytes 4 x.commit), (x.addr + 12, leBytes 4 last)]) = .ok s3 →
          ends (s3.pendPut j x.pool freed) (.completed 0 0 0))) ∧
      (∀ (tail : List Block) (p : Pool) (frames : List Nat), i = .pageJob → s.readSeq w (cardSeq c) = .ok (s1, x) →
        s1.readEntries w x (x.nblk - 1) (min 1 x.nblk) = .ok (s2, tail) →
        let n := cardN c
        let grow := tailGrowth x tail n
        let left := n - (grow.map (·.2)).getD 0
        let need := (left + 63) / 64
        let first := (grow.map fun g => (x.bt + 16 * (x.nblk - 1), leBytes 16 ({ g.1 with count := g.1.count + g.2 } : Block).nat)).toList
        (need = 0 → s2.writeAll w (first ++ [(x.addr + 16, leBytes 4 (x.nextpos + n))]) = .ok s3 →
          ends s3 (.completed 0 0 0)) ∧
        (need ≠ 0 → s2.needPool j.ctx x.pool = .ok p →
          (x.btcap < x.nblk + need → ends s2 (.completed 2 0 0)) ∧
          (x.nblk + need ≤ x.btcap → p.held < need → ends s2 (.completed 1 0 0)) ∧
          (x.nblk + need ≤ x.btcap → need ≤ p.held → s2.peekFrames w p need 0 = (s3, .ok frames) →
            s3.writeAll w (first ++ ((newBlocks x.tspan x.tclass (x.nextpos + (n - left)) left frames).zip
              (List.range need)).map (fun b => (x.bt + 16 * (x.nblk + b.2), leBytes 16 b.1.nat)) ++
              [(x.addr + 16, leBytes 4 (x.nextpos + n)), (x.addr + 12, leBytes 4 (x.nblk + need))]) = .ok s4 →
            ends (s4.homeStore (p.addr + 12) (leBytes 4 (p.head + BitVec.ofNat 32 need).toNat)) (.completed 0 need 0)))))

/-- R149 to R153: JSPAN retires the live blocks that its card names, after its checks and once the pending list has room:
their entries are marked, their tiles dropped; with CLOSE the remaining entries, NEXTPOS, COMMIT and the cursors are
renumbered, with CLOSE_ROT the kept keys beyond a retired block are written back and rotated before; RGEN rises, and the
frames wait on the pending list for their readers. COUNT is the number of blocks, AUX of positions; without a block nothing
happens. A pending frame whose readers are done goes to the tail of its pool's ring, or is lost and counted when that is
full. That a job is one step is the model's choice (log 33). -/
def Claims.SpansAreRetired : Prop :=
  (∀ (s s1 s2 s3 s4 s5 s6 s8 s9 : State) (j : Job) (x : SeqD) (bs : List Block) (p : Pool) (ds : List TDesc)
      (cur : List Nat) (i : Instr),
    j ∈ s.jobs → j.seq = s.input.unit → j.code = 0 → (∀ x ∈ s.jobs, x.seq = j.seq → x = j) →
    Retry.early j.retry (s.now j.die) = false → s.spanBehind j = false → cardKind j.card = 5 → spanBad j.card = false →
    (cardMode j.card, i) ∈ [(0, Instr.spanKeep), (1, .spanClose), (2, .spanCloseRot)] →
    let c := j.card
    let mode := cardMode c
    let w := s.jobWho j
    let named (b : Block) : Bool := b.st = 1 && b.cls = cardClass c && (!c.getLsbD 374 || b.span = cardSpan c)
    let gone := bs.filter named
    let delta := (gone.map (·.count)).sum
    let rot : Prop := mode = 2 ∧ x.rdim ≠ 0
    let ends (u : State) (e : JobEnd) : Prop :=
      exec i s = .next (if u.recordRefused j then s.tryJob j fun _ => (u.endJob j e).jobShown s j else (u.endJob j e).jobShown s j)
    let kept := bs.filter fun b => b.st = 1 && !named b && retiredBelow gone (b.first + b.count - 1) != 0
    s.readSeq w (cardSeq c) = .ok (s1, x) → s1.readEntries w x 0 x.nblk = .ok (s2, bs) →
    (gone = [] → ends s2 (.completed 0 0 0)) ∧
    (gone ≠ [] → s2.needPool j.ctx x.pool = .ok p →
      (rot → s2.rotChecks w x delta = .ok (s3, ds)) → (¬rot → s3 = s2 ∧ ds = []) →
      (mode ≠ 0 → s3.readCursors w x = .ok (s4, cur)) → (mode = 0 → s4 = s3 ∧ cur = []) →
      (s4.pendRoom j.die gone.length = false → exec i s = .next s) ∧
      (s4.pendRoom j.die gone.length = true →
        (rot → s4.flushPages (s4.pageTiles w x.pool (kept.map (·.frame)) true) = (s5, none)) → (¬rot → s5 = s4) →
        s5.writeAll w (((bs.zip (List.range x.nblk)).filter fun b => named b.1).map fun b =>
          (x.bt + 16 * b.2, leBytes 16 ({ b.1 with st := 2 } : Block).nat)) = .ok s6 →
        let s7 := s6.dropPages (s6.pageTiles w x.pool (gone.map (·.frame)) false)
        (rot → s7.rotateAll w x (rotPlan ds gone kept) = (s8, none)) → (¬rot → s8 = s7) →
        s8.writeAll w ((if mode = 0 then [] else renumber x bs c gone cur) ++
          [(x.addr + 52, leBytes 4 (x.rgen + 1).toNat)]) = .ok s9 →
        ends (s9.pendPut j x.pool (gone.map (·.frame))) (.completed 0 gone.length delta)))) ∧
  ∀ (s s1 : State) (f : PendFrame) (p : Pool),
    let die := s.input.unit
    let l := s.pendingFrames die
    let out (u : State) : State := { u with pendFrames := SMap.put [] u.pendFrames die (l.eraseIdx s.input.idx) }
    l[s.input.idx]? = some f →
    ((∃ r ∈ f.readers, s.readerLive r = true) → exec .pendingFramePush s = .next s) ∧
    ((∀ r ∈ f.readers, s.readerLive r = false) → s.readPool f.ctx f.pool = some p → s.poolLost f.ctx f.pool = false →
      (p.size ≤ p.held →
        exec .pendingFramePush s = .next (out (s.homeStore (p.addr + 24) (leBytes 4 (p.lost + 1).toNat)))) ∧
      (p.held < p.size → s.writeHome (s.pilotLook die f.ctx)
          ((p.ring + 4 * (p.tail.toNat % p.size)) % 2 ^ 56) (leBytes 4 f.frame.toNat) = (s1, none) →
        exec .pendingFramePush s = .next (out (s1.homeStore (p.addr + 16) (leBytes 4 (p.tail + 1).toNat)))))


/-! ## The Pilot (20) -/

/-- R398, R400 to R402, R408, R409: the record at RPTR of the queue whose turn it is, read for its context, enters the ready
pool as its youngest node, and RPTR counts it; edges come from the earlier nodes of the queue whose regions meet its own,
one of them written. A record of an invalid kind or version halts the queue there with QUEUE_RECORD, and enters no pool.
The Pilot reads as an acquire at module scope (R132). How long it takes is not modelled (log 39). -/
def Claims.RecordFetches : Prop :=
  ∀ (s s1 s2 : State) (q v : Nat),
    let x := s.queue q
    let n := bits x.qcfg 43 32
    let s0 : State := { s with lastFetch := SMap.put 0 s.lastFetch (q / 128) q }
    let s0 := s0.acquireNow (.pilot (q / 128)) .module
    let slot := bits x.qring 55 0 + 128 * (x.rptr.toNat % 2 ^ (bits x.qcfg 27 24 + 4))
    s.input.unit = q → q < 256 → s.nextFetch (q / 128) = some q → s0.readNat (s0.pilotWho (q / 128) n) slot 128 = (s1, .ok v) →
    let r : BitVec 1024 := BitVec.ofNat 1024 v
    let kind := bits r 7 0
    let known : Prop := 1 ≤ kind ∧ kind ≤ 6 ∧ bits r 15 8 = 1
    let enters (regions : List Region) : Prop := ∃ u m, exec .recordFetch s = .next u ∧ u.nodes = s.nodes ++ [m] ∧
      m.id = s.nextNode ∧ m.queue = q ∧ m.ctx = n ∧ m.die = q / 128 ∧ m.record = r ∧ m.handle = x.rptr ∧ m.st = .pool ∧
      m.device = false ∧ m.regions = regions ∧ (u.queue q).rptr = x.rptr + 1 ∧ (u.queue q).halted = x.halted ∧
      ∀ e, e ∈ m.edges ↔ ∃ k ∈ s.nodes, k.id = e ∧ k.queue = q ∧ k.device = false ∧ regionsMeet k.regions regions = true
    (¬known → ∃ u, exec .recordFetch s = .next u ∧ u.nodes = s.nodes ∧ (u.queue q).halted = true ∧
      (u.queue q).errIdx = x.rptr ∧ (u.queue q).cause = 147 ∧ (u.queue q).rptr = x.rptr) ∧
    (known → kind ≠ 1 → kind ≠ 2 → enters []) ∧
    (known → kind = 1 → (launchOf r).fpAddr = 0 → enters []) ∧
    (known → kind = 1 → (launchOf r).fpAddr ≠ 0 → ∀ f l, s1.readNat (s1.pilotWho (q / 128) n) (launchOf r).fpAddr 128 = (s2, .ok f) →
      footRegions f = some l → enters l)

/-- R405, R406, R407, R410, R433: the records the Pilot serves itself once they are ready: a wait ends when its masked value meets
its condition, and else is read again, 64 ns and then twice the last gap up to 65,536 ns later; a signal stores its value
or adds it in one atomic, as a release at module scope, once every earlier record of the queue is complete; where the page
refuses it goes again, not before its gap is over, until RTMO has passed (R433). A fence ends once every earlier record is
complete, a NOP as soon as its events are set. Each read of a wait is an acquire at module scope (R132). What the Pilot
refuses beyond the rules is the model's reading (logs 40, 42). -/
def Claims.PilotRecords : Prop :=
  ∀ (s s1 : State) (n : Node),
    s.node s.input.unit = some n → n.device = false → n.st = .pool → n.bad = false → s.badCtx n.ctx = none →
    let r := n.record
    let kind := bits r 7 0
    let w := s.pilotWho n.die n.ctx
    let wr : Who := { w with rel := some .module }
    let now := s.now n.die
    let a := bits r 351 299 * 8
    let size := if r.getLsbD 295 then 8 else 4
    let value := bits r 511 448 % 2 ^ (8 * size)
    let ends (i : Instr) : Prop := ∃ u n', exec i s = .next u ∧ u.node n.id = some n' ∧ n'.st = .done ∧ n'.status = 0 ∧
      n'.cause = .none ∧ n'.record = r
    let first : Prop := ∀ m ∈ s.nodes, m.queue = n.queue → m.id < n.id → m.device = true
    (kind = 6 → n.evOk = true → ends .nopRecord) ∧
    (kind = 5 → s.nodeReady n = true → (first → ends .fenceRecord) ∧ (¬first → exec .fenceRecord s = .next s)) ∧
    (kind = 4 → s.nodeReady n = true →
      (¬first ∨ Retry.early n.retry now = true → exec .signalMemory s = .next s) ∧
      (first → Retry.early n.retry now = false →
        let done (u1 : State) : Prop := ∃ u n', exec .signalMemory s = .next u ∧ u.mem = u1.mem ∧ u.node n.id = some n' ∧
          n'.st = .done ∧ n'.status = 0 ∧ n'.cause = .none
        (r.getLsbD 294 = false → s.writeHome wr a (leBytes size value) = (s1, none) → done s1) ∧
        (r.getLsbD 294 = true → ∀ old, s.atomic wr a size (.amo .add size (r.extractLsb' 448 64))
          (fun v => some ((v + bits r 511 448) % 2 ^ (8 * size))) = (s1, .ok old) → done s1) ∧
        (∀ va, r.getLsbD 294 = false → s.writeHome wr a (leBytes size (bits r 511 448)) = (s1, some (.refused va)) →
          Retry.over n.retry now (s.ctx n.ctx).rtmoTicks = false →
          exec .signalMemory s = .next (s.setNode { n with retry := some (Retry.again n.retry now (BitVec.ofNat 56 va)) })))) ∧
    (kind = 3 → s.nodeReady n = true → (now < n.pollAt → exec .waitMemoryPoll s = .next s) ∧
      ∀ v, n.pollAt ≤ now → s.readNat w a size = (s1, .ok v) →
        let y := (v &&& bits r 447 384) % 2 ^ (8 * size)
        let signed (z : Nat) : Int := if z < 2 ^ (8 * size - 1) then z else z - (2 ^ (8 * size) : Nat)
        let holds : Prop := match bits r 298 296 with
          | 0 => y = value
          | 1 => y ≠ value
          | 2 => value ≤ y
          | 3 => y < value
          | 4 => signed value ≤ signed y
          | _ => signed y < signed value
        (holds → ends .waitMemoryPoll) ∧
        (¬holds → ∃ u n', exec .waitMemoryPoll s = .next u ∧ u.order = (s1.acquire (.pilot n.die) .module).order ∧ u.node n.id = some n' ∧ n'.st = .pool ∧
          n'.polls = n.polls + 1 ∧ n'.pollGap = (if n.polls = 0 then 64 else min 65536 (2 * n.pollGap)) ∧
          n'.pollAt = now + BitVec.ofNat 64 n'.pollGap))

/-- R408 to R410, R413, R416, R407: a node whose event mask is all set waits for events no more; a posted launch whose
events are set, none of its strand's before it on either die, enters the pool as a device node, over at once with status 2
where its context was invalid (R390); a level rises by one, to 7 at most, when a node has waited for AGE; a completed node,
its record written, leaves the pool and frees the edges from it. The events are read as an acquire at module scope (R132). -/
def Claims.PilotPool : Prop :=
  (∀ (s : State) (n : Node), s.node s.input.unit = some n →
    let ev := bits n.record 767 512
    (s.pilotEvents n.die n.ctx &&& ev = ev → ∃ u n', exec .eventWaitResolve s = .next u ∧ u.node n.id = some n' ∧ n'.evOk = true ∧
      n'.record = n.record ∧ n'.edges = n.edges ∧ u.order = (s.sawEvents n.die n.ctx).order) ∧
    (s.pilotEvents n.die n.ctx &&& ev ≠ ev → exec .eventWaitResolve s = .next s)) ∧
  (∀ (s : State) (x : PendLaunch),
    let die := s.input.unit
    let l := s.pending die
    l[s.input.idx]? = some x → (∀ d < 2, ∀ y ∈ s.pending d, y.ctx = x.ctx → y.uid = x.uid → x.seq ≤ y.seq) →
    (s.nodes.filter fun k => k.die == die).length < 4096 →
    let ev := bits x.record 767 512
    (s.pilotEvents die x.ctx &&& ev ≠ ev → exec .pendingLaunchEntry s = .next s) ∧
    (s.pilotEvents die x.ctx &&& ev = ev → ∃ u n, exec .pendingLaunchEntry s = .next u ∧ u.nodes = s.nodes ++ [n] ∧
      n.id = s.nextNode ∧ n.queue = x.queue ∧ n.ctx = x.ctx ∧ n.die = die ∧ n.record = x.record ∧ n.handle = x.handle ∧
      n.device = true ∧ n.evOk = true ∧ (n.st, n.status) = (if x.refused then (.done, 2) else (.pool, 0)) ∧
      u.pending die = l.eraseIdx s.input.idx)) ∧
  (∀ (s : State) (t : Word),
    let q := s.input.unit
    let x := s.queue q
    let age := bits x.qtime 47 24 * 1000
    q < 256 → x.timer = some t → (∃ n ∈ s.nodes, n.queue = q ∧ s.idle n = true) →
    ((s.now (q / 128) - t).toNat < age → exec .agingTimer s = .next s) ∧
    (age ≤ (s.now (q / 128) - t).toNat → exec .agingTimer s = .next (s.setQueue q { x with
      level := if x.level = 7 then 7 else x.level + 1, timer := some (s.now (q / 128)) }))) ∧
  ∀ (s s1 : State) (n : Node), s.node s.input.unit = some n → n.job = none → n.st = .done →
    Retry.early n.retry (s.now n.die) = false → s.writeNode n = (s1, none) →
    ∃ u, exec .recordCompletion s = .next u ∧ (∀ m ∈ u.nodes, m.id ≠ n.id ∧ n.id ∉ m.edges) ∧
      (∀ m ∈ s.nodes, m.id ≠ n.id → ∃ m' ∈ u.nodes, m'.id = m.id ∧ m'.record = m.record ∧ m'.st = m.st) ∧
      (n.card = none → u.mem = (if bits n.record 1023 768 = 0 then s1 else
        s1.setEvents n.ctx (bits n.record 1023 768)).mem)

/-- R27, R40, R55, R403, R412, R414: a ready grid that cannot run as written ends with its status. A team whose turn it is,
on free cores it may use, starts: each of its tasks stands at ENTRY with all six strands, zero registers, and its identity
in TASKID and TEAMINFO; the grid runs, and counts the team. A ready job goes to its engine under the next number. The refusal for
want of save images is the model's choice (log 41). -/
def Claims.NodesAreDispatched : Prop :=
  ∀ (s : State) (n : Node), s.node s.input.unit = some n → s.nodeReady n = true →
    (bits n.record 7 0 = 1 → n.st = .pool → ∀ st c, s.gridRefusal n = some (st, c) →
      ∃ u n', exec .nodeDispatch s = .next u ∧ u.node n.id = some n' ∧ n'.st = .done ∧ n'.status = st ∧ n'.cause = c) ∧
    (∀ b : Nat,
      let l := launchOf n.record
      let size := if l.team = 0 then 1 else if l.team = 1 then 2 else 4
      let tx := n.nextTeam % l.nx
      let ty := n.nextTeam / l.nx % l.ny
      let tz := n.nextTeam / (l.nx * l.ny)
      bits n.record 7 0 = 1 → (n.st = .pool → s.gridRefusal n = none) → s.badCtx n.ctx = none → n.status = 0 → l.cores = false →
      n.nextTeam < l.nx * l.ny * l.nz → s.input.load = .place [(n.nextTeam, b)] → s.hasSaved n = false →
      b % size = 0 → s.mayUse n b = true → (∀ i < size, b + i < 192 ∧ s.task (b + i) = none) →
      size ≤ (s.freeImages n.ctx).length → s.picked n true [b] = true →
      ∃ u n', exec .nodeDispatch s = .next u ∧ u.node n.id = some n' ∧ n'.st = .running ∧ n'.nextTeam = n.nextTeam + 1 ∧
        (∃ t ∈ u.teams, t.node = n.id ∧ t.num = n.nextTeam ∧ t.base = b ∧ t.size = size ∧ t.st = .running ∧
          t.placed = s.now (dieOf b)) ∧
        (∀ c, (c < b ∨ b + size ≤ c) → u.task c = s.task c) ∧
        ∀ i < size, ∃ k, u.task (b + i) = some k ∧ k.ctx = some n.ctx ∧ k.rank = i ∧ k.kernel = false ∧
          (∀ e ∈ [Eng.s, .v, .m, .a, .f, .j], k.strand e = { pc := l.entry }) ∧ k.s = [] ∧ k.v = [] ∧ k.window = [] ∧
          k.teaminfo = BitVec.ofNat 64 (l.team * 2 ^ 50 + i * 2 ^ 48 + tz * 2 ^ 32 + ty * 2 ^ 16 + tx) ∧
          k.taskid.extractLsb' 32 16 = (s.ctx n.ctx).asid ∧ k.taskid.extractLsb' 0 8 = BitVec.ofNat 8 (b + i)) ∧
    (∀ card foot, bits n.record 7 0 = 2 → n.device = false → n.st = .pool → n.card = some (card, foot) →
      s.badCtx n.ctx = none →
      let die := s.jobDie n.ctx n.die n.regions
      (s.jobs.filter fun j => j.die == die && j.code == 0).length < 1024 →
      (s.jobs.filter fun j => j.ctx == n.ctx && j.code == 0).length < (s.ctx n.ctx).jquota →
      (∀ m ∈ s.nodes, m.id ≠ n.id → bits m.record 7 0 = 2 → m.st ≠ .pool) →
      ∃ u n', exec .nodeDispatch s = .next u ∧ u.node n.id = some n' ∧ n'.st = .running ∧ n'.job = some s.jobSeq ∧
        u.jobs = s.jobs ++ [{ ctx := n.ctx, handle := n.handle, card := card, foot := foot, die := die, core := none
                              node := some n.id, seq := s.jobSeq }])

/-- R43, R44, R414, R415, R420, R453: a team whose quantum is over, with others waiting for its cores, is asked to stop. Once
every task of a team stands at its safe point, and its accesses are performed, they are saved together and leave their
cores; a team past DEADLINE is saved whole, under their safe points those that stand at them, the others at once. A saved
task that is resumed stands where it stood, with the registers its image holds. What a save holds of a dead register, and
which images a RESUME takes, are the model's readings (logs 22, 24). -/
def Claims.TeamsStopAndResume : Prop :=
  (∀ (s : State) (t : Team) (own : Node), s.teams[s.input.unit]? = some t → s.node t.node = some own → t.st = .running →
    (∀ g ∈ s.teams, g.node = t.node → g.num = t.num → g = t) →
    let now := s.now (dieOf t.base)
    bits (s.queue own.queue).qtime 23 0 * 1000 ≤ (now - t.placed).toNat →
    (∃ m ∈ s.nodes, s.wantsCores m = true ∧ s.mayUse m t.base = true ∧ (∀ k < 48, s.couldTake m k = false) ∧
      (s.levelOf m = s.levelOf own ∨ ((launchOf m.record).cores = true ∧ s.levelOf own < s.levelOf m))) →
    ∃ u, exec .quantumExpiry s = .next u ∧
      (∃ t' ∈ u.teams, t'.node = t.node ∧ t'.num = t.num ∧ t'.st = .stopping ∧ t'.asked = some now) ∧
      ∀ x ∈ s.teamTasks t, ∃ k, u.task x.1 = some k ∧ k.stop.isSome = true ∧ k.s = x.2.s ∧ k.strands = x.2.strands) ∧
  (∀ (s : State) (t : Machine.Task) (tm : Team),
    let c := s.input.unit
    s.task c = some t → s.teamOf t = some tm → (c, t) ∈ s.teamTasks tm →
    ((∃ x ∈ s.teamTasks tm, x.2.atStop = false ∨ x.2.faults ≠ [] ∨ s.coreDrained x.1 x.2 = false) →
      exec .safePointStop s = .next s) ∧
    ((∀ x ∈ s.teamTasks tm, x.2.atStop = true ∧ x.2.faults = [] ∧ s.coreDrained x.1 x.2 = true ∧ x.2.ctx ≠ none ∧
        s.badMask x.1 x.2 = none ∧ s.saveLost x.2 = false) →
      ∃ u, exec .safePointStop s = .next u ∧ ∀ x ∈ s.teamTasks tm, u.task x.1 = none ∧
        ∃ m ∈ u.images, m.task.uid = x.2.uid ∧ m.task.strands = x.2.strands ∧ m.task.window = x.2.window ∧
          (s.stopMask x.1 x.2 = some none → m.task.s = x.2.s ∧ m.task.v = x.2.v) ∧
          (∀ n, s.teamTasks tm = [x] → x.2.ctx = some n → m.addr = (s.ctx n).save + x.2.image * 2 ^ 20))) ∧
  (∀ (s : State) (k : Machine.Task) (t : Team) (own : Node) (a : Word), s.task s.input.unit = some k →
    s.teamOf k = some t → t.asked = some a → s.node t.node = some own →
    bits (s.queue own.queue).qtime 63 48 * 1000 ≤ (s.now (dieOf t.base) - a).toNat →
    (∀ x ∈ s.teamTasks t, x.2.ctx ≠ none ∧ s.coreDrained x.1 x.2 = true ∧ s.saveLost x.2 = false ∧
      ∀ f ∈ x.2.faults, f.cause.isUser = true) →
    exec .preemptDeadline s = .next (s.saveTeam s.stopOf .immediate t) ∧
    (∀ x ∈ s.teamTasks t, (s.saveTeam s.stopOf .immediate t).task x.1 = none) ∧
    ∀ x ∈ s.teamTasks t, (x.2.atStop = false → s.stopOf x.1 x.2 = (.immediate, none)) ∧
      (∀ m, x.2.atStop = true → s.badMask x.1 x.2 = none → s.stopMask x.1 x.2 = some m → s.stopOf x.1 x.2 = (.safe, m))) ∧
  (∀ (s s1 : State) (n : Node) (l : List (Nat × Nat)) (x : List (Team × Nat)), s.node s.input.unit = some n →
    s.input.load = .place l → s.wantsCores n = true → s.badCtx n.ctx = none →
    s.resumeSet n l = some x →
    (∀ m ∈ s.images, m.task.node = n.id → s.imageLost m = false ∧ s.imageBad m = false) →
    x.foldl (fun o y => o.bind fun s => s.resumeAt y.1 y.2) (some s) = some s1 →
    exec .teamResume s = .next (s1.served n.queue 2)) ∧
  ∀ (s : State) (m : SavedTask) (c : Nat), m.held = [] → ∃ u k, s.resumeTask m c = some u ∧ u.task c = some k ∧
    k.uid = m.task.uid ∧ (∀ e, (k.strand e).pc = (m.task.strand e).pc ∧ (k.strand e).path = (m.task.strand e).path) ∧
    (∀ r : SReg, r ≠ 0 → sget k.s r = BitVec.ofNat 64 (s.physNat (m.addr + 0x2000 + 8 * r.toNat) 8)) ∧
    (∀ r < 768, SMap.look 0 k.v r = BitVec.ofNat 2048 (s.physNat (m.addr + 0x35000 + 256 * r) 256)) ∧
    k.stop = none ∧ k.faults.length = m.task.faults.length + m.pending.length

/-! ## Boot, sensors and the Chronometer (25) -/

/-- R481 to R485: power-on and a reset request start at ROM, where the firmware is asked for, and again until its image
comes. A bad signature asks anew; a failure of INIT or of SYNC is reported, and the module waits; else the part is READY with
what the image carries: partitions, the context table, labels, limits of the sensors, the Chronometer, port 0 up and the
others training, and on each die its kernel in memory and the kernel core at its entry, at kernel level, with the die in s1
and the context table in s2. An attestation request is answered with a signed report. That an image takes the module from
INIT to READY in one step is the model's choice (log 45). -/
def Claims.BootSteps : Prop :=
  ∀ s : State,
    let asks : State := { s with outbox := s.outbox ++ [.imageRequest] }
    let anew : State := { State.reset with outbox := s.outbox, turns := s.turns, ctr := s.ctr, input := s.input }
    exec .powerOn s = .next anew ∧ exec .resetRequest s = .next anew ∧
    (s.boot = .rom ∨ s.boot = .fetch → exec .firmwareFetchRetry s = .next { asks with boot := .fetch }) ∧
    (s.boot ≠ .rom → s.boot ≠ .fetch → exec .firmwareFetchRetry s = .next s) ∧
    (∀ n : BitVec 256, s.input.load = .nonce n →
      let keys := [Config.identityKey 0, Config.identityKey 1]
      ∃ state sig, state ≤ 6 ∧ sig = Config.sign (Config.sha256 ((keys.flatMap fun k => leBytes 64 k.toNat) ++
          leBytes 32 s.digest.toNat ++ leBytes 2 1 ++ leBytes 1 state ++ leBytes 32 n.toNat ++ leBytes 8 (s.now 0).toNat)) ∧
        exec .attestationRequest s = .next { s with outbox := s.outbox ++
          [OutMsg.attestation keys s.digest 1 s.boot n (s.now 0) sig] }) ∧
    ∀ (b sig : List Byte) (v : FwValues), s.input.load = .image b sig v →
      (s.boot ≠ .fetch → exec .firmwareImage s = .next s) ∧
      (s.boot = .fetch → Config.signatureGood b sig = false → exec .firmwareImage s = .next asks) ∧
      (s.boot = .fetch → Config.signatureGood b sig = true → v.trained = false → exec .firmwareImage s = .next
        { s with firmware := b, digest := Config.sha256 b, boot := .init, outbox := s.outbox ++ [.failureReport] }) ∧
      (∀ k0 k1, s.boot = .fetch → Config.signatureGood b sig = true → v.trained = true → v.kernels = [some k0, some k1] →
        s.dirty = [] →
        (∀ d k, (d, k) ∈ [(0, k0), (1, k1)] → k.entry % 16 = 0 ∧ k.load ≤ k.entry ∧ k.entry < k.load + k.bytes.length ∧
          k.load + k.bytes.length ≤ hbmEnd ∧ homeDie k.load = d ∧ homeDie (k.load + k.bytes.length - 1) = d) →
        (v.synced = false → ∃ u : State, exec .firmwareImage s = .next u ∧ u.boot = .sync ∧
          u.outbox = s.outbox ++ [.failureReport] ∧ u.chrono = s.chrono ∧ ∀ c, u.task c = s.task c) ∧
        (v.synced = true → ∃ u : State, exec .firmwareImage s = .next u ∧ u.boot = .ready ∧ u.digest = Config.sha256 b ∧ (∀ d, u.now d = v.chrono) ∧
          u.ctxtab = v.ctxtab &&& 0xffffffff80000 ∧
          (∀ p < 8, v.parts.length ≤ p → bits (u.part p).pfab 55 32 = 16384 ∧ bits (u.part p).pfab 31 24 = 64) ∧
          (∀ n < min 64 v.temps.length, let x : Sensor := SMap.look {} u.sensors n
            x.trip = (if (0x06e0 : BitVec 16).slt (v.temps.getD n default).1 then 0x06e0 else (v.temps.getD n default).1) ∧
              x.throt = (v.temps.getD n default).2 ∧ x.passed = false) ∧
          ∀ d k, (d, k) ∈ [(0, k0), (1, k1)] →
            (∀ p, 1 ≤ p → p < 14 → ((u.router d).port p).st = 1) ∧ (u.router d).lself = v.lself.getD d 0 ∧ (u.router d).phys = v.phys.getD d 0 ∧ (u.router d).accept = 1 ∧
            (u.router d).inj = false ∧ ((u.router d).port 0).st = 2 ∧
            (∀ a, k.load ≤ a → a < k.load + k.bytes.length → u.homeByte a = k.bytes.getD (a - k.load) 0) ∧
            ∃ t, u.task (192 + d) = some t ∧ t.kernel = true ∧ (t.strand .s).pc = BitVec.ofNat 56 k.entry ∧
              sget t.s 1 = BitVec.ofNat 64 d ∧ sget t.s 2 = u.ctxtab))

/-- R485, R487 to R489: sensors take their new values, OVER set above THROT, and a point that passes THROT leaves a record; one
above TRIP resets the module. An exchange of a die says how far its count is from the reference; while time passes the count
takes that up by at most one tick in 10,000, each die by itself; 100 ms without one leave a management record, once. When a
SENSOR_LIMIT record is written is the model's reading (log 47). -/
def Claims.SensorsAndReferences : Prop :=
  ∀ s : State,
    (∀ (temps : List (BitVec 16)) (rails : List (BitVec 48)), s.input.load = .sensors temps rails → temps.length ≤ 64 →
      let old (n : Nat) : Sensor := SMap.look {} s.sensors n
      ((∀ n < temps.length, (temps.getD n 0).toInt ≤ (old n).trip.toInt) →
        (∀ x ∈ s.sensors, x.2.value.toInt ≤ x.2.trip.toInt) →
        ∃ u, exec .sensorRefresh s = .next u ∧ u.boot = s.boot ∧ u.nodes = s.nodes ∧
          ∀ n < temps.length, SMap.look {} u.sensors n = { old n with
            value := temps.getD n 0, passed := (old n).passed || decide ((old n).throt.toInt < (temps.getD n 0).toInt) }) ∧
      (∀ n < temps.length, (old n).trip.toInt < (temps.getD n 0).toInt →
        ∃ u, exec .sensorRefresh s = .next u ∧ u.boot = .rom ∧ u.mem = [] ∧ u.cores = [])) ∧
    (∀ (v : BitVec 16) (rails : List (BitVec 48)), s.input.load = .sensors [v] rails →
      let old : Sensor := SMap.look {} s.sensors 0
      let new : Sensor := { old with value := v, passed := true }
      let put : State := { s with rails := SMap.ofVals 0 (rails.take 32), sensors := SMap.put {} s.sensors 0 new }
      old.throt.toInt < v.toInt → v.toInt ≤ old.trip.toInt → (old.passed = true → old.value.toInt ≤ old.throt.toInt) →
      (∀ x ∈ s.sensors, x.2.value.toInt ≤ x.2.trip.toInt) →
      exec .sensorRefresh s = .next (put.manage 0 { cause := .sensorLimit, info := 0 })) ∧
    (∀ v, s.input.load = .word v → s.input.unit < 2 → s.boot = .ready → ∃ u : State, exec .chronoExchange s = .next u ∧
      SMap.look 0 u.slew s.input.unit = (v - s.now s.input.unit).toInt ∧ (∀ d, u.now d = s.now d) ∧
      SMap.look 0 u.lastRef s.input.unit = s.now s.input.unit ∧ s.input.unit ∉ u.refLost ∧ u.mem = s.mem) ∧
    (∀ d dt : Nat, d < 2 →
      let left : Int := SMap.look 0 s.slew d
      let room : Int := ((s.now d + BitVec.ofNat 64 dt - SMap.look 0 s.slewAt d).toNat / 10000 : Nat)
      ∃ k : Int, (s.passTime dt).now d = s.now d + BitVec.ofNat 64 dt + BitVec.ofInt 64 k ∧
        SMap.look 0 (s.passTime dt).slew d = left - k ∧ k.natAbs ≤ left.natAbs ∧ (left ≤ room → -room ≤ left → k = left) ∧
        (room < left → k = room) ∧ (left < -room → k = -room)) ∧
    (s.input.unit < 2 → s.boot = .ready →
      let silent : Prop := 100000000 ≤ (s.now s.input.unit - SMap.look 0 s.lastRef s.input.unit).toNat
      (s.input.unit ∈ s.refLost ∨ ¬silent → exec .referenceLoss s = .next s) ∧
      (s.input.unit ∉ s.refLost → silent → exec .referenceLoss s = .next (State.manage
        { s with refLost := s.refLost ++ [s.input.unit] } s.input.unit { cause := .sensorLimit, info := 0x100 })))


/-- R19, R23, R195: the words of the M, A, F and J strands leave every s, k, v and p register, the bases and FPCTL of every
task as they were, theirs and those of other cores; only A words change slots, generators, index registers and queues, only
M words accumulator sets, only F words groups and the failures kept for the F strand, only J words the jobs of a task. -/
def Obligations.UnitWordsKeepRegisters : Prop :=
  ∀ (s u : State) (i : Instr) (c : Nat) (t t' : Machine.Task),
    let e := s.cur.eng
    (e = .m ∨ e = .a ∨ e = .f ∨ e = .j) → i.fields.map (·.1) = some e → exec i s = .next u →
    s.task c = some t → u.task c = some t' →
    t'.s = t.s ∧ t'.k = t.k ∧ t'.v = t.v ∧ t'.p = t.p ∧ t'.rrb = t.rrb ∧ t'.prb = t.prb ∧ t'.fpctl = t.fpctl ∧
    t'.win = t.win ∧ t'.ctx = t.ctx ∧ t'.asid = t.asid ∧ t'.uid = t.uid ∧ t'.kernel = t.kernel ∧
    (e ≠ .a → t'.slots = t.slots ∧ t'.gens = t.gens ∧ t'.g = t.g ∧ t'.i = t.i ∧ t'.q = t.q) ∧
    (e ≠ .m → t'.accs = t.accs) ∧ (e ≠ .f → t'.groups = t.groups ∧ t'.defer = t.defer) ∧
    (e ≠ .j → t'.jobs = t.jobs)

/-! ## The claims, grouped -/

/-- R173, R203: scalar arithmetic; compare conditions, together. -/
def Obligations.ScalarResults : Prop :=
  Claims.ScalarArithmetic ∧ Claims.CompareConditions

/-- R203, R222: scalar bits; coordinate words, together. -/
def Obligations.BitAndCoordinateWords : Prop :=
  Claims.ScalarBits ∧ Claims.CoordinateWords

/-- R204: divide results; bit fields, together. -/
def Obligations.DivisionAndBitFields : Prop :=
  Claims.DivideResults ∧ Claims.BitFields

/-- R118, R119, R120, R196, R205, R206, R207: loads complete with bytes read; mapped bytes are read; nothing old is
read, together. -/
def Obligations.LoadsReadMemory : Prop :=
  Claims.LoadsCompleteWithBytesRead ∧ Claims.MappedBytesAreRead ∧ Claims.NothingOldIsRead

/-- R106, R119, R126, R127, R196, R205, R206, R427: stores complete with bytes written; unreachable access faults;
store is seen on its die, together. -/
def Obligations.StoresWriteMemory : Prop :=
  Claims.StoresCompleteWithBytesWritten ∧ Claims.UnreachableAccessFaults ∧ Claims.StoreIsSeenOnItsDie

/-- R120: load frame; store frame, together. -/
def Obligations.AccessFrames : Prop :=
  Claims.LoadFrame ∧ Claims.StoreFrame

/-- R116, R117, R210, R211, R213, R383: atomic results; atomics write at home; atomics off their size fault, together.
-/
def Obligations.Atomics : Prop :=
  Claims.AtomicResults ∧ Claims.AtomicsWriteAtHome ∧ Claims.AtomicsOffTheirSizeFault

/-- R122, R123, R175, R208, R214, R215, R216: fences and cache words complete; patched code is fetched, together. -/
def Obligations.FencesAndCacheWordsComplete : Prop :=
  Claims.FencesAndCacheWordsComplete ∧ Claims.PatchedCodeIsFetched

/-- R31, R32, R34, R112, R124, R217, R218: semaphore words; event words, together. -/
def Obligations.SemaphoresAndEvents : Prop :=
  Claims.SemaphoreWords ∧ Claims.EventWords

/-- R2, R219, R220, R221, R389, R390: launch posts; yield and launch state, together. -/
def Obligations.LaunchWords : Prop :=
  Claims.LaunchPosts ∧ Claims.YieldAndLaunchState

/-- R3, R26, R38, R58, R61, R223, R224, R225, R285, R382, R445: control register reads; control register writes,
together. -/
def Obligations.ControlRegisters : Prop :=
  Claims.ControlRegisterReads ∧ Claims.ControlRegisterWrites

/-- R226, R385, R386, R388, R392, R438, R440: traps are taken; privileged registers, together. -/
def Obligations.TrapsAndPrivilegedRegisters : Prop :=
  Claims.TrapsAreTaken ∧ Claims.PrivilegedRegisters

/-- R2, R389, R392, R394, R395, R396, R442: task words; translation words; harvest reports grants, together. -/
def Obligations.PrivilegedWords : Prop :=
  Claims.TaskWords ∧ Claims.TranslationWords ∧ Claims.HarvestReportsGrants

/-- R195: scalar frame; zero register, together. -/
def Obligations.ScalarWordsChangeOneRegister : Prop :=
  Claims.ScalarFrame ∧ Claims.ZeroRegister

/-- R20, R21, R28, R32, R33, R199, R438: passing advances; unmet wait clause holds the word; satisfaction is seen;
held strand issues nothing; squashed words, together. -/
def Obligations.WordsIssueAndPass : Prop :=
  Claims.PassingAdvances ∧ Claims.UnmetWaitClauseHoldsTheWord ∧ Claims.SatisfactionIsSeen ∧
  Claims.HeldStrandIssuesNothing ∧ Claims.SquashedWords

/-- R22, R195, R197, R198, R199, R456: branches move every strand; calls and returns, together. -/
def Obligations.BranchesCallsReturns : Prop :=
  Claims.BranchesMoveEveryStrand ∧ Claims.CallsAndReturns

/-- R28, R29, R30, R97, R199: loop end test; loopm pass end; loops are pushed; control words in loopm fault, together.
-/
def Obligations.Loops : Prop :=
  Claims.LoopEndTest ∧ Claims.LoopmPassEnd ∧ Claims.LoopsArePushed ∧ Claims.ControlWordsInLoopmFault

/-- R43, R437, R439, R443, R444, R447: user handler entry; fault records; fault rings; faults are delivered, together.
-/
def Obligations.ExceptionEntry : Prop :=
  Claims.UserHandlerEntry ∧ Claims.FaultRecords ∧ Claims.FaultRings ∧ Claims.FaultsAreDelivered

/-- R46, R228, R234, R239, R248, R253, R254, R256, R259: vector moves; vector block moves, together. -/
def Obligations.VectorMoveWords : Prop :=
  Claims.VectorMoves ∧ Claims.VectorBlockMoves

/-- R74, R229, R238, R243, R257, R258, R259: predicate words; reductions, together. -/
def Obligations.PredicatesAndReductions : Prop :=
  Claims.PredicateWords ∧ Claims.Reductions

/-- R230: vector frame; vector words wait for queues, together. -/
def Obligations.VectorFrameAndQueues : Prop :=
  Claims.VectorFrame ∧ Claims.VectorWordsWaitForQueues

/-- R260, R262, R263, R270, R283, R284: lease and bursts; array words need the lease, together. -/
def Obligations.LeaseWords : Prop :=
  Claims.LeaseAndBursts ∧ Claims.ArrayWordsNeedTheLease

/-- R72, R264, R265, R271, R272, R273, R281: accumulator loads; accumulator stores; sets are placed, together. -/
def Obligations.AccumulatorWords : Prop :=
  Claims.AccumulatorLoads ∧ Claims.AccumulatorStores ∧ Claims.SetsArePlaced

/-- R83, R84, R92, R95, R96, R100, R120, R296, R297, R299, R300: fills and pins; tile writes, together. -/
def Obligations.TileWords : Prop :=
  Claims.FillsAndPins ∧ Claims.TileWrites

/-- R120, R127, R302, R303, R309, R433: generator words; generator entries, together. -/
def Obligations.Generators : Prop :=
  Claims.GeneratorWords ∧ Claims.GeneratorEntries

/-- R304, R311, R313, R314, R316: index loads; gathers and scatters, together. -/
def Obligations.IndexedAccess : Prop :=
  Claims.IndexLoads ∧ Claims.GathersAndScatters

/-- R318, R320, R327, R328, R464: remote requests; deferred failures are taken, together. -/
def Obligations.RemoteWords : Prop :=
  Claims.RemoteRequests ∧ Claims.DeferredFailuresAreTaken

/-- R131, R337, R340, R347, R348, R349: job submissions; job words, together. -/
def Obligations.JobStrandWords : Prop :=
  Claims.JobSubmissions ∧ Claims.JobWords

/-- R33, R34, R35, R36, R126, R127, R294, R433, R466: pending signals; arriving signals; writes cross in order;
waiting accesses, together. -/
def Obligations.SignalsAndWritesArrive : Prop :=
  Claims.PendingSignals ∧ Claims.ArrivingSignals ∧ Claims.WritesCrossInOrder ∧ Claims.WaitingAccesses

/-- R94, R95, R97, R101, R106, R107, R120, R262, R304, R433, R440: recalls; parked words execute; tiles are filled,
together. -/
def Obligations.TileCacheActsByItself : Prop :=
  Claims.Recalls ∧ Claims.ParkedWordsExecute ∧ Claims.TilesAreFilled

/-- R25, R43, R44, R92, R391, R414, R415, R420, R453: tasks end; teams stop and resume, together. -/
def Obligations.TasksEndAndMove : Prop :=
  Claims.TasksEnd ∧ Claims.TeamsStopAndResume

/-- R262, R283: lease arbitration; current levels, together. -/
def Obligations.ClustersActByThemselves : Prop :=
  Claims.LeaseArbitration ∧ Claims.CurrentLevels

/-- R2, R3, R17, R110, R112, R133, R399, R413, R435, R457, R458, R465, R483, R485: mailbox; register writes; window
tables, together. -/
def Obligations.RegistersAboveDeviceMemory : Prop :=
  Claims.Mailbox ∧ Claims.RegisterWrites ∧ Claims.WindowTables

/-- R469, R471, R472, R473: ports go down; ports come up, together. -/
def Obligations.Ports : Prop :=
  Claims.PortsGoDown ∧ Claims.PortsComeUp

/-- R109, R127, R135, R319, R320, R322, R323, R325, R431, R433, R460, R461, R463, R464, R466, R467: requests are
carried; requests are performed; answers land; packets are routed, together. -/
def Obligations.FabricCarriesRequests : Prop :=
  Claims.RequestsAreCarried ∧ Claims.RequestsArePerformed ∧ Claims.AnswersLand ∧ Claims.PacketsAreRouted

/-- R131, R159, R162, R339, R341, R342, R344, R345, R433: job endings; copies and fills; selections, together. -/
def Obligations.CopyAndSelectJobs : Prop :=
  Claims.JobEndings ∧ Claims.CopiesAndFills ∧ Claims.Selections

/-- R140, R146, R147, R148, R149, R153, R156, R157, R346: span jobs; spans are retired, together. -/
def Obligations.SequenceJobs : Prop :=
  Claims.SpanJobs ∧ Claims.SpansAreRetired

/-- R27, R40, R55, R132, R390, R398, R400, R402, R403, R405, R406, R407, R408, R409, R410, R412, R413, R414, R416,
R433: record fetches; pilot records; pilot pool; nodes are dispatched, together. -/
def Obligations.PilotActs : Prop :=
  Claims.RecordFetches ∧ Claims.PilotRecords ∧ Claims.PilotPool ∧ Claims.NodesAreDispatched

/-- R481, R485, R487, R489: boot steps; sensors and references, together. -/
def Obligations.BootAndManagement : Prop :=
  Claims.BootSteps ∧ Claims.SensorsAndReferences

end Claims
end

