-- ==== Sys2Proof/Laws/Encoding.lean ====
section
/-! SUPPORT. The fields of a body format come back from its bits, and each field's value from its code: what the round
trip of every instruction rests on. -/

namespace Sys2Proof

/-! ## Bit fields -/

/-- A field within the low part of a concatenation. -/
theorem extract_low {m n : Nat} (x : BitVec m) (y : BitVec n) (s l : Nat) (h : s + l ≤ n) :
    (x ++ y).extractLsb' s l = y.extractLsb' s l := by
  ext i hi
  simp only [BitVec.getElem_extractLsb', BitVec.getLsbD_append]
  rw [if_pos (by omega)]
/-- A field within the high part. -/
theorem extract_high {m n : Nat} (x : BitVec m) (y : BitVec n) (s l : Nat) (h : n ≤ s) :
    (x ++ y).extractLsb' s l = x.extractLsb' (s - n) l := by
  ext i hi
  simp only [BitVec.getElem_extractLsb', BitVec.getLsbD_append]
  rw [if_neg (by omega)]
  congr 1
  omega
/-- The whole. -/
theorem extract_all {n : Nat} (y : BitVec n) : y.extractLsb' 0 n = y := by
  ext i hi
  simp

/-! ## Body formats (R166) -/

@[simp] theorem SRF.of_bits (f : SRF) : SRF.of f.bits = f := by
  cases f
  simp only [SRF.of, SRF.bits]
  congr
  all_goals (repeat' first | exact extract_all _ | refine (extract_low _ _ _ _ (by decide)).trans ?_ | refine (extract_high _ _ _ _ (by decide)).trans ?_)
@[simp] theorem SIF.of_bits (f : SIF) : SIF.of f.bits = f := by
  cases f
  simp only [SIF.of, SIF.bits]
  congr
  all_goals (repeat' first | exact extract_all _ | refine (extract_low _ _ _ _ (by decide)).trans ?_ | refine (extract_high _ _ _ _ (by decide)).trans ?_)
@[simp] theorem VRF.of_bits (f : VRF) : VRF.of f.bits = f := by
  cases f
  simp only [VRF.of, VRF.bits]
  congr
  all_goals (repeat' first | exact extract_all _ | refine (extract_low _ _ _ _ (by decide)).trans ?_ | refine (extract_high _ _ _ _ (by decide)).trans ?_)
@[simp] theorem VIF.of_bits (f : VIF) : VIF.of f.bits = f := by
  cases f
  simp only [VIF.of, VIF.bits]
  congr
  all_goals (repeat' first | exact extract_all _ | refine (extract_low _ _ _ _ (by decide)).trans ?_ | refine (extract_high _ _ _ _ (by decide)).trans ?_)
@[simp] theorem MTF.of_bits (f : MTF) : MTF.of f.bits = f := by
  cases f
  simp only [MTF.of, MTF.bits]
  congr
  all_goals (repeat' first | exact extract_all _ | refine (extract_low _ _ _ _ (by decide)).trans ?_ | refine (extract_high _ _ _ _ (by decide)).trans ?_)
@[simp] theorem ATF.of_bits (f : ATF) : ATF.of f.bits = f := by
  cases f
  simp only [ATF.of, ATF.bits]
  congr
  all_goals (repeat' first | exact extract_all _ | refine (extract_low _ _ _ _ (by decide)).trans ?_ | refine (extract_high _ _ _ _ (by decide)).trans ?_)
@[simp] theorem FRF.of_bits (f : FRF) : FRF.of f.bits = f := by
  cases f
  simp only [FRF.of, FRF.bits]
  congr
  all_goals (repeat' first | exact extract_all _ | refine (extract_low _ _ _ _ (by decide)).trans ?_ | refine (extract_high _ _ _ _ (by decide)).trans ?_)
@[simp] theorem JCF.of_bits (f : JCF) : JCF.of f.bits = f := by
  cases f
  simp only [JCF.of, JCF.bits]
  congr
  all_goals (repeat' first | exact extract_all _ | refine (extract_low _ _ _ _ (by decide)).trans ?_ | refine (extract_high _ _ _ _ (by decide)).trans ?_)
@[simp] theorem XBF.of_bits (f : XBF) : XBF.of f.bits = f := by
  cases f
  simp only [XBF.of, XBF.bits]
  congr
  all_goals (repeat' first | exact extract_all _ | refine (extract_low _ _ _ _ (by decide)).trans ?_ | refine (extract_high _ _ _ _ (by decide)).trans ?_)
@[simp] theorem XLF.of_bits (f : XLF) : XLF.of f.bits = f := by
  cases f
  simp only [XLF.of, XLF.bits]
  congr
  all_goals (repeat' first | exact extract_all _ | refine (extract_low _ _ _ _ (by decide)).trans ?_ | refine (extract_high _ _ _ _ (by decide)).trans ?_)

/-! ## Codes -/

@[simp] theorem Eng.ofCode_code (c : Eng) : Eng.ofCode c.code = some c := by cases c <;> rfl
@[simp] theorem SigPoint.ofCode_code (c : SigPoint) : SigPoint.ofCode c.code = some c := by cases c <;> rfl
@[simp] theorem Cond.ofCode_code (c : Cond) : Cond.ofCode c.code = some c := by cases c <;> rfl
@[simp] theorem PCond.ofCode_code (c : PCond) : PCond.ofCode c.code = some c := by cases c <;> rfl
@[simp] theorem MSize.ofCode_code (c : MSize) : MSize.ofCode c.code = some c := by cases c <;> rfl
@[simp] theorem Ord.ofCode_code (c : Ord) : Ord.ofCode c.code = some c := by cases c <;> rfl
@[simp] theorem Scope.ofCode_code (c : Scope) : Scope.ofCode c.code = some c := by cases c <;> rfl
@[simp] theorem Rnd.ofCode_code (c : Rnd) : Rnd.ofCode c.code = some c := by cases c <;> rfl
@[simp] theorem ETy.ofCode_code (c : ETy) : ETy.ofCode c.code = some c := by cases c <;> rfl
@[simp] theorem FCmp.ofCode_code (c : FCmp) : FCmp.ofCode c.code = some c := by cases c <;> rfl
@[simp] theorem ICmp.ofCode_code (c : ICmp) : ICmp.ofCode c.code = some c := by cases c <;> rfl
@[simp] theorem ShufPat.ofCode_code (c : ShufPat) : ShufPat.ofCode c.code = some c := by cases c <;> rfl
@[simp] theorem PsetPat.ofCode_code (c : PsetPat) : PsetPat.ofCode c.code = some c := by cases c <;> rfl
@[simp] theorem Csr.ofCode_code (c : Csr) : Csr.ofCode c.code = some c := by cases c <;> rfl
@[simp] theorem AmoOp.ofCode_code (c : AmoOp) : AmoOp.ofCode c.code = some c := by cases c <;> rfl
@[simp] theorem Hint.ofCode_code (c : Hint) : Hint.ofCode c.code = some c := by cases c <;> rfl

@[simp] theorem VSrc.of_code (x : VSrc) (h : x.ok = true) : VSrc.of x.code = some x := by
  cases x with
  | reg n =>
    simp only [VSrc.ok, decide_eq_true_eq] at h
    exact if_pos (show n < 768 by bv_omega)
  | pop q =>
    revert q
    decide
  | peek q =>
    revert q
    decide
@[simp] theorem VDst.of_code (x : VDst) (h : x.ok = true) : VDst.of x.code = some x := by
  cases x with
  | reg n =>
    simp only [VDst.ok, decide_eq_true_eq] at h
    exact if_pos (show n < 768 by bv_omega)
  | push q =>
    revert q
    decide
@[simp] theorem badSrc_code (x : VSrc) (h : x.ok = true) : badSrc x.code = false := by
  simp [badSrc, VSrc.of_code x h]
@[simp] theorem badDst_code (x : VDst) (h : x.ok = true) : badDst x.code = false := by
  simp [badDst, VDst.of_code x h]

/-- The three fields of the fn byte of R169. -/
@[simp] theorem memFnOf_memFn (z : MSize) (o : Ord) (k : Scope) : memFnOf (memFn z o k) = some (z, o, k) := by
  cases z <;> cases o <;> cases k <;> rfl
@[simp] theorem ord_memFn (z : MSize) (o : Ord) (k : Scope) : (memFn z o k).extractLsb' 3 2 = o.code := by
  cases z <;> cases o <;> cases k <;> rfl
@[simp] theorem peerOf_code (p : Option (BitVec 2)) : peerOf (BitVec.ofBool p.isSome) (peerCode p) = p := by
  cases p <;> rfl
@[simp] theorem ofBool_eq_one (b : Bool) : (BitVec.ofBool b == 1#1) = b := by cases b <;> rfl
@[simp] theorem clsCode_eq_one (b : Bool) : (clsCode b == 1#2) = b := by cases b <;> rfl

/-! ## Fields within fields -/

theorem extract_setWidth {n m : Nat} (x : BitVec n) (h : n ≤ m) : (x.setWidth m).extractLsb' 0 n = x := by
  ext i hi
  simp only [BitVec.getElem_extractLsb', BitVec.getLsbD_setWidth]
  simp [hi]
  omega
@[simp] theorem extract_8_64 (x : BitVec 8) : (x.setWidth 64).extractLsb' 0 8 = x := extract_setWidth x (by decide)
@[simp] theorem extract_12_64 (x : BitVec 12) : (x.setWidth 64).extractLsb' 0 12 = x := extract_setWidth x (by decide)
@[simp] theorem extract_16_64 (x : BitVec 16) : (x.setWidth 64).extractLsb' 0 16 = x := extract_setWidth x (by decide)
@[simp] theorem extract_5_24 (x : BitVec 5) : (x.setWidth 24).extractLsb' 0 5 = x := extract_setWidth x (by decide)
@[simp] theorem extract_4_24 (x : BitVec 4) : (x.setWidth 24).extractLsb' 0 4 = x := extract_setWidth x (by decide)
@[simp] theorem extract_10_24 (x : BitVec 10) : (x.setWidth 24).extractLsb' 0 10 = x := extract_setWidth x (by decide)
@[simp] theorem pad_0_4 (x : BitVec 4) : (0#4 ++ x : BitVec 8).extractLsb' 0 4 = x :=
  (extract_low _ _ _ _ (by decide)).trans (extract_all x)
@[simp] theorem padw_0_4 (x : BitVec 4) : (0#4 ++ x : BitVec 8).setWidth 4 = x := by
  revert x
  decide
@[simp] theorem pad_0_6 (x : BitVec 6) : (0#2 ++ x : BitVec 8).extractLsb' 0 6 = x :=
  (extract_low _ _ _ _ (by decide)).trans (extract_all x)
@[simp] theorem padw_0_6 (x : BitVec 6) : (0#2 ++ x : BitVec 8).setWidth 6 = x := by
  revert x
  decide
@[simp] theorem pad_0_2 (x : BitVec 2) : (0#6 ++ x : BitVec 8).extractLsb' 0 2 = x :=
  (extract_low _ _ _ _ (by decide)).trans (extract_all x)
@[simp] theorem padw_0_2 (x : BitVec 2) : (0#6 ++ x : BitVec 8).setWidth 2 = x := by
  revert x
  decide
@[simp] theorem pad_0_3 (x : BitVec 3) : (0#1 ++ x : BitVec 4).extractLsb' 0 3 = x :=
  (extract_low _ _ _ _ (by decide)).trans (extract_all x)
@[simp] theorem padw_0_3 (x : BitVec 3) : (0#1 ++ x : BitVec 4).setWidth 3 = x := by
  revert x
  decide
@[simp] theorem pad_high (x : BitVec 3) : (x ++ 0#5 : BitVec 8).extractLsb' 5 3 = x :=
  (extract_high _ _ _ _ (by decide)).trans (extract_all x)
@[simp] theorem pad_scope (a : BitVec 2) (x : BitVec 3) : (0#3 ++ a ++ x : BitVec 8).extractLsb' 0 3 = x :=
  (extract_low _ _ _ _ (by decide)).trans (extract_all x)
@[simp] theorem pad_sem (a : BitVec 16) (x : BitVec 8) : (0#40 ++ a ++ x : BitVec 64).extractLsb' 0 8 = x :=
  (extract_low _ _ _ _ (by decide)).trans (extract_all x)
@[simp] theorem pad_amt (a : BitVec 16) (x : BitVec 8) : (0#40 ++ a ++ x : BitVec 64).extractLsb' 8 16 = a :=
  (extract_high _ _ _ _ (by decide)).trans ((extract_low _ _ _ _ (by decide)).trans (extract_all a))
@[simp] theorem pad_wsem (a x : BitVec 8) : (0#48 ++ a ++ x : BitVec 64).extractLsb' 0 8 = x :=
  (extract_low _ _ _ _ (by decide)).trans (extract_all x)
@[simp] theorem pad_thr (a x : BitVec 8) : (0#48 ++ a ++ x : BitVec 64).extractLsb' 8 8 = a :=
  (extract_high _ _ _ _ (by decide)).trans ((extract_low _ _ _ _ (by decide)).trans (extract_all a))
@[simp] theorem loadQ_lt (x : BitVec 3) : (0#1 ++ x : BitVec 4) < 8#4 := by
  revert x
  decide
@[simp] theorem storeQ_ge (x : BitVec 2) : 8#4 ≤ (2#2 ++ x : BitVec 4) := by
  revert x
  decide
@[simp] theorem storeQ_lt (x : BitVec 2) : (2#2 ++ x : BitVec 4) < 12#4 := by
  revert x
  decide
@[simp] theorem storeQ_width (x : BitVec 2) : (2#2 ++ x : BitVec 4).setWidth 2 = x := by
  revert x
  decide
@[simp] theorem cont_row_0 (c r : Bool) : (0#6 ++ BitVec.ofBool c ++ BitVec.ofBool r : BitVec 8)[0] = r := by
  revert c r
  decide
@[simp] theorem cont_row_1 (c r : Bool) : (0#6 ++ BitVec.ofBool c ++ BitVec.ofBool r : BitVec 8)[1] = c := by
  revert c r
  decide
/-- The mask of MSTAT from its six bits. -/
theorem mask_bits (m : BitVec 6) : (0#2 ++ m.extractLsb' 5 1 : BitVec 3).setWidth 1 ++ m.extractLsb' 4 1 ++ m.extractLsb' 3 1 ++
    m.extractLsb' 2 1 ++ m.extractLsb' 1 1 ++ m.extractLsb' 0 1 = m := by
  revert m
  decide

/-- The d field of format VI stands where format VR has it. -/
@[simp] theorem VRF.d_of_VIF (f : VIF) : (VRF.of f.bits).d = f.d := congrArg VIF.d (VIF.of_bits f)
theorem runOk_lt (n : BitVec 10) (t : ETy) (h : runOk n.toNat (2 * t.width) = true) : n < 768#10 := by
  cases t <;> simp [runOk, ETy.width] at h <;> bv_omega

/-! ## The immediate of TCOPY (R300) -/

def tcopyImm (l v : BitVec 1) (p : BitVec 2) (k : BitVec 5) (s : BitVec 10) : BitVec 32 := 0#13 ++ l ++ v ++ p ++ k ++ s
@[simp] theorem tcopyImm_slot (l v : BitVec 1) (p : BitVec 2) (k : BitVec 5) (s : BitVec 10) :
    (tcopyImm l v p k s).extractLsb' 0 10 = s := by
  unfold tcopyImm
  repeat' first | exact extract_all _ | refine (extract_low _ _ _ _ (by decide)).trans ?_
@[simp] theorem tcopyImm_k (l v : BitVec 1) (p : BitVec 2) (k : BitVec 5) (s : BitVec 10) :
    (tcopyImm l v p k s).extractLsb' 10 5 = k := by
  unfold tcopyImm
  repeat' first | exact extract_all _ | refine (extract_low _ _ _ _ (by decide)).trans ?_ | refine (extract_high _ _ _ _ (by decide)).trans ?_
@[simp] theorem tcopyImm_peer (l v : BitVec 1) (p : BitVec 2) (k : BitVec 5) (s : BitVec 10) :
    (tcopyImm l v p k s).extractLsb' 15 2 = p := by
  unfold tcopyImm
  repeat' first | exact extract_all _ | refine (extract_low _ _ _ _ (by decide)).trans ?_ | refine (extract_high _ _ _ _ (by decide)).trans ?_
@[simp] theorem tcopyImm_pv (l v : BitVec 1) (p : BitVec 2) (k : BitVec 5) (s : BitVec 10) :
    (tcopyImm l v p k s).extractLsb' 17 1 = v := by
  unfold tcopyImm
  repeat' first | exact extract_all _ | refine (extract_low _ _ _ _ (by decide)).trans ?_ | refine (extract_high _ _ _ _ (by decide)).trans ?_
@[simp] theorem tcopyImm_lu1 (l v : BitVec 1) (p : BitVec 2) (k : BitVec 5) (s : BitVec 10) :
    (tcopyImm l v p k s).extractLsb' 18 1 = l := by
  unfold tcopyImm
  repeat' first | exact extract_all _ | refine (extract_low _ _ _ _ (by decide)).trans ?_ | refine (extract_high _ _ _ _ (by decide)).trans ?_
@[simp] theorem tcopyImm_lu (b : Bool) (v : BitVec 1) (p : BitVec 2) (k : BitVec 5) (s : BitVec 10) :
    (tcopyImm (BitVec.ofBool b) v p k s).getLsbD 18 = b := by
  have h := congrArg (fun x : BitVec 1 => x.getLsbD 0) (tcopyImm_lu1 (BitVec.ofBool b) v p k s)
  simp only [BitVec.getLsbD_extractLsb'] at h
  simpa using h

end Sys2Proof
end

