-- ==== Sys2Proof/Laws/Exec.lean ====
section
/-! SUPPORT. Each arm of exec as an equation, so that no proof unfolds exec. -/

namespace Sys2Proof.Machine

theorem exec_br (o) (s) : exec (.br o) s = execBr o s := rfl
theorem exec_brc (o) (s) : exec (.brc o) s = execBrc o s := rfl
theorem exec_brp (o) (s) : exec (.brp o) s = execBrp o s := rfl
theorem exec_call (o) (s) : exec (.call o) s = execCall o s := rfl
theorem exec_loop (o) (s) : exec (.loop o) s = execLoop o s := rfl
theorem exec_loopm (o) (s) : exec (.loopm o) s = execLoopm o s := rfl
theorem exec_fork (o) (s) : exec (.fork o) s = execFork o s := rfl
theorem exec_winset (o) (s) : exec (.winset o) s = execWinset o s := rfl
theorem exec_brx (o) (s) : exec (.brx o) s = execBrx o s := rfl
theorem exec_add (o) (s) : exec (.add o) s = execAdd o s := rfl
theorem exec_sub (o) (s) : exec (.sub o) s = execSub o s := rfl
theorem exec_addi (o) (s) : exec (.addi o) s = execAddi o s := rfl
theorem exec_mul (o) (s) : exec (.mul o) s = execMul o s := rfl
theorem exec_mulh (o) (s) : exec (.mulh o) s = execMulh o s := rfl
theorem exec_mulhn (o) (s) : exec (.mulhn o) s = execMulhn o s := rfl
theorem exec_div (o) (s) : exec (.div o) s = execDiv o s := rfl
theorem exec_divn (o) (s) : exec (.divn o) s = execDivn o s := rfl
theorem exec_rem (o) (s) : exec (.rem o) s = execRem o s := rfl
theorem exec_remn (o) (s) : exec (.remn o) s = execRemn o s := rfl
theorem exec_and (o) (s) : exec (.and o) s = execAnd o s := rfl
theorem exec_or (o) (s) : exec (.or o) s = execOr o s := rfl
theorem exec_xor (o) (s) : exec (.xor o) s = execXor o s := rfl
theorem exec_andn (o) (s) : exec (.andn o) s = execAndn o s := rfl
theorem exec_shl (o) (s) : exec (.shl o) s = execShl o s := rfl
theorem exec_shr (o) (s) : exec (.shr o) s = execShr o s := rfl
theorem exec_sra (o) (s) : exec (.sra o) s = execSra o s := rfl
theorem exec_rotr (o) (s) : exec (.rotr o) s = execRotr o s := rfl
theorem exec_cmp (o) (s) : exec (.cmp o) s = execCmp o s := rfl
theorem exec_min (o) (s) : exec (.min o) s = execMin o s := rfl
theorem exec_max (o) (s) : exec (.max o) s = execMax o s := rfl
theorem exec_minn (o) (s) : exec (.minn o) s = execMinn o s := rfl
theorem exec_maxn (o) (s) : exec (.maxn o) s = execMaxn o s := rfl
theorem exec_sel (o) (s) : exec (.sel o) s = execSel o s := rfl
theorem exec_clz (o) (s) : exec (.clz o) s = execClz o s := rfl
theorem exec_ctz (o) (s) : exec (.ctz o) s = execCtz o s := rfl
theorem exec_popc (o) (s) : exec (.popc o) s = execPopc o s := rfl
theorem exec_brev (o) (s) : exec (.brev o) s = execBrev o s := rfl
theorem exec_bswap (o) (s) : exec (.bswap o) s = execBswap o s := rfl
theorem exec_extr (o) (s) : exec (.extr o) s = execExtr o s := rfl
theorem exec_insr (o) (s) : exec (.insr o) s = execInsr o s := rfl
theorem exec_movi (o) (s) : exec (.movi o) s = execMovi o s := rfl
theorem exec_mov (o) (s) : exec (.mov o) s = execMov o s := rfl
theorem exec_sext (o) (s) : exec (.sext o) s = execSext o s := rfl
theorem exec_zext (o) (s) : exec (.zext o) s = execZext o s := rfl
theorem exec_getl (o) (s) : exec (.getl o) s = execGetl o s := rfl
theorem exec_ld (o) (s) : exec (.ld o) s = execLd o s := rfl
theorem exec_st (o) (s) : exec (.st o) s = execSt o s := rfl
theorem exec_lda (o) (s) : exec (.lda o) s = execLda o s := rfl
theorem exec_stl (o) (s) : exec (.stl o) s = execStl o s := rfl
theorem exec_ldnt (o) (s) : exec (.ldnt o) s = execLdnt o s := rfl
theorem exec_prefl (o) (s) : exec (.prefl o) s = execPrefl o s := rfl
theorem exec_amoadd (o) (s) : exec (.amoadd o) s = execAmoadd o s := rfl
theorem exec_amoand (o) (s) : exec (.amoand o) s = execAmoand o s := rfl
theorem exec_amoor (o) (s) : exec (.amoor o) s = execAmoor o s := rfl
theorem exec_amoxor (o) (s) : exec (.amoxor o) s = execAmoxor o s := rfl
theorem exec_amomin (o) (s) : exec (.amomin o) s = execAmomin o s := rfl
theorem exec_amomax (o) (s) : exec (.amomax o) s = execAmomax o s := rfl
theorem exec_amominn (o) (s) : exec (.amominn o) s = execAmominn o s := rfl
theorem exec_amomaxn (o) (s) : exec (.amomaxn o) s = execAmomaxn o s := rfl
theorem exec_amoswp (o) (s) : exec (.amoswp o) s = execAmoswp o s := rfl
theorem exec_cas (o) (s) : exec (.cas o) s = execCas o s := rfl
theorem exec_cas2 (o) (s) : exec (.cas2 o) s = execCas2 o s := rfl
theorem exec_amofadd (o) (s) : exec (.amofadd o) s = execAmofadd o s := rfl
theorem exec_fenceAcq (o) (s) : exec (.fenceAcq o) s = execFenceAcq o s := rfl
theorem exec_fenceRel (o) (s) : exec (.fenceRel o) s = execFenceRel o s := rfl
theorem exec_fenceFull (o) (s) : exec (.fenceFull o) s = execFenceFull o s := rfl
theorem exec_fenceMca (o) (s) : exec (.fenceMca o) s = execFenceMca o s := rfl
theorem exec_dcwb (o) (s) : exec (.dcwb o) s = execDcwb o s := rfl
theorem exec_dcinv (o) (s) : exec (.dcinv o) s = execDcinv o s := rfl
theorem exec_iinv (o) (s) : exec (.iinv o) s = execIinv o s := rfl
theorem exec_semsig (o) (s) : exec (.semsig o) s = execSemsig o s := rfl
theorem exec_semwait (o) (s) : exec (.semwait o) s = execSemwait o s := rfl
theorem exec_semget (o) (s) : exec (.semget o) s = execSemget o s := rfl
theorem exec_semset (o) (s) : exec (.semset o) s = execSemset o s := rfl
theorem exec_evset (o) (s) : exec (.evset o) s = execEvset o s := rfl
theorem exec_evclr (o) (s) : exec (.evclr o) s = execEvclr o s := rfl
theorem exec_evwait (o) (s) : exec (.evwait o) s = execEvwait o s := rfl
theorem exec_launch (o) (s) : exec (.launch o) s = execLaunch o s := rfl
theorem exec_lstat (o) (s) : exec (.lstat o) s = execLstat o s := rfl
theorem exec_kset (o) (s) : exec (.kset o) s = execKset o s := rfl
theorem exec_kadd (o) (s) : exec (.kadd o) s = execKadd o s := rfl
theorem exec_kgetLo (o) (s) : exec (.kgetLo o) s = execKgetLo o s := rfl
theorem exec_kgetHi (o) (s) : exec (.kgetHi o) s = execKgetHi o s := rfl
theorem exec_csrr (o) (s) : exec (.csrr o) s = execCsrr o s := rfl
theorem exec_csrw (o) (s) : exec (.csrw o) s = execCsrw o s := rfl
theorem exec_chron (o) (s) : exec (.chron o) s = execChron o s := rfl
theorem exec_trap (o) (s) : exec (.trap o) s = execTrap o s := rfl
theorem exec_brk (o) (s) : exec (.brk o) s = execBrk o s := rfl
theorem exec_csrrp (o) (s) : exec (.csrrp o) s = execCsrrp o s := rfl
theorem exec_csrwp (o) (s) : exec (.csrwp o) s = execCsrwp o s := rfl
theorem exec_resume (o) (s) : exec (.resume o) s = execResume o s := rfl
theorem exec_harvest (o) (s) : exec (.harvest o) s = execHarvest o s := rfl
theorem exec_tlbinvRange (o) (s) : exec (.tlbinvRange o) s = execTlbinvRange o s := rfl
theorem exec_tlbinvAsid (o) (s) : exec (.tlbinvAsid o) s = execTlbinvAsid o s := rfl
theorem exec_killtask (o) (s) : exec (.killtask o) s = execKilltask o s := rfl
theorem exec_vfadd (o) (s) : exec (.vfadd o) s = execVfadd o s := rfl
theorem exec_vfsub (o) (s) : exec (.vfsub o) s = execVfsub o s := rfl
theorem exec_vfmul (o) (s) : exec (.vfmul o) s = execVfmul o s := rfl
theorem exec_vfmulz (o) (s) : exec (.vfmulz o) s = execVfmulz o s := rfl
theorem exec_vfma (o) (s) : exec (.vfma o) s = execVfma o s := rfl
theorem exec_vfmaz (o) (s) : exec (.vfmaz o) s = execVfmaz o s := rfl
theorem exec_vfms (o) (s) : exec (.vfms o) s = execVfms o s := rfl
theorem exec_vfnma (o) (s) : exec (.vfnma o) s = execVfnma o s := rfl
theorem exec_vfmin (o) (s) : exec (.vfmin o) s = execVfmin o s := rfl
theorem exec_vfmax (o) (s) : exec (.vfmax o) s = execVfmax o s := rfl
theorem exec_vfabs (o) (s) : exec (.vfabs o) s = execVfabs o s := rfl
theorem exec_vfneg (o) (s) : exec (.vfneg o) s = execVfneg o s := rfl
theorem exec_vfcpsgn (o) (s) : exec (.vfcpsgn o) s = execVfcpsgn o s := rfl
theorem exec_vfdiv (o) (s) : exec (.vfdiv o) s = execVfdiv o s := rfl
theorem exec_vfsqrt (o) (s) : exec (.vfsqrt o) s = execVfsqrt o s := rfl
theorem exec_vfrcp (o) (s) : exec (.vfrcp o) s = execVfrcp o s := rfl
theorem exec_vfrsq (o) (s) : exec (.vfrsq o) s = execVfrsq o s := rfl
theorem exec_vfexp2 (o) (s) : exec (.vfexp2 o) s = execVfexp2 o s := rfl
theorem exec_vflog2 (o) (s) : exec (.vflog2 o) s = execVflog2 o s := rfl
theorem exec_vfsin (o) (s) : exec (.vfsin o) s = execVfsin o s := rfl
theorem exec_vfcos (o) (s) : exec (.vfcos o) s = execVfcos o s := rfl
theorem exec_vftanh (o) (s) : exec (.vftanh o) s = execVftanh o s := rfl
theorem exec_vfcmp (o) (s) : exec (.vfcmp o) s = execVfcmp o s := rfl
theorem exec_vfclass (o) (s) : exec (.vfclass o) s = execVfclass o s := rfl
theorem exec_vfrnd (o) (s) : exec (.vfrnd o) s = execVfrnd o s := rfl
theorem exec_vadd (o) (s) : exec (.vadd o) s = execVadd o s := rfl
theorem exec_vsub (o) (s) : exec (.vsub o) s = execVsub o s := rfl
theorem exec_vadds (o) (s) : exec (.vadds o) s = execVadds o s := rfl
theorem exec_vsubs (o) (s) : exec (.vsubs o) s = execVsubs o s := rfl
theorem exec_vmul (o) (s) : exec (.vmul o) s = execVmul o s := rfl
theorem exec_vmulh (o) (s) : exec (.vmulh o) s = execVmulh o s := rfl
theorem exec_vmin (o) (s) : exec (.vmin o) s = execVmin o s := rfl
theorem exec_vmax (o) (s) : exec (.vmax o) s = execVmax o s := rfl
theorem exec_vand (o) (s) : exec (.vand o) s = execVand o s := rfl
theorem exec_vor (o) (s) : exec (.vor o) s = execVor o s := rfl
theorem exec_vxor (o) (s) : exec (.vxor o) s = execVxor o s := rfl
theorem exec_vshl (o) (s) : exec (.vshl o) s = execVshl o s := rfl
theorem exec_vshlImm (o) (s) : exec (.vshlImm o) s = execVshlImm o s := rfl
theorem exec_vshr (o) (s) : exec (.vshr o) s = execVshr o s := rfl
theorem exec_vshrImm (o) (s) : exec (.vshrImm o) s = execVshrImm o s := rfl
theorem exec_vsra (o) (s) : exec (.vsra o) s = execVsra o s := rfl
theorem exec_vsraImm (o) (s) : exec (.vsraImm o) s = execVsraImm o s := rfl
theorem exec_vcmp (o) (s) : exec (.vcmp o) s = execVcmp o s := rfl
theorem exec_vabs (o) (s) : exec (.vabs o) s = execVabs o s := rfl
theorem exec_vclz (o) (s) : exec (.vclz o) s = execVclz o s := rfl
theorem exec_vpopc (o) (s) : exec (.vpopc o) s = execVpopc o s := rfl
theorem exec_vcvt (o) (s) : exec (.vcvt o) s = execVcvt o s := rfl
theorem exec_vpack (o) (s) : exec (.vpack o) s = execVpack o s := rfl
theorem exec_vunpk (o) (s) : exec (.vunpk o) s = execVunpk o s := rfl
theorem exec_vqnt (o) (s) : exec (.vqnt o) s = execVqnt o s := rfl
theorem exec_vscl (o) (s) : exec (.vscl o) s = execVscl o s := rfl
theorem exec_vsclImm (o) (s) : exec (.vsclImm o) s = execVsclImm o s := rfl
theorem exec_vmov (o) (s) : exec (.vmov o) s = execVmov o s := rfl
theorem exec_vmovi (o) (s) : exec (.vmovi o) s = execVmovi o s := rfl
theorem exec_vsel (o) (s) : exec (.vsel o) s = execVsel o s := rfl
theorem exec_vperm (o) (s) : exec (.vperm o) s = execVperm o s := rfl
theorem exec_vshuf (o) (s) : exec (.vshuf o) s = execVshuf o s := rfl
theorem exec_vrot (o) (s) : exec (.vrot o) s = execVrot o s := rfl
theorem exec_vslide (o) (s) : exec (.vslide o) s = execVslide o s := rfl
theorem exec_vbcast (o) (s) : exec (.vbcast o) s = execVbcast o s := rfl
theorem exec_vbcastScalar (o) (s) : exec (.vbcastScalar o) s = execVbcastScalar o s := rfl
theorem exec_vsetl (o) (s) : exec (.vsetl o) s = execVsetl o s := rfl
theorem exec_vtpose (o) (s) : exec (.vtpose o) s = execVtpose o s := rfl
theorem exec_viota (o) (s) : exec (.viota o) s = execViota o s := rfl
theorem exec_viotaCnt (o) (s) : exec (.viotaCnt o) s = execViotaCnt o s := rfl
theorem exec_vcompr (o) (s) : exec (.vcompr o) s = execVcompr o s := rfl
theorem exec_vexpnd (o) (s) : exec (.vexpnd o) s = execVexpnd o s := rfl
theorem exec_vrsum (o) (s) : exec (.vrsum o) s = execVrsum o s := rfl
theorem exec_vrmax (o) (s) : exec (.vrmax o) s = execVrmax o s := rfl
theorem exec_vrmin (o) (s) : exec (.vrmin o) s = execVrmin o s := rfl
theorem exec_vramax (o) (s) : exec (.vramax o) s = execVramax o s := rfl
theorem exec_vscan (o) (s) : exec (.vscan o) s = execVscan o s := rfl
theorem exec_vrsumw (o) (s) : exec (.vrsumw o) s = execVrsumw o s := rfl
theorem exec_pand (o) (s) : exec (.pand o) s = execPand o s := rfl
theorem exec_por (o) (s) : exec (.por o) s = execPor o s := rfl
theorem exec_pxor (o) (s) : exec (.pxor o) s = execPxor o s := rfl
theorem exec_pnot (o) (s) : exec (.pnot o) s = execPnot o s := rfl
theorem exec_pmov (o) (s) : exec (.pmov o) s = execPmov o s := rfl
theorem exec_pset (o) (s) : exec (.pset o) s = execPset o s := rfl
theorem exec_pfirst (o) (s) : exec (.pfirst o) s = execPfirst o s := rfl
theorem exec_accz (o) (s) : exec (.accz o) s = execAccz o s := rfl
theorem exec_accld (o) (s) : exec (.accld o) s = execAccld o s := rfl
theorem exec_accst (o) (s) : exec (.accst o) s = execAccst o s := rfl
theorem exec_mma (o) (s) : exec (.mma o) s = execMma o s := rfl
theorem exec_attq (o) (s) : exec (.attq o) s = execAttq o s := rfl
theorem exec_attkv (o) (s) : exec (.attkv o) s = execAttkv o s := rfl
theorem exec_attfin (o) (s) : exec (.attfin o) s = execAttfin o s := rfl
theorem exec_attst (o) (s) : exec (.attst o) s = execAttst o s := rfl
theorem exec_attmrg (o) (s) : exec (.attmrg o) s = execAttmrg o s := rfl
theorem exec_mstat (o) (s) : exec (.mstat o) s = execMstat o s := rfl
theorem exec_tbind (o) (s) : exec (.tbind o) s = execTbind o s := rfl
theorem exec_tunb (o) (s) : exec (.tunb o) s = execTunb o s := rfl
theorem exec_tvacq (o) (s) : exec (.tvacq o) s = execTvacq o s := rfl
theorem exec_tvbump (o) (s) : exec (.tvbump o) s = execTvbump o s := rfl
theorem exec_tfill (o) (s) : exec (.tfill o) s = execTfill o s := rfl
theorem exec_tpref (o) (s) : exec (.tpref o) s = execTpref o s := rfl
theorem exec_tpin (o) (s) : exec (.tpin o) s = execTpin o s := rfl
theorem exec_tunpin (o) (s) : exec (.tunpin o) s = execTunpin o s := rfl
theorem exec_tunpinSlot (o) (s) : exec (.tunpinSlot o) s = execTunpinSlot o s := rfl
theorem exec_thint (o) (s) : exec (.thint o) s = execThint o s := rfl
theorem exec_thintSlot (o) (s) : exec (.thintSlot o) s = execThintSlot o s := rfl
theorem exec_twb (o) (s) : exec (.twb o) s = execTwb o s := rfl
theorem exec_twbSlot (o) (s) : exec (.twbSlot o) s = execTwbSlot o s := rfl
theorem exec_tinv (o) (s) : exec (.tinv o) s = execTinv o s := rfl
theorem exec_tinvSlot (o) (s) : exec (.tinvSlot o) s = execTinvSlot o s := rfl
theorem exec_tcopy (o) (s) : exec (.tcopy o) s = execTcopy o s := rfl
theorem exec_gset (o) (s) : exec (.gset o) s = execGset o s := rfl
theorem exec_grun (o) (s) : exec (.grun o) s = execGrun o s := rfl
theorem exec_gsto (o) (s) : exec (.gsto o) s = execGsto o s := rfl
theorem exec_gstop (o) (s) : exec (.gstop o) s = execGstop o s := rfl
theorem exec_qclr (o) (s) : exec (.qclr o) s = execQclr o s := rfl
theorem exec_ldx (o) (s) : exec (.ldx o) s = execLdx o s := rfl
theorem exec_ldxBt (o) (s) : exec (.ldxBt o) s = execLdxBt o s := rfl
theorem exec_gatherLin (o) (s) : exec (.gatherLin o) s = execGatherLin o s := rfl
theorem exec_gatherPaged (o) (s) : exec (.gatherPaged o) s = execGatherPaged o s := rfl
theorem exec_gatherIdx (o) (s) : exec (.gatherIdx o) s = execGatherIdx o s := rfl
theorem exec_scatterLin (o) (s) : exec (.scatterLin o) s = execScatterLin o s := rfl
theorem exec_scatterPaged (o) (s) : exec (.scatterPaged o) s = execScatterPaged o s := rfl
theorem exec_tzero (o) (s) : exec (.tzero o) s = execTzero o s := rfl
theorem exec_rld (o) (s) : exec (.rld o) s = execRld o s := rfl
theorem exec_rst (o) (s) : exec (.rst o) s = execRst o s := rfl
theorem exec_ramo (o) (s) : exec (.ramo o) s = execRamo o s := rfl
theorem exec_rcas (o) (s) : exec (.rcas o) s = execRcas o s := rfl
theorem exec_rsig (o) (s) : exec (.rsig o) s = execRsig o s := rfl
theorem exec_rput (o) (s) : exec (.rput o) s = execRput o s := rfl
theorem exec_rget (o) (s) : exec (.rget o) s = execRget o s := rfl
theorem exec_grpset (o) (s) : exec (.grpset o) s = execGrpset o s := rfl
theorem exec_grpstat (o) (s) : exec (.grpstat o) s = execGrpstat o s := rfl
theorem exec_mldred (o) (s) : exec (.mldred o) s = execMldred o s := rfl
theorem exec_mcast (o) (s) : exec (.mcast o) s = execMcast o s := rfl
theorem exec_jcopy (o) (s) : exec (.jcopy o) s = execJcopy o s := rfl
theorem exec_jfill (o) (s) : exec (.jfill o) s = execJfill o s := rfl
theorem exec_jsel (o) (s) : exec (.jsel o) s = execJsel o s := rfl
theorem exec_jpage (o) (s) : exec (.jpage o) s = execJpage o s := rfl
theorem exec_jspan (o) (s) : exec (.jspan o) s = execJspan o s := rfl
theorem exec_jcommit (o) (s) : exec (.jcommit o) s = execJcommit o s := rfl
theorem exec_jtag (o) (s) : exec (.jtag o) s = execJtag o s := rfl
theorem exec_jnode (o) (s) : exec (.jnode o) s = execJnode o s := rfl
theorem exec_jwait (o) (s) : exec (.jwait o) s = execJwait o s := rfl
theorem exec_jwaitAll (o) (s) : exec (.jwaitAll o) s = execJwaitAll o s := rfl
theorem exec_jstat (o) (s) : exec (.jstat o) s = execJstat o s := rfl
theorem exec_jcancel (o) (s) : exec (.jcancel o) s = execJcancel o s := rfl
theorem exec_syncX (s) : exec .syncX s = execSyncX s := rfl
theorem exec_ret (s) : exec .ret s = execRet s := rfl
theorem exec_rdv (s) : exec .rdv s = execRdv s := rfl
theorem exec_exit (s) : exec .exit s = execExit s := rfl
theorem exec_fret (s) : exec .fret s = execFret s := rfl
theorem exec_syncS (s) : exec .syncS s = execSyncS s := rfl
theorem exec_fetchb (s) : exec .fetchb s = execFetchb s := rfl
theorem exec_barTeam (s) : exec .barTeam s = execBarTeam s := rfl
theorem exec_barDie (s) : exec .barDie s = execBarDie s := rfl
theorem exec_barModule (s) : exec .barModule s = execBarModule s := rfl
theorem exec_barDomain (s) : exec .barDomain s = execBarDomain s := rfl
theorem exec_yield (s) : exec .yield s = execYield s := rfl
theorem exec_tlbinvAll (s) : exec .tlbinvAll s = execTlbinvAll s := rfl
theorem exec_syncV (s) : exec .syncV s = execSyncV s := rfl
theorem exec_syncM (s) : exec .syncM s = execSyncM s := rfl
theorem exec_lease (s) : exec .lease s = execLease s := rfl
theorem exec_lrel (s) : exec .lrel s = execLrel s := rfl
theorem exec_mburstStart (s) : exec .mburstStart s = execMburstStart s := rfl
theorem exec_mburstEnd (s) : exec .mburstEnd s = execMburstEnd s := rfl
theorem exec_syncA (s) : exec .syncA s = execSyncA s := rfl
theorem exec_syncF (s) : exec .syncF s = execSyncF s := rfl
theorem exec_rfence (s) : exec .rfence s = execRfence s := rfl
theorem exec_rwait (s) : exec .rwait s = execRwait s := rfl
theorem exec_syncJ (s) : exec .syncJ s = execSyncJ s := rfl
theorem exec_signalClause (s) : exec .signalClause s = execSignalClause s := rfl
theorem exec_rsigArrival (s) : exec .rsigArrival s = execRsigArrival s := rfl
theorem exec_taskEnd (s) : exec .taskEnd s = execTaskEnd s := rfl
theorem exec_replayExecute (s) : exec .replayExecute s = execReplayExecute s := rfl
theorem exec_tileFill (s) : exec .tileFill s = execTileFill s := rfl
theorem exec_tileWriteBack (s) : exec .tileWriteBack s = execTileWriteBack s := rfl
theorem exec_causalWriteApply (s) : exec .causalWriteApply s = execCausalWriteApply s := rfl
theorem exec_controlNodeWrite (s) : exec .controlNodeWrite s = execControlNodeWrite s := rfl
theorem exec_controlNodeRead (s) : exec .controlNodeRead s = execControlNodeRead s := rfl
theorem exec_mailboxCas (s) : exec .mailboxCas s = execMailboxCas s := rfl
theorem exec_copyJob (s) : exec .copyJob s = execCopyJob s := rfl
theorem exec_fillJob (s) : exec .fillJob s = execFillJob s := rfl
theorem exec_selectJob (s) : exec .selectJob s = execSelectJob s := rfl
theorem exec_pageJob (s) : exec .pageJob s = execPageJob s := rfl
theorem exec_tagJob (s) : exec .tagJob s = execTagJob s := rfl
theorem exec_spanKeep (s) : exec .spanKeep s = execSpanKeep s := rfl
theorem exec_spanClose (s) : exec .spanClose s = execSpanClose s := rfl
theorem exec_spanCloseRot (s) : exec .spanCloseRot s = execSpanCloseRot s := rfl
theorem exec_commitJob (s) : exec .commitJob s = execCommitJob s := rfl
theorem exec_commitRepair (s) : exec .commitRepair s = execCommitRepair s := rfl
theorem exec_pendingFramePush (s) : exec .pendingFramePush s = execPendingFramePush s := rfl
theorem exec_generatorLoadEntry (s) : exec .generatorLoadEntry s = execGeneratorLoadEntry s := rfl
theorem exec_generatorStoreEntry (s) : exec .generatorStoreEntry s = execGeneratorStoreEntry s := rfl
theorem exec_versionReread (s) : exec .versionReread s = execVersionReread s := rfl
theorem exec_remoteRequest (s) : exec .remoteRequest s = execRemoteRequest s := rfl
theorem exec_remoteAck (s) : exec .remoteAck s = execRemoteAck s := rfl
theorem exec_remoteTimeout (s) : exec .remoteTimeout s = execRemoteTimeout s := rfl
theorem exec_deferredFailure (s) : exec .deferredFailure s = execDeferredFailure s := rfl
theorem exec_contributionArrival (s) : exec .contributionArrival s = execContributionArrival s := rfl
theorem exec_episodeResult (s) : exec .episodeResult s = execEpisodeResult s := rfl
theorem exec_reduceTimeout (s) : exec .reduceTimeout s = execReduceTimeout s := rfl
theorem exec_leaseGrant (s) : exec .leaseGrant s = execLeaseGrant s := rfl
theorem exec_leaseQuantumExpiry (s) : exec .leaseQuantumExpiry s = execLeaseQuantumExpiry s := rfl
theorem exec_arrayLevelStep (s) : exec .arrayLevelStep s = execArrayLevelStep s := rfl
theorem exec_burstLapse (s) : exec .burstLapse s = execBurstLapse s := rfl
theorem exec_rampDownStart (s) : exec .rampDownStart s = execRampDownStart s := rfl
theorem exec_recordFetch (s) : exec .recordFetch s = execRecordFetch s := rfl
theorem exec_eventWaitResolve (s) : exec .eventWaitResolve s = execEventWaitResolve s := rfl
theorem exec_nodeDispatch (s) : exec .nodeDispatch s = execNodeDispatch s := rfl
theorem exec_waitMemoryPoll (s) : exec .waitMemoryPoll s = execWaitMemoryPoll s := rfl
theorem exec_signalMemory (s) : exec .signalMemory s = execSignalMemory s := rfl
theorem exec_fenceRecord (s) : exec .fenceRecord s = execFenceRecord s := rfl
theorem exec_nopRecord (s) : exec .nopRecord s = execNopRecord s := rfl
theorem exec_recordCompletion (s) : exec .recordCompletion s = execRecordCompletion s := rfl
theorem exec_pendingLaunchEntry (s) : exec .pendingLaunchEntry s = execPendingLaunchEntry s := rfl
theorem exec_agingTimer (s) : exec .agingTimer s = execAgingTimer s := rfl
theorem exec_quantumExpiry (s) : exec .quantumExpiry s = execQuantumExpiry s := rfl
theorem exec_safePointStop (s) : exec .safePointStop s = execSafePointStop s := rfl
theorem exec_preemptDeadline (s) : exec .preemptDeadline s = execPreemptDeadline s := rfl
theorem exec_teamResume (s) : exec .teamResume s = execTeamResume s := rfl
theorem exec_qcfgWrite (s) : exec .qcfgWrite s = execQcfgWrite s := rfl
theorem exec_wptrWrite (s) : exec .wptrWrite s = execWptrWrite s := rfl
theorem exec_registerWrite (s) : exec .registerWrite s = execRegisterWrite s := rfl
theorem exec_faultDelivery (s) : exec .faultDelivery s = execFaultDelivery s := rfl
theorem exec_refusedAccessRetry (s) : exec .refusedAccessRetry s = execRefusedAccessRetry s := rfl
theorem exec_packetRoute (s) : exec .packetRoute s = execPacketRoute s := rfl
theorem exec_idleFlit (s) : exec .idleFlit s = execIdleFlit s := rfl
theorem exec_linkSilence (s) : exec .linkSilence s = execLinkSilence s := rfl
theorem exec_linkReplayLimit (s) : exec .linkReplayLimit s = execLinkReplayLimit s := rfl
theorem exec_dieLost (s) : exec .dieLost s = execDieLost s := rfl
theorem exec_linkNoticeReceive (s) : exec .linkNoticeReceive s = execLinkNoticeReceive s := rfl
theorem exec_pctlRetrain (s) : exec .pctlRetrain s = execPctlRetrain s := rfl
theorem exec_pctlDis (s) : exec .pctlDis s = execPctlDis s := rfl
theorem exec_linkTrainingDone (s) : exec .linkTrainingDone s = execLinkTrainingDone s := rfl
theorem exec_fepochWrite (s) : exec .fepochWrite s = execFepochWrite s := rfl
theorem exec_windowTableWrite (s) : exec .windowTableWrite s = execWindowTableWrite s := rfl
theorem exec_powerOn (s) : exec .powerOn s = execPowerOn s := rfl
theorem exec_resetRequest (s) : exec .resetRequest s = execResetRequest s := rfl
theorem exec_firmwareFetchRetry (s) : exec .firmwareFetchRetry s = execFirmwareFetchRetry s := rfl
theorem exec_firmwareImage (s) : exec .firmwareImage s = execFirmwareImage s := rfl
theorem exec_attestationRequest (s) : exec .attestationRequest s = execAttestationRequest s := rfl
theorem exec_sensorRefresh (s) : exec .sensorRefresh s = execSensorRefresh s := rfl
theorem exec_chronoExchange (s) : exec .chronoExchange s = execChronoExchange s := rfl
theorem exec_referenceLoss (s) : exec .referenceLoss s = execReferenceLoss s := rfl

end Sys2Proof.Machine
end

