-- ==== Sys2Proof/Laws/SMap.lean ====
section
/-! SUPPORT. Sparse stores: what reading, writing and the canonical form do to each other. -/

namespace Sys2Proof.SMap

variable {α : Type}

/-- The canonical form of a store with a first entry: that entry below every later key, not the default, and the rest
canonical. -/
theorem wf_cons [DecidableEq α] (d : α) (k : Nat) (v : α) (t : SMap α) :
    wf d ((k, v) :: t) = true ↔ v ≠ d ∧ (∀ e ∈ t, k < e.1) ∧ wf d t = true := by
  induction t generalizing k v with
  | nil => simp [wf]
  | cons e t ih =>
    obtain ⟨k', v'⟩ := e
    rw [wf]
    simp only [Bool.and_eq_true, decide_eq_true_eq, List.mem_cons, forall_eq_or_imp]
    constructor
    · rintro ⟨⟨h1, h2⟩, h3⟩
      have h4 := (ih k' v').1 h3
      exact ⟨h2, ⟨h1, fun e he => lt_trans h1 (h4.2.1 e he)⟩, h3⟩
    · rintro ⟨h2, ⟨h1, -⟩, h3⟩
      exact ⟨⟨h1, h2⟩, h3⟩

theorem wf_nil [DecidableEq α] (d : α) : wf d ([] : SMap α) = true := rfl

/-- An entry of the result of listing a key is that key's or one that stood before. -/
theorem mem_ins (m : SMap α) (k : Nat) (v : α) (e : Nat × α) (h : e ∈ ins m k v) : e.1 = k ∨ e ∈ m := by
  induction m with
  | nil => simp_all [ins]
  | cons x t ih =>
    obtain ⟨k', v'⟩ := x
    simp only [ins] at h
    split_ifs at h with h1 h2
    · rcases List.mem_cons.1 h with rfl | h
      · exact .inl rfl
      · exact .inr (List.mem_cons_of_mem _ h)
    · rcases List.mem_cons.1 h with rfl | h
      · exact .inl rfl
      · exact .inr h
    · rcases List.mem_cons.1 h with rfl | h
      · exact .inr List.mem_cons_self
      · exact (ih h).imp id (List.mem_cons_of_mem _)

theorem mem_drop (m : SMap α) (k : Nat) (e : Nat × α) (h : e ∈ drop m k) : e ∈ m := by
  induction m with
  | nil => simp [drop] at h
  | cons x t ih =>
    obtain ⟨k', v'⟩ := x
    simp only [drop] at h
    split_ifs at h with h1
    · exact List.mem_cons_of_mem _ (ih h)
    · rcases List.mem_cons.1 h with rfl | h
      · exact List.mem_cons_self
      · exact List.mem_cons_of_mem _ (ih h)

theorem wf_ins [DecidableEq α] (d : α) (m : SMap α) (k : Nat) (v : α) (hv : v ≠ d) (h : wf d m = true) :
    wf d (ins m k v) = true := by
  induction m with
  | nil => simpa [ins, wf] using hv
  | cons x t ih =>
    obtain ⟨k', v'⟩ := x
    obtain ⟨h1, h2, h3⟩ := (wf_cons d k' v' t).1 h
    simp only [ins]
    split_ifs with e1 e2
    · subst e1
      exact (wf_cons ..).2 ⟨hv, h2, h3⟩
    · exact (wf_cons ..).2 ⟨hv, fun e he => by
        rcases List.mem_cons.1 he with rfl | he
        · exact e2
        · exact lt_trans e2 (h2 e he), h⟩
    · refine (wf_cons ..).2 ⟨h1, fun e he => ?_, ih h3⟩
      rcases mem_ins _ _ _ _ he with he | he
      · rw [he]
        omega
      · exact h2 e he

theorem wf_drop [DecidableEq α] (d : α) (m : SMap α) (k : Nat) (h : wf d m = true) : wf d (drop m k) = true := by
  induction m with
  | nil => rfl
  | cons x t ih =>
    obtain ⟨k', v'⟩ := x
    obtain ⟨h1, h2, h3⟩ := (wf_cons d k' v' t).1 h
    simp only [drop]
    split_ifs
    · exact ih h3
    · exact (wf_cons ..).2 ⟨h1, fun e he => h2 e (mem_drop _ _ _ he), ih h3⟩

/-- A write keeps the canonical form. -/
theorem wf_put [DecidableEq α] (d : α) (m : SMap α) (k : Nat) (v : α) (h : wf d m = true) :
    wf d (put d m k v) = true := by
  unfold put
  split_ifs with hv
  · exact wf_drop d m k h
  · exact wf_ins d m k v hv h

theorem look_ins (d : α) (m : SMap α) (k k' : Nat) (v : α) :
    look d (ins m k v) k' = if k' = k then v else look d m k' := by
  induction m with
  | nil =>
    simp only [ins, look]
    split_ifs <;> first | rfl | omega
  | cons x t ih =>
    obtain ⟨a, b⟩ := x
    simp only [ins]
    split_ifs with e1 e2 <;> simp only [look] <;> split_ifs <;> first | rfl | omega | skip
    all_goals rw [ih]; split_ifs; rfl

theorem look_drop (d : α) (m : SMap α) (k k' : Nat) :
    look d (drop m k) k' = if k' = k then d else look d m k' := by
  induction m with
  | nil => simp [drop, look]
  | cons x t ih =>
    obtain ⟨a, b⟩ := x
    simp only [drop]
    split_ifs with e1 e2 e3 <;> simp only [look, ih] <;> split_ifs <;> first | rfl | omega

/-- A read after a write: the value written at its key, what stood before elsewhere. -/
theorem look_put [DecidableEq α] (d : α) (m : SMap α) (k k' : Nat) (v : α) :
    look d (put d m k v) k' = if k' = k then v else look d m k' := by
  unfold put
  split_ifs with hv e e
  · rw [look_drop, if_pos e, hv]
  · rw [look_drop, if_neg e]
  · rw [look_ins, if_pos e]
  · rw [look_ins, if_neg e]

end Sys2Proof.SMap
end

