-- ==== Sys2Proof/Laws/State.lean ====
section
/-! SUPPORT. What each update of the state and of a task leaves alone, one lemma a field, and reads after writes of cores,
tasks, strands, queues and routers. -/

namespace Sys2Proof.Machine

/-! ## Updates of the state -/

@[simp] theorem State.setCore_mem (s : State) (c : Nat) (x : Core) : (s.setCore c x).mem = s.mem := rfl
@[simp] theorem State.setCore_clusters (s : State) (c : Nat) (x : Core) : (s.setCore c x).clusters = s.clusters := rfl
@[simp] theorem State.setCore_wb (s : State) (c : Nat) (x : Core) : (s.setCore c x).wb = s.wb := rfl
@[simp] theorem State.setCore_applied (s : State) (c : Nat) (x : Core) : (s.setCore c x).applied = s.applied := rfl
@[simp] theorem State.setCore_issued (s : State) (c : Nat) (x : Core) : (s.setCore c x).issued = s.issued := rfl
@[simp] theorem State.setCore_order (s : State) (c : Nat) (x : Core) : (s.setCore c x).order = s.order := rfl
@[simp] theorem State.setCore_old (s : State) (c : Nat) (x : Core) : (s.setCore c x).old = s.old := rfl
@[simp] theorem State.setCore_lost (s : State) (c : Nat) (x : Core) : (s.setCore c x).lost = s.lost := rfl
@[simp] theorem State.setCore_mismatch (s : State) (c : Nat) (x : Core) : (s.setCore c x).mismatch = s.mismatch := rfl
@[simp] theorem State.setCore_corrected (s : State) (c : Nat) (x : Core) : (s.setCore c x).corrected = s.corrected := rfl
@[simp] theorem State.setCore_dirty (s : State) (c : Nat) (x : Core) : (s.setCore c x).dirty = s.dirty := rfl
@[simp] theorem State.setCore_grants (s : State) (c : Nat) (x : Core) : (s.setCore c x).grants = s.grants := rfl
@[simp] theorem State.setCore_tlb (s : State) (c : Nat) (x : Core) : (s.setCore c x).tlb = s.tlb := rfl
@[simp] theorem State.setCore_code (s : State) (c : Nat) (x : Core) : (s.setCore c x).code = s.code := rfl
@[simp] theorem State.setCore_ctxtab (s : State) (c : Nat) (x : Core) : (s.setCore c x).ctxtab = s.ctxtab := rfl
@[simp] theorem State.setCore_parts (s : State) (c : Nat) (x : Core) : (s.setCore c x).parts = s.parts := rfl
@[simp] theorem State.setCore_queues (s : State) (c : Nat) (x : Core) : (s.setCore c x).queues = s.queues := rfl
@[simp] theorem State.setCore_lastFetch (s : State) (c : Nat) (x : Core) : (s.setCore c x).lastFetch = s.lastFetch := rfl
@[simp] theorem State.setCore_nodes (s : State) (c : Nat) (x : Core) : (s.setCore c x).nodes = s.nodes := rfl
@[simp] theorem State.setCore_nextNode (s : State) (c : Nat) (x : Core) : (s.setCore c x).nextNode = s.nextNode := rfl
@[simp] theorem State.setCore_teams (s : State) (c : Nat) (x : Core) : (s.setCore c x).teams = s.teams := rfl
@[simp] theorem State.setCore_images (s : State) (c : Nat) (x : Core) : (s.setCore c x).images = s.images := rfl
@[simp] theorem State.setCore_reservedImages (s : State) (c : Nat) (x : Core) : (s.setCore c x).reservedImages = s.reservedImages := rfl
@[simp] theorem State.setCore_uids (s : State) (c : Nat) (x : Core) : (s.setCore c x).uids = s.uids := rfl
@[simp] theorem State.setCore_jobs (s : State) (c : Nat) (x : Core) : (s.setCore c x).jobs = s.jobs := rfl
@[simp] theorem State.setCore_jobSeq (s : State) (c : Nat) (x : Core) : (s.setCore c x).jobSeq = s.jobSeq := rfl
@[simp] theorem State.setCore_jobHandle (s : State) (c : Nat) (x : Core) : (s.setCore c x).jobHandle = s.jobHandle := rfl
@[simp] theorem State.setCore_launches (s : State) (c : Nat) (x : Core) : (s.setCore c x).launches = s.launches := rfl
@[simp] theorem State.setCore_launchLog (s : State) (c : Nat) (x : Core) : (s.setCore c x).launchLog = s.launchLog := rfl
@[simp] theorem State.setCore_launchHandle (s : State) (c : Nat) (x : Core) : (s.setCore c x).launchHandle = s.launchHandle := rfl
@[simp] theorem State.setCore_pendFrames (s : State) (c : Nat) (x : Core) : (s.setCore c x).pendFrames = s.pendFrames := rfl
@[simp] theorem State.setCore_records (s : State) (c : Nat) (x : Core) : (s.setCore c x).records = s.records := rfl
@[simp] theorem State.setCore_barriers (s : State) (c : Nat) (x : Core) : (s.setCore c x).barriers = s.barriers := rfl
@[simp] theorem State.setCore_episodes (s : State) (c : Nat) (x : Core) : (s.setCore c x).episodes = s.episodes := rfl
@[simp] theorem State.setCore_reqs (s : State) (c : Nat) (x : Core) : (s.setCore c x).reqs = s.reqs := rfl
@[simp] theorem State.setCore_nextReq (s : State) (c : Nat) (x : Core) : (s.setCore c x).nextReq = s.nextReq := rfl
@[simp] theorem State.setCore_contribs (s : State) (c : Nat) (x : Core) : (s.setCore c x).contribs = s.contribs := rfl
@[simp] theorem State.setCore_routers (s : State) (c : Nat) (x : Core) : (s.setCore c x).routers = s.routers := rfl
@[simp] theorem State.setCore_boot (s : State) (c : Nat) (x : Core) : (s.setCore c x).boot = s.boot := rfl
@[simp] theorem State.setCore_firmware (s : State) (c : Nat) (x : Core) : (s.setCore c x).firmware = s.firmware := rfl
@[simp] theorem State.setCore_digest (s : State) (c : Nat) (x : Core) : (s.setCore c x).digest = s.digest := rfl
@[simp] theorem State.setCore_kernels (s : State) (c : Nat) (x : Core) : (s.setCore c x).kernels = s.kernels := rfl
@[simp] theorem State.setCore_sensors (s : State) (c : Nat) (x : Core) : (s.setCore c x).sensors = s.sensors := rfl
@[simp] theorem State.setCore_rails (s : State) (c : Nat) (x : Core) : (s.setCore c x).rails = s.rails := rfl
@[simp] theorem State.setCore_refLost (s : State) (c : Nat) (x : Core) : (s.setCore c x).refLost = s.refLost := rfl
@[simp] theorem State.setCore_lastRef (s : State) (c : Nat) (x : Core) : (s.setCore c x).lastRef = s.lastRef := rfl
@[simp] theorem State.setCore_chrono (s : State) (c : Nat) (x : Core) : (s.setCore c x).chrono = s.chrono := rfl
@[simp] theorem State.setCore_skew (s : State) (c : Nat) (x : Core) : (s.setCore c x).skew = s.skew := rfl
@[simp] theorem State.setCore_slew (s : State) (c : Nat) (x : Core) : (s.setCore c x).slew = s.slew := rfl
@[simp] theorem State.setCore_slewAt (s : State) (c : Nat) (x : Core) : (s.setCore c x).slewAt = s.slewAt := rfl
@[simp] theorem State.setCore_outbox (s : State) (c : Nat) (x : Core) : (s.setCore c x).outbox = s.outbox := rfl
@[simp] theorem State.setCore_turns (s : State) (c : Nat) (x : Core) : (s.setCore c x).turns = s.turns := rfl
@[simp] theorem State.setCore_ctr (s : State) (c : Nat) (x : Core) : (s.setCore c x).ctr = s.ctr := rfl
@[simp] theorem State.setCore_cur (s : State) (c : Nat) (x : Core) : (s.setCore c x).cur = s.cur := rfl
@[simp] theorem State.setCore_input (s : State) (c : Nat) (x : Core) : (s.setCore c x).input = s.input := rfl

@[simp] theorem State.setTask_mem (s : State) (c : Nat) (t : Task) : (s.setTask c t).mem = s.mem := rfl
@[simp] theorem State.setTask_clusters (s : State) (c : Nat) (t : Task) : (s.setTask c t).clusters = s.clusters := rfl
@[simp] theorem State.setTask_wb (s : State) (c : Nat) (t : Task) : (s.setTask c t).wb = s.wb := rfl
@[simp] theorem State.setTask_applied (s : State) (c : Nat) (t : Task) : (s.setTask c t).applied = s.applied := rfl
@[simp] theorem State.setTask_issued (s : State) (c : Nat) (t : Task) : (s.setTask c t).issued = s.issued := rfl
@[simp] theorem State.setTask_order (s : State) (c : Nat) (t : Task) : (s.setTask c t).order = s.order := rfl
@[simp] theorem State.setTask_old (s : State) (c : Nat) (t : Task) : (s.setTask c t).old = s.old := rfl
@[simp] theorem State.setTask_lost (s : State) (c : Nat) (t : Task) : (s.setTask c t).lost = s.lost := rfl
@[simp] theorem State.setTask_mismatch (s : State) (c : Nat) (t : Task) : (s.setTask c t).mismatch = s.mismatch := rfl
@[simp] theorem State.setTask_corrected (s : State) (c : Nat) (t : Task) : (s.setTask c t).corrected = s.corrected := rfl
@[simp] theorem State.setTask_dirty (s : State) (c : Nat) (t : Task) : (s.setTask c t).dirty = s.dirty := rfl
@[simp] theorem State.setTask_grants (s : State) (c : Nat) (t : Task) : (s.setTask c t).grants = s.grants := rfl
@[simp] theorem State.setTask_tlb (s : State) (c : Nat) (t : Task) : (s.setTask c t).tlb = s.tlb := rfl
@[simp] theorem State.setTask_code (s : State) (c : Nat) (t : Task) : (s.setTask c t).code = s.code := rfl
@[simp] theorem State.setTask_ctxtab (s : State) (c : Nat) (t : Task) : (s.setTask c t).ctxtab = s.ctxtab := rfl
@[simp] theorem State.setTask_parts (s : State) (c : Nat) (t : Task) : (s.setTask c t).parts = s.parts := rfl
@[simp] theorem State.setTask_queues (s : State) (c : Nat) (t : Task) : (s.setTask c t).queues = s.queues := rfl
@[simp] theorem State.setTask_lastFetch (s : State) (c : Nat) (t : Task) : (s.setTask c t).lastFetch = s.lastFetch := rfl
@[simp] theorem State.setTask_nodes (s : State) (c : Nat) (t : Task) : (s.setTask c t).nodes = s.nodes := rfl
@[simp] theorem State.setTask_nextNode (s : State) (c : Nat) (t : Task) : (s.setTask c t).nextNode = s.nextNode := rfl
@[simp] theorem State.setTask_teams (s : State) (c : Nat) (t : Task) : (s.setTask c t).teams = s.teams := rfl
@[simp] theorem State.setTask_images (s : State) (c : Nat) (t : Task) : (s.setTask c t).images = s.images := rfl
@[simp] theorem State.setTask_reservedImages (s : State) (c : Nat) (t : Task) : (s.setTask c t).reservedImages = s.reservedImages := rfl
@[simp] theorem State.setTask_uids (s : State) (c : Nat) (t : Task) : (s.setTask c t).uids = s.uids := rfl
@[simp] theorem State.setTask_jobs (s : State) (c : Nat) (t : Task) : (s.setTask c t).jobs = s.jobs := rfl
@[simp] theorem State.setTask_jobSeq (s : State) (c : Nat) (t : Task) : (s.setTask c t).jobSeq = s.jobSeq := rfl
@[simp] theorem State.setTask_jobHandle (s : State) (c : Nat) (t : Task) : (s.setTask c t).jobHandle = s.jobHandle := rfl
@[simp] theorem State.setTask_launches (s : State) (c : Nat) (t : Task) : (s.setTask c t).launches = s.launches := rfl
@[simp] theorem State.setTask_launchLog (s : State) (c : Nat) (t : Task) : (s.setTask c t).launchLog = s.launchLog := rfl
@[simp] theorem State.setTask_launchHandle (s : State) (c : Nat) (t : Task) : (s.setTask c t).launchHandle = s.launchHandle := rfl
@[simp] theorem State.setTask_pendFrames (s : State) (c : Nat) (t : Task) : (s.setTask c t).pendFrames = s.pendFrames := rfl
@[simp] theorem State.setTask_records (s : State) (c : Nat) (t : Task) : (s.setTask c t).records = s.records := rfl
@[simp] theorem State.setTask_barriers (s : State) (c : Nat) (t : Task) : (s.setTask c t).barriers = s.barriers := rfl
@[simp] theorem State.setTask_episodes (s : State) (c : Nat) (t : Task) : (s.setTask c t).episodes = s.episodes := rfl
@[simp] theorem State.setTask_reqs (s : State) (c : Nat) (t : Task) : (s.setTask c t).reqs = s.reqs := rfl
@[simp] theorem State.setTask_nextReq (s : State) (c : Nat) (t : Task) : (s.setTask c t).nextReq = s.nextReq := rfl
@[simp] theorem State.setTask_contribs (s : State) (c : Nat) (t : Task) : (s.setTask c t).contribs = s.contribs := rfl
@[simp] theorem State.setTask_routers (s : State) (c : Nat) (t : Task) : (s.setTask c t).routers = s.routers := rfl
@[simp] theorem State.setTask_boot (s : State) (c : Nat) (t : Task) : (s.setTask c t).boot = s.boot := rfl
@[simp] theorem State.setTask_firmware (s : State) (c : Nat) (t : Task) : (s.setTask c t).firmware = s.firmware := rfl
@[simp] theorem State.setTask_digest (s : State) (c : Nat) (t : Task) : (s.setTask c t).digest = s.digest := rfl
@[simp] theorem State.setTask_kernels (s : State) (c : Nat) (t : Task) : (s.setTask c t).kernels = s.kernels := rfl
@[simp] theorem State.setTask_sensors (s : State) (c : Nat) (t : Task) : (s.setTask c t).sensors = s.sensors := rfl
@[simp] theorem State.setTask_rails (s : State) (c : Nat) (t : Task) : (s.setTask c t).rails = s.rails := rfl
@[simp] theorem State.setTask_refLost (s : State) (c : Nat) (t : Task) : (s.setTask c t).refLost = s.refLost := rfl
@[simp] theorem State.setTask_lastRef (s : State) (c : Nat) (t : Task) : (s.setTask c t).lastRef = s.lastRef := rfl
@[simp] theorem State.setTask_chrono (s : State) (c : Nat) (t : Task) : (s.setTask c t).chrono = s.chrono := rfl
@[simp] theorem State.setTask_skew (s : State) (c : Nat) (t : Task) : (s.setTask c t).skew = s.skew := rfl
@[simp] theorem State.setTask_slew (s : State) (c : Nat) (t : Task) : (s.setTask c t).slew = s.slew := rfl
@[simp] theorem State.setTask_slewAt (s : State) (c : Nat) (t : Task) : (s.setTask c t).slewAt = s.slewAt := rfl
@[simp] theorem State.setTask_outbox (s : State) (c : Nat) (t : Task) : (s.setTask c t).outbox = s.outbox := rfl
@[simp] theorem State.setTask_turns (s : State) (c : Nat) (t : Task) : (s.setTask c t).turns = s.turns := rfl
@[simp] theorem State.setTask_ctr (s : State) (c : Nat) (t : Task) : (s.setTask c t).ctr = s.ctr := rfl
@[simp] theorem State.setTask_cur (s : State) (c : Nat) (t : Task) : (s.setTask c t).cur = s.cur := rfl
@[simp] theorem State.setTask_input (s : State) (c : Nat) (t : Task) : (s.setTask c t).input = s.input := rfl

@[simp] theorem State.modTask_mem (s : State) (c : Nat) (f : Task → Task) : (s.modTask c f).mem = s.mem := by
  unfold State.modTask; split <;> rfl
@[simp] theorem State.modTask_clusters (s : State) (c : Nat) (f : Task → Task) : (s.modTask c f).clusters = s.clusters := by
  unfold State.modTask; split <;> rfl
@[simp] theorem State.modTask_wb (s : State) (c : Nat) (f : Task → Task) : (s.modTask c f).wb = s.wb := by
  unfold State.modTask; split <;> rfl
@[simp] theorem State.modTask_applied (s : State) (c : Nat) (f : Task → Task) : (s.modTask c f).applied = s.applied := by
  unfold State.modTask; split <;> rfl
@[simp] theorem State.modTask_issued (s : State) (c : Nat) (f : Task → Task) : (s.modTask c f).issued = s.issued := by
  unfold State.modTask; split <;> rfl
@[simp] theorem State.modTask_order (s : State) (c : Nat) (f : Task → Task) : (s.modTask c f).order = s.order := by
  unfold State.modTask; split <;> rfl
@[simp] theorem State.modTask_old (s : State) (c : Nat) (f : Task → Task) : (s.modTask c f).old = s.old := by
  unfold State.modTask; split <;> rfl
@[simp] theorem State.modTask_lost (s : State) (c : Nat) (f : Task → Task) : (s.modTask c f).lost = s.lost := by
  unfold State.modTask; split <;> rfl
@[simp] theorem State.modTask_mismatch (s : State) (c : Nat) (f : Task → Task) : (s.modTask c f).mismatch = s.mismatch := by
  unfold State.modTask; split <;> rfl
@[simp] theorem State.modTask_corrected (s : State) (c : Nat) (f : Task → Task) : (s.modTask c f).corrected = s.corrected := by
  unfold State.modTask; split <;> rfl
@[simp] theorem State.modTask_dirty (s : State) (c : Nat) (f : Task → Task) : (s.modTask c f).dirty = s.dirty := by
  unfold State.modTask; split <;> rfl
@[simp] theorem State.modTask_grants (s : State) (c : Nat) (f : Task → Task) : (s.modTask c f).grants = s.grants := by
  unfold State.modTask; split <;> rfl
@[simp] theorem State.modTask_tlb (s : State) (c : Nat) (f : Task → Task) : (s.modTask c f).tlb = s.tlb := by
  unfold State.modTask; split <;> rfl
@[simp] theorem State.modTask_code (s : State) (c : Nat) (f : Task → Task) : (s.modTask c f).code = s.code := by
  unfold State.modTask; split <;> rfl
@[simp] theorem State.modTask_ctxtab (s : State) (c : Nat) (f : Task → Task) : (s.modTask c f).ctxtab = s.ctxtab := by
  unfold State.modTask; split <;> rfl
@[simp] theorem State.modTask_parts (s : State) (c : Nat) (f : Task → Task) : (s.modTask c f).parts = s.parts := by
  unfold State.modTask; split <;> rfl
@[simp] theorem State.modTask_queues (s : State) (c : Nat) (f : Task → Task) : (s.modTask c f).queues = s.queues := by
  unfold State.modTask; split <;> rfl
@[simp] theorem State.modTask_lastFetch (s : State) (c : Nat) (f : Task → Task) : (s.modTask c f).lastFetch = s.lastFetch := by
  unfold State.modTask; split <;> rfl
@[simp] theorem State.modTask_nodes (s : State) (c : Nat) (f : Task → Task) : (s.modTask c f).nodes = s.nodes := by
  unfold State.modTask; split <;> rfl
@[simp] theorem State.modTask_nextNode (s : State) (c : Nat) (f : Task → Task) : (s.modTask c f).nextNode = s.nextNode := by
  unfold State.modTask; split <;> rfl
@[simp] theorem State.modTask_teams (s : State) (c : Nat) (f : Task → Task) : (s.modTask c f).teams = s.teams := by
  unfold State.modTask; split <;> rfl
@[simp] theorem State.modTask_images (s : State) (c : Nat) (f : Task → Task) : (s.modTask c f).images = s.images := by
  unfold State.modTask; split <;> rfl
@[simp] theorem State.modTask_reservedImages (s : State) (c : Nat) (f : Task → Task) : (s.modTask c f).reservedImages = s.reservedImages := by
  unfold State.modTask; split <;> rfl
@[simp] theorem State.modTask_uids (s : State) (c : Nat) (f : Task → Task) : (s.modTask c f).uids = s.uids := by
  unfold State.modTask; split <;> rfl
@[simp] theorem State.modTask_jobs (s : State) (c : Nat) (f : Task → Task) : (s.modTask c f).jobs = s.jobs := by
  unfold State.modTask; split <;> rfl
@[simp] theorem State.modTask_jobSeq (s : State) (c : Nat) (f : Task → Task) : (s.modTask c f).jobSeq = s.jobSeq := by
  unfold State.modTask; split <;> rfl
@[simp] theorem State.modTask_jobHandle (s : State) (c : Nat) (f : Task → Task) : (s.modTask c f).jobHandle = s.jobHandle := by
  unfold State.modTask; split <;> rfl
@[simp] theorem State.modTask_launches (s : State) (c : Nat) (f : Task → Task) : (s.modTask c f).launches = s.launches := by
  unfold State.modTask; split <;> rfl
@[simp] theorem State.modTask_launchLog (s : State) (c : Nat) (f : Task → Task) : (s.modTask c f).launchLog = s.launchLog := by
  unfold State.modTask; split <;> rfl
@[simp] theorem State.modTask_launchHandle (s : State) (c : Nat) (f : Task → Task) : (s.modTask c f).launchHandle = s.launchHandle := by
  unfold State.modTask; split <;> rfl
@[simp] theorem State.modTask_pendFrames (s : State) (c : Nat) (f : Task → Task) : (s.modTask c f).pendFrames = s.pendFrames := by
  unfold State.modTask; split <;> rfl
@[simp] theorem State.modTask_records (s : State) (c : Nat) (f : Task → Task) : (s.modTask c f).records = s.records := by
  unfold State.modTask; split <;> rfl
@[simp] theorem State.modTask_barriers (s : State) (c : Nat) (f : Task → Task) : (s.modTask c f).barriers = s.barriers := by
  unfold State.modTask; split <;> rfl
@[simp] theorem State.modTask_episodes (s : State) (c : Nat) (f : Task → Task) : (s.modTask c f).episodes = s.episodes := by
  unfold State.modTask; split <;> rfl
@[simp] theorem State.modTask_reqs (s : State) (c : Nat) (f : Task → Task) : (s.modTask c f).reqs = s.reqs := by
  unfold State.modTask; split <;> rfl
@[simp] theorem State.modTask_nextReq (s : State) (c : Nat) (f : Task → Task) : (s.modTask c f).nextReq = s.nextReq := by
  unfold State.modTask; split <;> rfl
@[simp] theorem State.modTask_contribs (s : State) (c : Nat) (f : Task → Task) : (s.modTask c f).contribs = s.contribs := by
  unfold State.modTask; split <;> rfl
@[simp] theorem State.modTask_routers (s : State) (c : Nat) (f : Task → Task) : (s.modTask c f).routers = s.routers := by
  unfold State.modTask; split <;> rfl
@[simp] theorem State.modTask_boot (s : State) (c : Nat) (f : Task → Task) : (s.modTask c f).boot = s.boot := by
  unfold State.modTask; split <;> rfl
@[simp] theorem State.modTask_firmware (s : State) (c : Nat) (f : Task → Task) : (s.modTask c f).firmware = s.firmware := by
  unfold State.modTask; split <;> rfl
@[simp] theorem State.modTask_digest (s : State) (c : Nat) (f : Task → Task) : (s.modTask c f).digest = s.digest := by
  unfold State.modTask; split <;> rfl
@[simp] theorem State.modTask_kernels (s : State) (c : Nat) (f : Task → Task) : (s.modTask c f).kernels = s.kernels := by
  unfold State.modTask; split <;> rfl
@[simp] theorem State.modTask_sensors (s : State) (c : Nat) (f : Task → Task) : (s.modTask c f).sensors = s.sensors := by
  unfold State.modTask; split <;> rfl
@[simp] theorem State.modTask_rails (s : State) (c : Nat) (f : Task → Task) : (s.modTask c f).rails = s.rails := by
  unfold State.modTask; split <;> rfl
@[simp] theorem State.modTask_refLost (s : State) (c : Nat) (f : Task → Task) : (s.modTask c f).refLost = s.refLost := by
  unfold State.modTask; split <;> rfl
@[simp] theorem State.modTask_lastRef (s : State) (c : Nat) (f : Task → Task) : (s.modTask c f).lastRef = s.lastRef := by
  unfold State.modTask; split <;> rfl
@[simp] theorem State.modTask_chrono (s : State) (c : Nat) (f : Task → Task) : (s.modTask c f).chrono = s.chrono := by
  unfold State.modTask; split <;> rfl
@[simp] theorem State.modTask_skew (s : State) (c : Nat) (f : Task → Task) : (s.modTask c f).skew = s.skew := by
  unfold State.modTask; split <;> rfl
@[simp] theorem State.modTask_slew (s : State) (c : Nat) (f : Task → Task) : (s.modTask c f).slew = s.slew := by
  unfold State.modTask; split <;> rfl
@[simp] theorem State.modTask_slewAt (s : State) (c : Nat) (f : Task → Task) : (s.modTask c f).slewAt = s.slewAt := by
  unfold State.modTask; split <;> rfl
@[simp] theorem State.modTask_outbox (s : State) (c : Nat) (f : Task → Task) : (s.modTask c f).outbox = s.outbox := by
  unfold State.modTask; split <;> rfl
@[simp] theorem State.modTask_turns (s : State) (c : Nat) (f : Task → Task) : (s.modTask c f).turns = s.turns := by
  unfold State.modTask; split <;> rfl
@[simp] theorem State.modTask_ctr (s : State) (c : Nat) (f : Task → Task) : (s.modTask c f).ctr = s.ctr := by
  unfold State.modTask; split <;> rfl
@[simp] theorem State.modTask_cur (s : State) (c : Nat) (f : Task → Task) : (s.modTask c f).cur = s.cur := by
  unfold State.modTask; split <;> rfl
@[simp] theorem State.modTask_input (s : State) (c : Nat) (f : Task → Task) : (s.modTask c f).input = s.input := by
  unfold State.modTask; split <;> rfl

@[simp] theorem State.setQueue_mem (s : State) (q : Nat) (x : Queue) : (s.setQueue q x).mem = s.mem := rfl
@[simp] theorem State.setQueue_cores (s : State) (q : Nat) (x : Queue) : (s.setQueue q x).cores = s.cores := rfl
@[simp] theorem State.setQueue_clusters (s : State) (q : Nat) (x : Queue) : (s.setQueue q x).clusters = s.clusters := rfl
@[simp] theorem State.setQueue_wb (s : State) (q : Nat) (x : Queue) : (s.setQueue q x).wb = s.wb := rfl
@[simp] theorem State.setQueue_applied (s : State) (q : Nat) (x : Queue) : (s.setQueue q x).applied = s.applied := rfl
@[simp] theorem State.setQueue_issued (s : State) (q : Nat) (x : Queue) : (s.setQueue q x).issued = s.issued := rfl
@[simp] theorem State.setQueue_order (s : State) (q : Nat) (x : Queue) : (s.setQueue q x).order = s.order := rfl
@[simp] theorem State.setQueue_old (s : State) (q : Nat) (x : Queue) : (s.setQueue q x).old = s.old := rfl
@[simp] theorem State.setQueue_lost (s : State) (q : Nat) (x : Queue) : (s.setQueue q x).lost = s.lost := rfl
@[simp] theorem State.setQueue_mismatch (s : State) (q : Nat) (x : Queue) : (s.setQueue q x).mismatch = s.mismatch := rfl
@[simp] theorem State.setQueue_corrected (s : State) (q : Nat) (x : Queue) : (s.setQueue q x).corrected = s.corrected := rfl
@[simp] theorem State.setQueue_dirty (s : State) (q : Nat) (x : Queue) : (s.setQueue q x).dirty = s.dirty := rfl
@[simp] theorem State.setQueue_grants (s : State) (q : Nat) (x : Queue) : (s.setQueue q x).grants = s.grants := rfl
@[simp] theorem State.setQueue_tlb (s : State) (q : Nat) (x : Queue) : (s.setQueue q x).tlb = s.tlb := rfl
@[simp] theorem State.setQueue_code (s : State) (q : Nat) (x : Queue) : (s.setQueue q x).code = s.code := rfl
@[simp] theorem State.setQueue_ctxtab (s : State) (q : Nat) (x : Queue) : (s.setQueue q x).ctxtab = s.ctxtab := rfl
@[simp] theorem State.setQueue_parts (s : State) (q : Nat) (x : Queue) : (s.setQueue q x).parts = s.parts := rfl
@[simp] theorem State.setQueue_lastFetch (s : State) (q : Nat) (x : Queue) : (s.setQueue q x).lastFetch = s.lastFetch := rfl
@[simp] theorem State.setQueue_nodes (s : State) (q : Nat) (x : Queue) : (s.setQueue q x).nodes = s.nodes := rfl
@[simp] theorem State.setQueue_nextNode (s : State) (q : Nat) (x : Queue) : (s.setQueue q x).nextNode = s.nextNode := rfl
@[simp] theorem State.setQueue_teams (s : State) (q : Nat) (x : Queue) : (s.setQueue q x).teams = s.teams := rfl
@[simp] theorem State.setQueue_images (s : State) (q : Nat) (x : Queue) : (s.setQueue q x).images = s.images := rfl
@[simp] theorem State.setQueue_reservedImages (s : State) (q : Nat) (x : Queue) : (s.setQueue q x).reservedImages = s.reservedImages := rfl
@[simp] theorem State.setQueue_uids (s : State) (q : Nat) (x : Queue) : (s.setQueue q x).uids = s.uids := rfl
@[simp] theorem State.setQueue_jobs (s : State) (q : Nat) (x : Queue) : (s.setQueue q x).jobs = s.jobs := rfl
@[simp] theorem State.setQueue_jobSeq (s : State) (q : Nat) (x : Queue) : (s.setQueue q x).jobSeq = s.jobSeq := rfl
@[simp] theorem State.setQueue_jobHandle (s : State) (q : Nat) (x : Queue) : (s.setQueue q x).jobHandle = s.jobHandle := rfl
@[simp] theorem State.setQueue_launches (s : State) (q : Nat) (x : Queue) : (s.setQueue q x).launches = s.launches := rfl
@[simp] theorem State.setQueue_launchLog (s : State) (q : Nat) (x : Queue) : (s.setQueue q x).launchLog = s.launchLog := rfl
@[simp] theorem State.setQueue_launchHandle (s : State) (q : Nat) (x : Queue) : (s.setQueue q x).launchHandle = s.launchHandle := rfl
@[simp] theorem State.setQueue_pendFrames (s : State) (q : Nat) (x : Queue) : (s.setQueue q x).pendFrames = s.pendFrames := rfl
@[simp] theorem State.setQueue_records (s : State) (q : Nat) (x : Queue) : (s.setQueue q x).records = s.records := rfl
@[simp] theorem State.setQueue_barriers (s : State) (q : Nat) (x : Queue) : (s.setQueue q x).barriers = s.barriers := rfl
@[simp] theorem State.setQueue_episodes (s : State) (q : Nat) (x : Queue) : (s.setQueue q x).episodes = s.episodes := rfl
@[simp] theorem State.setQueue_reqs (s : State) (q : Nat) (x : Queue) : (s.setQueue q x).reqs = s.reqs := rfl
@[simp] theorem State.setQueue_nextReq (s : State) (q : Nat) (x : Queue) : (s.setQueue q x).nextReq = s.nextReq := rfl
@[simp] theorem State.setQueue_contribs (s : State) (q : Nat) (x : Queue) : (s.setQueue q x).contribs = s.contribs := rfl
@[simp] theorem State.setQueue_routers (s : State) (q : Nat) (x : Queue) : (s.setQueue q x).routers = s.routers := rfl
@[simp] theorem State.setQueue_boot (s : State) (q : Nat) (x : Queue) : (s.setQueue q x).boot = s.boot := rfl
@[simp] theorem State.setQueue_firmware (s : State) (q : Nat) (x : Queue) : (s.setQueue q x).firmware = s.firmware := rfl
@[simp] theorem State.setQueue_digest (s : State) (q : Nat) (x : Queue) : (s.setQueue q x).digest = s.digest := rfl
@[simp] theorem State.setQueue_kernels (s : State) (q : Nat) (x : Queue) : (s.setQueue q x).kernels = s.kernels := rfl
@[simp] theorem State.setQueue_sensors (s : State) (q : Nat) (x : Queue) : (s.setQueue q x).sensors = s.sensors := rfl
@[simp] theorem State.setQueue_rails (s : State) (q : Nat) (x : Queue) : (s.setQueue q x).rails = s.rails := rfl
@[simp] theorem State.setQueue_refLost (s : State) (q : Nat) (x : Queue) : (s.setQueue q x).refLost = s.refLost := rfl
@[simp] theorem State.setQueue_lastRef (s : State) (q : Nat) (x : Queue) : (s.setQueue q x).lastRef = s.lastRef := rfl
@[simp] theorem State.setQueue_chrono (s : State) (q : Nat) (x : Queue) : (s.setQueue q x).chrono = s.chrono := rfl
@[simp] theorem State.setQueue_skew (s : State) (q : Nat) (x : Queue) : (s.setQueue q x).skew = s.skew := rfl
@[simp] theorem State.setQueue_slew (s : State) (q : Nat) (x : Queue) : (s.setQueue q x).slew = s.slew := rfl
@[simp] theorem State.setQueue_slewAt (s : State) (q : Nat) (x : Queue) : (s.setQueue q x).slewAt = s.slewAt := rfl
@[simp] theorem State.setQueue_outbox (s : State) (q : Nat) (x : Queue) : (s.setQueue q x).outbox = s.outbox := rfl
@[simp] theorem State.setQueue_turns (s : State) (q : Nat) (x : Queue) : (s.setQueue q x).turns = s.turns := rfl
@[simp] theorem State.setQueue_ctr (s : State) (q : Nat) (x : Queue) : (s.setQueue q x).ctr = s.ctr := rfl
@[simp] theorem State.setQueue_cur (s : State) (q : Nat) (x : Queue) : (s.setQueue q x).cur = s.cur := rfl
@[simp] theorem State.setQueue_input (s : State) (q : Nat) (x : Queue) : (s.setQueue q x).input = s.input := rfl

@[simp] theorem State.setRouter_mem (s : State) (d : Nat) (x : Router) : (s.setRouter d x).mem = s.mem := rfl
@[simp] theorem State.setRouter_cores (s : State) (d : Nat) (x : Router) : (s.setRouter d x).cores = s.cores := rfl
@[simp] theorem State.setRouter_clusters (s : State) (d : Nat) (x : Router) : (s.setRouter d x).clusters = s.clusters := rfl
@[simp] theorem State.setRouter_wb (s : State) (d : Nat) (x : Router) : (s.setRouter d x).wb = s.wb := rfl
@[simp] theorem State.setRouter_applied (s : State) (d : Nat) (x : Router) : (s.setRouter d x).applied = s.applied := rfl
@[simp] theorem State.setRouter_issued (s : State) (d : Nat) (x : Router) : (s.setRouter d x).issued = s.issued := rfl
@[simp] theorem State.setRouter_order (s : State) (d : Nat) (x : Router) : (s.setRouter d x).order = s.order := rfl
@[simp] theorem State.setRouter_old (s : State) (d : Nat) (x : Router) : (s.setRouter d x).old = s.old := rfl
@[simp] theorem State.setRouter_lost (s : State) (d : Nat) (x : Router) : (s.setRouter d x).lost = s.lost := rfl
@[simp] theorem State.setRouter_mismatch (s : State) (d : Nat) (x : Router) : (s.setRouter d x).mismatch = s.mismatch := rfl
@[simp] theorem State.setRouter_corrected (s : State) (d : Nat) (x : Router) : (s.setRouter d x).corrected = s.corrected := rfl
@[simp] theorem State.setRouter_dirty (s : State) (d : Nat) (x : Router) : (s.setRouter d x).dirty = s.dirty := rfl
@[simp] theorem State.setRouter_grants (s : State) (d : Nat) (x : Router) : (s.setRouter d x).grants = s.grants := rfl
@[simp] theorem State.setRouter_tlb (s : State) (d : Nat) (x : Router) : (s.setRouter d x).tlb = s.tlb := rfl
@[simp] theorem State.setRouter_code (s : State) (d : Nat) (x : Router) : (s.setRouter d x).code = s.code := rfl
@[simp] theorem State.setRouter_ctxtab (s : State) (d : Nat) (x : Router) : (s.setRouter d x).ctxtab = s.ctxtab := rfl
@[simp] theorem State.setRouter_parts (s : State) (d : Nat) (x : Router) : (s.setRouter d x).parts = s.parts := rfl
@[simp] theorem State.setRouter_queues (s : State) (d : Nat) (x : Router) : (s.setRouter d x).queues = s.queues := rfl
@[simp] theorem State.setRouter_lastFetch (s : State) (d : Nat) (x : Router) : (s.setRouter d x).lastFetch = s.lastFetch := rfl
@[simp] theorem State.setRouter_nodes (s : State) (d : Nat) (x : Router) : (s.setRouter d x).nodes = s.nodes := rfl
@[simp] theorem State.setRouter_nextNode (s : State) (d : Nat) (x : Router) : (s.setRouter d x).nextNode = s.nextNode := rfl
@[simp] theorem State.setRouter_teams (s : State) (d : Nat) (x : Router) : (s.setRouter d x).teams = s.teams := rfl
@[simp] theorem State.setRouter_images (s : State) (d : Nat) (x : Router) : (s.setRouter d x).images = s.images := rfl
@[simp] theorem State.setRouter_reservedImages (s : State) (d : Nat) (x : Router) : (s.setRouter d x).reservedImages = s.reservedImages := rfl
@[simp] theorem State.setRouter_uids (s : State) (d : Nat) (x : Router) : (s.setRouter d x).uids = s.uids := rfl
@[simp] theorem State.setRouter_jobs (s : State) (d : Nat) (x : Router) : (s.setRouter d x).jobs = s.jobs := rfl
@[simp] theorem State.setRouter_jobSeq (s : State) (d : Nat) (x : Router) : (s.setRouter d x).jobSeq = s.jobSeq := rfl
@[simp] theorem State.setRouter_jobHandle (s : State) (d : Nat) (x : Router) : (s.setRouter d x).jobHandle = s.jobHandle := rfl
@[simp] theorem State.setRouter_launches (s : State) (d : Nat) (x : Router) : (s.setRouter d x).launches = s.launches := rfl
@[simp] theorem State.setRouter_launchLog (s : State) (d : Nat) (x : Router) : (s.setRouter d x).launchLog = s.launchLog := rfl
@[simp] theorem State.setRouter_launchHandle (s : State) (d : Nat) (x : Router) : (s.setRouter d x).launchHandle = s.launchHandle := rfl
@[simp] theorem State.setRouter_pendFrames (s : State) (d : Nat) (x : Router) : (s.setRouter d x).pendFrames = s.pendFrames := rfl
@[simp] theorem State.setRouter_records (s : State) (d : Nat) (x : Router) : (s.setRouter d x).records = s.records := rfl
@[simp] theorem State.setRouter_barriers (s : State) (d : Nat) (x : Router) : (s.setRouter d x).barriers = s.barriers := rfl
@[simp] theorem State.setRouter_episodes (s : State) (d : Nat) (x : Router) : (s.setRouter d x).episodes = s.episodes := rfl
@[simp] theorem State.setRouter_reqs (s : State) (d : Nat) (x : Router) : (s.setRouter d x).reqs = s.reqs := rfl
@[simp] theorem State.setRouter_nextReq (s : State) (d : Nat) (x : Router) : (s.setRouter d x).nextReq = s.nextReq := rfl
@[simp] theorem State.setRouter_contribs (s : State) (d : Nat) (x : Router) : (s.setRouter d x).contribs = s.contribs := rfl
@[simp] theorem State.setRouter_boot (s : State) (d : Nat) (x : Router) : (s.setRouter d x).boot = s.boot := rfl
@[simp] theorem State.setRouter_firmware (s : State) (d : Nat) (x : Router) : (s.setRouter d x).firmware = s.firmware := rfl
@[simp] theorem State.setRouter_digest (s : State) (d : Nat) (x : Router) : (s.setRouter d x).digest = s.digest := rfl
@[simp] theorem State.setRouter_kernels (s : State) (d : Nat) (x : Router) : (s.setRouter d x).kernels = s.kernels := rfl
@[simp] theorem State.setRouter_sensors (s : State) (d : Nat) (x : Router) : (s.setRouter d x).sensors = s.sensors := rfl
@[simp] theorem State.setRouter_rails (s : State) (d : Nat) (x : Router) : (s.setRouter d x).rails = s.rails := rfl
@[simp] theorem State.setRouter_refLost (s : State) (d : Nat) (x : Router) : (s.setRouter d x).refLost = s.refLost := rfl
@[simp] theorem State.setRouter_lastRef (s : State) (d : Nat) (x : Router) : (s.setRouter d x).lastRef = s.lastRef := rfl
@[simp] theorem State.setRouter_chrono (s : State) (d : Nat) (x : Router) : (s.setRouter d x).chrono = s.chrono := rfl
@[simp] theorem State.setRouter_skew (s : State) (d : Nat) (x : Router) : (s.setRouter d x).skew = s.skew := rfl
@[simp] theorem State.setRouter_slew (s : State) (d : Nat) (x : Router) : (s.setRouter d x).slew = s.slew := rfl
@[simp] theorem State.setRouter_slewAt (s : State) (d : Nat) (x : Router) : (s.setRouter d x).slewAt = s.slewAt := rfl
@[simp] theorem State.setRouter_outbox (s : State) (d : Nat) (x : Router) : (s.setRouter d x).outbox = s.outbox := rfl
@[simp] theorem State.setRouter_turns (s : State) (d : Nat) (x : Router) : (s.setRouter d x).turns = s.turns := rfl
@[simp] theorem State.setRouter_ctr (s : State) (d : Nat) (x : Router) : (s.setRouter d x).ctr = s.ctr := rfl
@[simp] theorem State.setRouter_cur (s : State) (d : Nat) (x : Router) : (s.setRouter d x).cur = s.cur := rfl
@[simp] theorem State.setRouter_input (s : State) (d : Nat) (x : Router) : (s.setRouter d x).input = s.input := rfl

@[simp] theorem State.setCluster_mem (s : State) (c : Nat) (x : Cluster) : (s.setCluster c x).mem = s.mem := rfl
@[simp] theorem State.setCluster_cores (s : State) (c : Nat) (x : Cluster) : (s.setCluster c x).cores = s.cores := rfl
@[simp] theorem State.setCluster_wb (s : State) (c : Nat) (x : Cluster) : (s.setCluster c x).wb = s.wb := rfl
@[simp] theorem State.setCluster_applied (s : State) (c : Nat) (x : Cluster) : (s.setCluster c x).applied = s.applied := rfl
@[simp] theorem State.setCluster_issued (s : State) (c : Nat) (x : Cluster) : (s.setCluster c x).issued = s.issued := rfl
@[simp] theorem State.setCluster_order (s : State) (c : Nat) (x : Cluster) : (s.setCluster c x).order = s.order := rfl
@[simp] theorem State.setCluster_old (s : State) (c : Nat) (x : Cluster) : (s.setCluster c x).old = s.old := rfl
@[simp] theorem State.setCluster_lost (s : State) (c : Nat) (x : Cluster) : (s.setCluster c x).lost = s.lost := rfl
@[simp] theorem State.setCluster_mismatch (s : State) (c : Nat) (x : Cluster) : (s.setCluster c x).mismatch = s.mismatch := rfl
@[simp] theorem State.setCluster_corrected (s : State) (c : Nat) (x : Cluster) : (s.setCluster c x).corrected = s.corrected := rfl
@[simp] theorem State.setCluster_dirty (s : State) (c : Nat) (x : Cluster) : (s.setCluster c x).dirty = s.dirty := rfl
@[simp] theorem State.setCluster_grants (s : State) (c : Nat) (x : Cluster) : (s.setCluster c x).grants = s.grants := rfl
@[simp] theorem State.setCluster_tlb (s : State) (c : Nat) (x : Cluster) : (s.setCluster c x).tlb = s.tlb := rfl
@[simp] theorem State.setCluster_code (s : State) (c : Nat) (x : Cluster) : (s.setCluster c x).code = s.code := rfl
@[simp] theorem State.setCluster_ctxtab (s : State) (c : Nat) (x : Cluster) : (s.setCluster c x).ctxtab = s.ctxtab := rfl
@[simp] theorem State.setCluster_parts (s : State) (c : Nat) (x : Cluster) : (s.setCluster c x).parts = s.parts := rfl
@[simp] theorem State.setCluster_queues (s : State) (c : Nat) (x : Cluster) : (s.setCluster c x).queues = s.queues := rfl
@[simp] theorem State.setCluster_lastFetch (s : State) (c : Nat) (x : Cluster) : (s.setCluster c x).lastFetch = s.lastFetch := rfl
@[simp] theorem State.setCluster_nodes (s : State) (c : Nat) (x : Cluster) : (s.setCluster c x).nodes = s.nodes := rfl
@[simp] theorem State.setCluster_nextNode (s : State) (c : Nat) (x : Cluster) : (s.setCluster c x).nextNode = s.nextNode := rfl
@[simp] theorem State.setCluster_teams (s : State) (c : Nat) (x : Cluster) : (s.setCluster c x).teams = s.teams := rfl
@[simp] theorem State.setCluster_images (s : State) (c : Nat) (x : Cluster) : (s.setCluster c x).images = s.images := rfl
@[simp] theorem State.setCluster_reservedImages (s : State) (c : Nat) (x : Cluster) : (s.setCluster c x).reservedImages = s.reservedImages := rfl
@[simp] theorem State.setCluster_uids (s : State) (c : Nat) (x : Cluster) : (s.setCluster c x).uids = s.uids := rfl
@[simp] theorem State.setCluster_jobs (s : State) (c : Nat) (x : Cluster) : (s.setCluster c x).jobs = s.jobs := rfl
@[simp] theorem State.setCluster_jobSeq (s : State) (c : Nat) (x : Cluster) : (s.setCluster c x).jobSeq = s.jobSeq := rfl
@[simp] theorem State.setCluster_jobHandle (s : State) (c : Nat) (x : Cluster) : (s.setCluster c x).jobHandle = s.jobHandle := rfl
@[simp] theorem State.setCluster_launches (s : State) (c : Nat) (x : Cluster) : (s.setCluster c x).launches = s.launches := rfl
@[simp] theorem State.setCluster_launchLog (s : State) (c : Nat) (x : Cluster) : (s.setCluster c x).launchLog = s.launchLog := rfl
@[simp] theorem State.setCluster_launchHandle (s : State) (c : Nat) (x : Cluster) : (s.setCluster c x).launchHandle = s.launchHandle := rfl
@[simp] theorem State.setCluster_pendFrames (s : State) (c : Nat) (x : Cluster) : (s.setCluster c x).pendFrames = s.pendFrames := rfl
@[simp] theorem State.setCluster_records (s : State) (c : Nat) (x : Cluster) : (s.setCluster c x).records = s.records := rfl
@[simp] theorem State.setCluster_barriers (s : State) (c : Nat) (x : Cluster) : (s.setCluster c x).barriers = s.barriers := rfl
@[simp] theorem State.setCluster_episodes (s : State) (c : Nat) (x : Cluster) : (s.setCluster c x).episodes = s.episodes := rfl
@[simp] theorem State.setCluster_reqs (s : State) (c : Nat) (x : Cluster) : (s.setCluster c x).reqs = s.reqs := rfl
@[simp] theorem State.setCluster_nextReq (s : State) (c : Nat) (x : Cluster) : (s.setCluster c x).nextReq = s.nextReq := rfl
@[simp] theorem State.setCluster_contribs (s : State) (c : Nat) (x : Cluster) : (s.setCluster c x).contribs = s.contribs := rfl
@[simp] theorem State.setCluster_routers (s : State) (c : Nat) (x : Cluster) : (s.setCluster c x).routers = s.routers := rfl
@[simp] theorem State.setCluster_boot (s : State) (c : Nat) (x : Cluster) : (s.setCluster c x).boot = s.boot := rfl
@[simp] theorem State.setCluster_firmware (s : State) (c : Nat) (x : Cluster) : (s.setCluster c x).firmware = s.firmware := rfl
@[simp] theorem State.setCluster_digest (s : State) (c : Nat) (x : Cluster) : (s.setCluster c x).digest = s.digest := rfl
@[simp] theorem State.setCluster_kernels (s : State) (c : Nat) (x : Cluster) : (s.setCluster c x).kernels = s.kernels := rfl
@[simp] theorem State.setCluster_sensors (s : State) (c : Nat) (x : Cluster) : (s.setCluster c x).sensors = s.sensors := rfl
@[simp] theorem State.setCluster_rails (s : State) (c : Nat) (x : Cluster) : (s.setCluster c x).rails = s.rails := rfl
@[simp] theorem State.setCluster_refLost (s : State) (c : Nat) (x : Cluster) : (s.setCluster c x).refLost = s.refLost := rfl
@[simp] theorem State.setCluster_lastRef (s : State) (c : Nat) (x : Cluster) : (s.setCluster c x).lastRef = s.lastRef := rfl
@[simp] theorem State.setCluster_chrono (s : State) (c : Nat) (x : Cluster) : (s.setCluster c x).chrono = s.chrono := rfl
@[simp] theorem State.setCluster_skew (s : State) (c : Nat) (x : Cluster) : (s.setCluster c x).skew = s.skew := rfl
@[simp] theorem State.setCluster_slew (s : State) (c : Nat) (x : Cluster) : (s.setCluster c x).slew = s.slew := rfl
@[simp] theorem State.setCluster_slewAt (s : State) (c : Nat) (x : Cluster) : (s.setCluster c x).slewAt = s.slewAt := rfl
@[simp] theorem State.setCluster_outbox (s : State) (c : Nat) (x : Cluster) : (s.setCluster c x).outbox = s.outbox := rfl
@[simp] theorem State.setCluster_turns (s : State) (c : Nat) (x : Cluster) : (s.setCluster c x).turns = s.turns := rfl
@[simp] theorem State.setCluster_ctr (s : State) (c : Nat) (x : Cluster) : (s.setCluster c x).ctr = s.ctr := rfl
@[simp] theorem State.setCluster_cur (s : State) (c : Nat) (x : Cluster) : (s.setCluster c x).cur = s.cur := rfl
@[simp] theorem State.setCluster_input (s : State) (c : Nat) (x : Cluster) : (s.setCluster c x).input = s.input := rfl

/-! ## Reads after writes -/

theorem State.task_setTask (s : State) (c : Nat) (t : Task) : (s.setTask c t).task c = some t := by
  unfold State.task State.core State.setTask State.setCore
  rw [SMap.look_put, if_pos rfl]

theorem State.core_setTask_ne (s : State) (c d : Nat) (t : Task) (h : d ≠ c) : (s.setTask c t).core d = s.core d := by
  unfold State.core State.setTask State.setCore
  rw [SMap.look_put, if_neg h]

theorem State.task_setTask_ne (s : State) (c d : Nat) (t : Task) (h : d ≠ c) : (s.setTask c t).task d = s.task d := by
  unfold State.task
  rw [State.core_setTask_ne s c d t h]

theorem State.tiles_setTask (s : State) (c d : Nat) (t : Task) : ((s.setTask c t).core d).tiles = (s.core d).tiles := by
  by_cases h : d = c
  · subst h
    unfold State.core State.setTask State.setCore
    rw [SMap.look_put, if_pos rfl]
    rfl
  · rw [State.core_setTask_ne s c d t h]

theorem State.task_modTask (s : State) (c : Nat) (f : Task → Task) : (s.modTask c f).task c = (s.task c).map f := by
  unfold State.modTask
  split
  · rename_i t h
    rw [State.task_setTask, h]
    rfl
  · rename_i h
    rw [h]
    rfl

theorem State.task_modTask_ne (s : State) (c d : Nat) (f : Task → Task) (h : d ≠ c) :
    (s.modTask c f).task d = s.task d := by
  unfold State.modTask
  split
  · exact State.task_setTask_ne s c d _ h
  · rfl

/-- Changing a task that is there. -/
theorem State.modTask_eq (s : State) (c : Nat) (f : Task → Task) (t : Task) (h : s.task c = some t) :
    s.modTask c f = s.setTask c (f t) := by
  unfold State.modTask
  rw [h]

theorem SMap.ins_ins {α : Type} (m : SMap α) (k : Nat) (v w : α) : SMap.ins (SMap.ins m k v) k w = SMap.ins m k w := by
  induction m with
  | nil => simp [SMap.ins]
  | cons x t ih =>
    obtain ⟨a, b⟩ := x
    simp only [SMap.ins]
    split_ifs with h1 h2 <;> simp_all [SMap.ins]

/-- The later of two writes of a task stands. -/
theorem State.setTask_setTask (s : State) (c : Nat) (t u : Task) : (s.setTask c t).setTask c u = s.setTask c u := by
  have h : (s.setTask c t).core c = { s.core c with task := some t } := by
    unfold State.core State.setTask State.setCore
    rw [SMap.look_put, if_pos rfl]
    rfl
  unfold State.setTask at h ⊢
  rw [h]
  unfold State.setCore
  congr 1
  unfold SMap.put
  rw [if_neg (by intro h; injection h with h1; cases h1), if_neg (by intro h; injection h with h1; cases h1)]
  exact SMap.ins_ins _ _ _ _

/-! ## Updates of a task -/

@[simp] theorem Task.setStrand_ctx (t : Task) (e : Eng) (x : Strand) : (t.setStrand e x).ctx = t.ctx := rfl
@[simp] theorem Task.setStrand_asid (t : Task) (e : Eng) (x : Strand) : (t.setStrand e x).asid = t.asid := rfl
@[simp] theorem Task.setStrand_node (t : Task) (e : Eng) (x : Strand) : (t.setStrand e x).node = t.node := rfl
@[simp] theorem Task.setStrand_team (t : Task) (e : Eng) (x : Strand) : (t.setStrand e x).team = t.team := rfl
@[simp] theorem Task.setStrand_image (t : Task) (e : Eng) (x : Strand) : (t.setStrand e x).image = t.image := rfl
@[simp] theorem Task.setStrand_uid (t : Task) (e : Eng) (x : Strand) : (t.setStrand e x).uid = t.uid := rfl
@[simp] theorem Task.setStrand_rank (t : Task) (e : Eng) (x : Strand) : (t.setStrand e x).rank = t.rank := rfl
@[simp] theorem Task.setStrand_kernel (t : Task) (e : Eng) (x : Strand) : (t.setStrand e x).kernel = t.kernel := rfl
@[simp] theorem Task.setStrand_window (t : Task) (e : Eng) (x : Strand) : (t.setStrand e x).window = t.window := rfl
@[simp] theorem Task.setStrand_s (t : Task) (e : Eng) (x : Strand) : (t.setStrand e x).s = t.s := rfl
@[simp] theorem Task.setStrand_dep (t : Task) (e : Eng) (x : Strand) : (t.setStrand e x).dep = t.dep := rfl
@[simp] theorem Task.setStrand_k (t : Task) (e : Eng) (x : Strand) : (t.setStrand e x).k = t.k := rfl
@[simp] theorem Task.setStrand_v (t : Task) (e : Eng) (x : Strand) : (t.setStrand e x).v = t.v := rfl
@[simp] theorem Task.setStrand_p (t : Task) (e : Eng) (x : Strand) : (t.setStrand e x).p = t.p := rfl
@[simp] theorem Task.setStrand_g (t : Task) (e : Eng) (x : Strand) : (t.setStrand e x).g = t.g := rfl
@[simp] theorem Task.setStrand_i (t : Task) (e : Eng) (x : Strand) : (t.setStrand e x).i = t.i := rfl
@[simp] theorem Task.setStrand_q (t : Task) (e : Eng) (x : Strand) : (t.setStrand e x).q = t.q := rfl
@[simp] theorem Task.setStrand_sem (t : Task) (e : Eng) (x : Strand) : (t.setStrand e x).sem = t.sem := rfl
@[simp] theorem Task.setStrand_fpctl (t : Task) (e : Eng) (x : Strand) : (t.setStrand e x).fpctl = t.fpctl := rfl
@[simp] theorem Task.setStrand_fpstat (t : Task) (e : Eng) (x : Strand) : (t.setStrand e x).fpstat = t.fpstat := rfl
@[simp] theorem Task.setStrand_lseed (t : Task) (e : Eng) (x : Strand) : (t.setStrand e x).lseed = t.lseed := rfl
@[simp] theorem Task.setStrand_rrb (t : Task) (e : Eng) (x : Strand) : (t.setStrand e x).rrb = t.rrb := rfl
@[simp] theorem Task.setStrand_prb (t : Task) (e : Eng) (x : Strand) : (t.setStrand e x).prb = t.prb := rfl
@[simp] theorem Task.setStrand_win (t : Task) (e : Eng) (x : Strand) : (t.setStrand e x).win = t.win := rfl
@[simp] theorem Task.setStrand_taskid (t : Task) (e : Eng) (x : Strand) : (t.setStrand e x).taskid = t.taskid := rfl
@[simp] theorem Task.setStrand_teaminfo (t : Task) (e : Eng) (x : Strand) : (t.setStrand e x).teaminfo = t.teaminfo := rfl
@[simp] theorem Task.setStrand_gridinfo (t : Task) (e : Eng) (x : Strand) : (t.setStrand e x).gridinfo = t.gridinfo := rfl
@[simp] theorem Task.setStrand_domain (t : Task) (e : Eng) (x : Strand) : (t.setStrand e x).domain = t.domain := rfl
@[simp] theorem Task.setStrand_sticky (t : Task) (e : Eng) (x : Strand) : (t.setStrand e x).sticky = t.sticky := rfl
@[simp] theorem Task.setStrand_spills (t : Task) (e : Eng) (x : Strand) : (t.setStrand e x).spills = t.spills := rfl
@[simp] theorem Task.setStrand_ufentry (t : Task) (e : Eng) (x : Strand) : (t.setStrand e x).ufentry = t.ufentry := rfl
@[simp] theorem Task.setStrand_slots (t : Task) (e : Eng) (x : Strand) : (t.setStrand e x).slots = t.slots := rfl
@[simp] theorem Task.setStrand_replay (t : Task) (e : Eng) (x : Strand) : (t.setStrand e x).replay = t.replay := rfl
@[simp] theorem Task.setStrand_fills (t : Task) (e : Eng) (x : Strand) : (t.setStrand e x).fills = t.fills := rfl
@[simp] theorem Task.setStrand_itins (t : Task) (e : Eng) (x : Strand) : (t.setStrand e x).itins = t.itins := rfl
@[simp] theorem Task.setStrand_gens (t : Task) (e : Eng) (x : Strand) : (t.setStrand e x).gens = t.gens := rfl
@[simp] theorem Task.setStrand_accs (t : Task) (e : Eng) (x : Strand) : (t.setStrand e x).accs = t.accs := rfl
@[simp] theorem Task.setStrand_groups (t : Task) (e : Eng) (x : Strand) : (t.setStrand e x).groups = t.groups := rfl
@[simp] theorem Task.setStrand_defer (t : Task) (e : Eng) (x : Strand) : (t.setStrand e x).defer = t.defer := rfl
@[simp] theorem Task.setStrand_sigs (t : Task) (e : Eng) (x : Strand) : (t.setStrand e x).sigs = t.sigs := rfl
@[simp] theorem Task.setStrand_jobs (t : Task) (e : Eng) (x : Strand) : (t.setStrand e x).jobs = t.jobs := rfl
@[simp] theorem Task.setStrand_fseq (t : Task) (e : Eng) (x : Strand) : (t.setStrand e x).fseq = t.fseq := rfl
@[simp] theorem Task.setStrand_runs (t : Task) (e : Eng) (x : Strand) : (t.setStrand e x).runs = t.runs := rfl
@[simp] theorem Task.setStrand_recalls (t : Task) (e : Eng) (x : Strand) : (t.setStrand e x).recalls = t.recalls := rfl
@[simp] theorem Task.setStrand_faults (t : Task) (e : Eng) (x : Strand) : (t.setStrand e x).faults = t.faults := rfl
@[simp] theorem Task.setStrand_saved (t : Task) (e : Eng) (x : Strand) : (t.setStrand e x).saved = t.saved := rfl
@[simp] theorem Task.setStrand_leaseReq (t : Task) (e : Eng) (x : Strand) : (t.setStrand e x).leaseReq = t.leaseReq := rfl
@[simp] theorem Task.setStrand_leaseHeld (t : Task) (e : Eng) (x : Strand) : (t.setStrand e x).leaseHeld = t.leaseHeld := rfl
@[simp] theorem Task.setStrand_stop (t : Task) (e : Eng) (x : Strand) : (t.setStrand e x).stop = t.stop := rfl
@[simp] theorem Task.setStrand_stopAt (t : Task) (e : Eng) (x : Strand) : (t.setStrand e x).stopAt = t.stopAt := rfl
@[simp] theorem Task.setStrand_stopLive (t : Task) (e : Eng) (x : Strand) : (t.setStrand e x).stopLive = t.stopLive := rfl

@[simp] theorem Task.kset_ctx (t : Task) (r : KReg) (v : BitVec 128) : (t.kset r v).ctx = t.ctx := rfl
@[simp] theorem Task.kset_asid (t : Task) (r : KReg) (v : BitVec 128) : (t.kset r v).asid = t.asid := rfl
@[simp] theorem Task.kset_node (t : Task) (r : KReg) (v : BitVec 128) : (t.kset r v).node = t.node := rfl
@[simp] theorem Task.kset_team (t : Task) (r : KReg) (v : BitVec 128) : (t.kset r v).team = t.team := rfl
@[simp] theorem Task.kset_image (t : Task) (r : KReg) (v : BitVec 128) : (t.kset r v).image = t.image := rfl
@[simp] theorem Task.kset_uid (t : Task) (r : KReg) (v : BitVec 128) : (t.kset r v).uid = t.uid := rfl
@[simp] theorem Task.kset_rank (t : Task) (r : KReg) (v : BitVec 128) : (t.kset r v).rank = t.rank := rfl
@[simp] theorem Task.kset_kernel (t : Task) (r : KReg) (v : BitVec 128) : (t.kset r v).kernel = t.kernel := rfl
@[simp] theorem Task.kset_strands (t : Task) (r : KReg) (v : BitVec 128) : (t.kset r v).strands = t.strands := rfl
@[simp] theorem Task.kset_window (t : Task) (r : KReg) (v : BitVec 128) : (t.kset r v).window = t.window := rfl
@[simp] theorem Task.kset_s (t : Task) (r : KReg) (v : BitVec 128) : (t.kset r v).s = t.s := rfl
@[simp] theorem Task.kset_dep (t : Task) (r : KReg) (v : BitVec 128) : (t.kset r v).dep = t.dep := rfl
@[simp] theorem Task.kset_v (t : Task) (r : KReg) (v : BitVec 128) : (t.kset r v).v = t.v := rfl
@[simp] theorem Task.kset_p (t : Task) (r : KReg) (v : BitVec 128) : (t.kset r v).p = t.p := rfl
@[simp] theorem Task.kset_g (t : Task) (r : KReg) (v : BitVec 128) : (t.kset r v).g = t.g := rfl
@[simp] theorem Task.kset_i (t : Task) (r : KReg) (v : BitVec 128) : (t.kset r v).i = t.i := rfl
@[simp] theorem Task.kset_q (t : Task) (r : KReg) (v : BitVec 128) : (t.kset r v).q = t.q := rfl
@[simp] theorem Task.kset_sem (t : Task) (r : KReg) (v : BitVec 128) : (t.kset r v).sem = t.sem := rfl
@[simp] theorem Task.kset_fpctl (t : Task) (r : KReg) (v : BitVec 128) : (t.kset r v).fpctl = t.fpctl := rfl
@[simp] theorem Task.kset_fpstat (t : Task) (r : KReg) (v : BitVec 128) : (t.kset r v).fpstat = t.fpstat := rfl
@[simp] theorem Task.kset_lseed (t : Task) (r : KReg) (v : BitVec 128) : (t.kset r v).lseed = t.lseed := rfl
@[simp] theorem Task.kset_rrb (t : Task) (r : KReg) (v : BitVec 128) : (t.kset r v).rrb = t.rrb := rfl
@[simp] theorem Task.kset_prb (t : Task) (r : KReg) (v : BitVec 128) : (t.kset r v).prb = t.prb := rfl
@[simp] theorem Task.kset_win (t : Task) (r : KReg) (v : BitVec 128) : (t.kset r v).win = t.win := rfl
@[simp] theorem Task.kset_taskid (t : Task) (r : KReg) (v : BitVec 128) : (t.kset r v).taskid = t.taskid := rfl
@[simp] theorem Task.kset_teaminfo (t : Task) (r : KReg) (v : BitVec 128) : (t.kset r v).teaminfo = t.teaminfo := rfl
@[simp] theorem Task.kset_gridinfo (t : Task) (r : KReg) (v : BitVec 128) : (t.kset r v).gridinfo = t.gridinfo := rfl
@[simp] theorem Task.kset_domain (t : Task) (r : KReg) (v : BitVec 128) : (t.kset r v).domain = t.domain := rfl
@[simp] theorem Task.kset_sticky (t : Task) (r : KReg) (v : BitVec 128) : (t.kset r v).sticky = t.sticky := rfl
@[simp] theorem Task.kset_spills (t : Task) (r : KReg) (v : BitVec 128) : (t.kset r v).spills = t.spills := rfl
@[simp] theorem Task.kset_ufentry (t : Task) (r : KReg) (v : BitVec 128) : (t.kset r v).ufentry = t.ufentry := rfl
@[simp] theorem Task.kset_slots (t : Task) (r : KReg) (v : BitVec 128) : (t.kset r v).slots = t.slots := rfl
@[simp] theorem Task.kset_replay (t : Task) (r : KReg) (v : BitVec 128) : (t.kset r v).replay = t.replay := rfl
@[simp] theorem Task.kset_fills (t : Task) (r : KReg) (v : BitVec 128) : (t.kset r v).fills = t.fills := rfl
@[simp] theorem Task.kset_itins (t : Task) (r : KReg) (v : BitVec 128) : (t.kset r v).itins = t.itins := rfl
@[simp] theorem Task.kset_gens (t : Task) (r : KReg) (v : BitVec 128) : (t.kset r v).gens = t.gens := rfl
@[simp] theorem Task.kset_accs (t : Task) (r : KReg) (v : BitVec 128) : (t.kset r v).accs = t.accs := rfl
@[simp] theorem Task.kset_groups (t : Task) (r : KReg) (v : BitVec 128) : (t.kset r v).groups = t.groups := rfl
@[simp] theorem Task.kset_defer (t : Task) (r : KReg) (v : BitVec 128) : (t.kset r v).defer = t.defer := rfl
@[simp] theorem Task.kset_sigs (t : Task) (r : KReg) (v : BitVec 128) : (t.kset r v).sigs = t.sigs := rfl
@[simp] theorem Task.kset_jobs (t : Task) (r : KReg) (v : BitVec 128) : (t.kset r v).jobs = t.jobs := rfl
@[simp] theorem Task.kset_fseq (t : Task) (r : KReg) (v : BitVec 128) : (t.kset r v).fseq = t.fseq := rfl
@[simp] theorem Task.kset_runs (t : Task) (r : KReg) (v : BitVec 128) : (t.kset r v).runs = t.runs := rfl
@[simp] theorem Task.kset_recalls (t : Task) (r : KReg) (v : BitVec 128) : (t.kset r v).recalls = t.recalls := rfl
@[simp] theorem Task.kset_faults (t : Task) (r : KReg) (v : BitVec 128) : (t.kset r v).faults = t.faults := rfl
@[simp] theorem Task.kset_saved (t : Task) (r : KReg) (v : BitVec 128) : (t.kset r v).saved = t.saved := rfl
@[simp] theorem Task.kset_leaseReq (t : Task) (r : KReg) (v : BitVec 128) : (t.kset r v).leaseReq = t.leaseReq := rfl
@[simp] theorem Task.kset_leaseHeld (t : Task) (r : KReg) (v : BitVec 128) : (t.kset r v).leaseHeld = t.leaseHeld := rfl
@[simp] theorem Task.kset_stop (t : Task) (r : KReg) (v : BitVec 128) : (t.kset r v).stop = t.stop := rfl
@[simp] theorem Task.kset_stopAt (t : Task) (r : KReg) (v : BitVec 128) : (t.kset r v).stopAt = t.stopAt := rfl
@[simp] theorem Task.kset_stopLive (t : Task) (r : KReg) (v : BitVec 128) : (t.kset r v).stopLive = t.stopLive := rfl

@[simp] theorem Task.setSem_ctx (t : Task) (n : BitVec 8) (x : Sem) : (t.setSem n x).ctx = t.ctx := rfl
@[simp] theorem Task.setSem_asid (t : Task) (n : BitVec 8) (x : Sem) : (t.setSem n x).asid = t.asid := rfl
@[simp] theorem Task.setSem_node (t : Task) (n : BitVec 8) (x : Sem) : (t.setSem n x).node = t.node := rfl
@[simp] theorem Task.setSem_team (t : Task) (n : BitVec 8) (x : Sem) : (t.setSem n x).team = t.team := rfl
@[simp] theorem Task.setSem_image (t : Task) (n : BitVec 8) (x : Sem) : (t.setSem n x).image = t.image := rfl
@[simp] theorem Task.setSem_uid (t : Task) (n : BitVec 8) (x : Sem) : (t.setSem n x).uid = t.uid := rfl
@[simp] theorem Task.setSem_rank (t : Task) (n : BitVec 8) (x : Sem) : (t.setSem n x).rank = t.rank := rfl
@[simp] theorem Task.setSem_kernel (t : Task) (n : BitVec 8) (x : Sem) : (t.setSem n x).kernel = t.kernel := rfl
@[simp] theorem Task.setSem_strands (t : Task) (n : BitVec 8) (x : Sem) : (t.setSem n x).strands = t.strands := rfl
@[simp] theorem Task.setSem_window (t : Task) (n : BitVec 8) (x : Sem) : (t.setSem n x).window = t.window := rfl
@[simp] theorem Task.setSem_s (t : Task) (n : BitVec 8) (x : Sem) : (t.setSem n x).s = t.s := rfl
@[simp] theorem Task.setSem_dep (t : Task) (n : BitVec 8) (x : Sem) : (t.setSem n x).dep = t.dep := rfl
@[simp] theorem Task.setSem_k (t : Task) (n : BitVec 8) (x : Sem) : (t.setSem n x).k = t.k := rfl
@[simp] theorem Task.setSem_v (t : Task) (n : BitVec 8) (x : Sem) : (t.setSem n x).v = t.v := rfl
@[simp] theorem Task.setSem_p (t : Task) (n : BitVec 8) (x : Sem) : (t.setSem n x).p = t.p := rfl
@[simp] theorem Task.setSem_g (t : Task) (n : BitVec 8) (x : Sem) : (t.setSem n x).g = t.g := rfl
@[simp] theorem Task.setSem_i (t : Task) (n : BitVec 8) (x : Sem) : (t.setSem n x).i = t.i := rfl
@[simp] theorem Task.setSem_q (t : Task) (n : BitVec 8) (x : Sem) : (t.setSem n x).q = t.q := rfl
@[simp] theorem Task.setSem_fpctl (t : Task) (n : BitVec 8) (x : Sem) : (t.setSem n x).fpctl = t.fpctl := rfl
@[simp] theorem Task.setSem_fpstat (t : Task) (n : BitVec 8) (x : Sem) : (t.setSem n x).fpstat = t.fpstat := rfl
@[simp] theorem Task.setSem_lseed (t : Task) (n : BitVec 8) (x : Sem) : (t.setSem n x).lseed = t.lseed := rfl
@[simp] theorem Task.setSem_rrb (t : Task) (n : BitVec 8) (x : Sem) : (t.setSem n x).rrb = t.rrb := rfl
@[simp] theorem Task.setSem_prb (t : Task) (n : BitVec 8) (x : Sem) : (t.setSem n x).prb = t.prb := rfl
@[simp] theorem Task.setSem_win (t : Task) (n : BitVec 8) (x : Sem) : (t.setSem n x).win = t.win := rfl
@[simp] theorem Task.setSem_taskid (t : Task) (n : BitVec 8) (x : Sem) : (t.setSem n x).taskid = t.taskid := rfl
@[simp] theorem Task.setSem_teaminfo (t : Task) (n : BitVec 8) (x : Sem) : (t.setSem n x).teaminfo = t.teaminfo := rfl
@[simp] theorem Task.setSem_gridinfo (t : Task) (n : BitVec 8) (x : Sem) : (t.setSem n x).gridinfo = t.gridinfo := rfl
@[simp] theorem Task.setSem_domain (t : Task) (n : BitVec 8) (x : Sem) : (t.setSem n x).domain = t.domain := rfl
@[simp] theorem Task.setSem_sticky (t : Task) (n : BitVec 8) (x : Sem) : (t.setSem n x).sticky = t.sticky := rfl
@[simp] theorem Task.setSem_spills (t : Task) (n : BitVec 8) (x : Sem) : (t.setSem n x).spills = t.spills := rfl
@[simp] theorem Task.setSem_ufentry (t : Task) (n : BitVec 8) (x : Sem) : (t.setSem n x).ufentry = t.ufentry := rfl
@[simp] theorem Task.setSem_slots (t : Task) (n : BitVec 8) (x : Sem) : (t.setSem n x).slots = t.slots := rfl
@[simp] theorem Task.setSem_replay (t : Task) (n : BitVec 8) (x : Sem) : (t.setSem n x).replay = t.replay := rfl
@[simp] theorem Task.setSem_fills (t : Task) (n : BitVec 8) (x : Sem) : (t.setSem n x).fills = t.fills := rfl
@[simp] theorem Task.setSem_itins (t : Task) (n : BitVec 8) (x : Sem) : (t.setSem n x).itins = t.itins := rfl
@[simp] theorem Task.setSem_gens (t : Task) (n : BitVec 8) (x : Sem) : (t.setSem n x).gens = t.gens := rfl
@[simp] theorem Task.setSem_accs (t : Task) (n : BitVec 8) (x : Sem) : (t.setSem n x).accs = t.accs := rfl
@[simp] theorem Task.setSem_groups (t : Task) (n : BitVec 8) (x : Sem) : (t.setSem n x).groups = t.groups := rfl
@[simp] theorem Task.setSem_defer (t : Task) (n : BitVec 8) (x : Sem) : (t.setSem n x).defer = t.defer := rfl
@[simp] theorem Task.setSem_sigs (t : Task) (n : BitVec 8) (x : Sem) : (t.setSem n x).sigs = t.sigs := rfl
@[simp] theorem Task.setSem_jobs (t : Task) (n : BitVec 8) (x : Sem) : (t.setSem n x).jobs = t.jobs := rfl
@[simp] theorem Task.setSem_fseq (t : Task) (n : BitVec 8) (x : Sem) : (t.setSem n x).fseq = t.fseq := rfl
@[simp] theorem Task.setSem_runs (t : Task) (n : BitVec 8) (x : Sem) : (t.setSem n x).runs = t.runs := rfl
@[simp] theorem Task.setSem_recalls (t : Task) (n : BitVec 8) (x : Sem) : (t.setSem n x).recalls = t.recalls := rfl
@[simp] theorem Task.setSem_faults (t : Task) (n : BitVec 8) (x : Sem) : (t.setSem n x).faults = t.faults := rfl
@[simp] theorem Task.setSem_saved (t : Task) (n : BitVec 8) (x : Sem) : (t.setSem n x).saved = t.saved := rfl
@[simp] theorem Task.setSem_leaseReq (t : Task) (n : BitVec 8) (x : Sem) : (t.setSem n x).leaseReq = t.leaseReq := rfl
@[simp] theorem Task.setSem_leaseHeld (t : Task) (n : BitVec 8) (x : Sem) : (t.setSem n x).leaseHeld = t.leaseHeld := rfl
@[simp] theorem Task.setSem_stop (t : Task) (n : BitVec 8) (x : Sem) : (t.setSem n x).stop = t.stop := rfl
@[simp] theorem Task.setSem_stopAt (t : Task) (n : BitVec 8) (x : Sem) : (t.setSem n x).stopAt = t.stopAt := rfl
@[simp] theorem Task.setSem_stopLive (t : Task) (n : BitVec 8) (x : Sem) : (t.setSem n x).stopLive = t.stopLive := rfl

@[simp] theorem Task.addDeposit_ctx (t : Task) (d : Deposit) : (t.addDeposit d).ctx = t.ctx := rfl
@[simp] theorem Task.addDeposit_asid (t : Task) (d : Deposit) : (t.addDeposit d).asid = t.asid := rfl
@[simp] theorem Task.addDeposit_node (t : Task) (d : Deposit) : (t.addDeposit d).node = t.node := rfl
@[simp] theorem Task.addDeposit_team (t : Task) (d : Deposit) : (t.addDeposit d).team = t.team := rfl
@[simp] theorem Task.addDeposit_image (t : Task) (d : Deposit) : (t.addDeposit d).image = t.image := rfl
@[simp] theorem Task.addDeposit_uid (t : Task) (d : Deposit) : (t.addDeposit d).uid = t.uid := rfl
@[simp] theorem Task.addDeposit_rank (t : Task) (d : Deposit) : (t.addDeposit d).rank = t.rank := rfl
@[simp] theorem Task.addDeposit_kernel (t : Task) (d : Deposit) : (t.addDeposit d).kernel = t.kernel := rfl
@[simp] theorem Task.addDeposit_strands (t : Task) (d : Deposit) : (t.addDeposit d).strands = t.strands := rfl
@[simp] theorem Task.addDeposit_s (t : Task) (d : Deposit) : (t.addDeposit d).s = t.s := rfl
@[simp] theorem Task.addDeposit_dep (t : Task) (d : Deposit) : (t.addDeposit d).dep = t.dep := rfl
@[simp] theorem Task.addDeposit_k (t : Task) (d : Deposit) : (t.addDeposit d).k = t.k := rfl
@[simp] theorem Task.addDeposit_v (t : Task) (d : Deposit) : (t.addDeposit d).v = t.v := rfl
@[simp] theorem Task.addDeposit_p (t : Task) (d : Deposit) : (t.addDeposit d).p = t.p := rfl
@[simp] theorem Task.addDeposit_g (t : Task) (d : Deposit) : (t.addDeposit d).g = t.g := rfl
@[simp] theorem Task.addDeposit_i (t : Task) (d : Deposit) : (t.addDeposit d).i = t.i := rfl
@[simp] theorem Task.addDeposit_q (t : Task) (d : Deposit) : (t.addDeposit d).q = t.q := rfl
@[simp] theorem Task.addDeposit_sem (t : Task) (d : Deposit) : (t.addDeposit d).sem = t.sem := rfl
@[simp] theorem Task.addDeposit_fpctl (t : Task) (d : Deposit) : (t.addDeposit d).fpctl = t.fpctl := rfl
@[simp] theorem Task.addDeposit_fpstat (t : Task) (d : Deposit) : (t.addDeposit d).fpstat = t.fpstat := rfl
@[simp] theorem Task.addDeposit_lseed (t : Task) (d : Deposit) : (t.addDeposit d).lseed = t.lseed := rfl
@[simp] theorem Task.addDeposit_rrb (t : Task) (d : Deposit) : (t.addDeposit d).rrb = t.rrb := rfl
@[simp] theorem Task.addDeposit_prb (t : Task) (d : Deposit) : (t.addDeposit d).prb = t.prb := rfl
@[simp] theorem Task.addDeposit_win (t : Task) (d : Deposit) : (t.addDeposit d).win = t.win := rfl
@[simp] theorem Task.addDeposit_taskid (t : Task) (d : Deposit) : (t.addDeposit d).taskid = t.taskid := rfl
@[simp] theorem Task.addDeposit_teaminfo (t : Task) (d : Deposit) : (t.addDeposit d).teaminfo = t.teaminfo := rfl
@[simp] theorem Task.addDeposit_gridinfo (t : Task) (d : Deposit) : (t.addDeposit d).gridinfo = t.gridinfo := rfl
@[simp] theorem Task.addDeposit_domain (t : Task) (d : Deposit) : (t.addDeposit d).domain = t.domain := rfl
@[simp] theorem Task.addDeposit_sticky (t : Task) (d : Deposit) : (t.addDeposit d).sticky = t.sticky := rfl
@[simp] theorem Task.addDeposit_spills (t : Task) (d : Deposit) : (t.addDeposit d).spills = t.spills := rfl
@[simp] theorem Task.addDeposit_ufentry (t : Task) (d : Deposit) : (t.addDeposit d).ufentry = t.ufentry := rfl
@[simp] theorem Task.addDeposit_slots (t : Task) (d : Deposit) : (t.addDeposit d).slots = t.slots := rfl
@[simp] theorem Task.addDeposit_replay (t : Task) (d : Deposit) : (t.addDeposit d).replay = t.replay := rfl
@[simp] theorem Task.addDeposit_fills (t : Task) (d : Deposit) : (t.addDeposit d).fills = t.fills := rfl
@[simp] theorem Task.addDeposit_itins (t : Task) (d : Deposit) : (t.addDeposit d).itins = t.itins := rfl
@[simp] theorem Task.addDeposit_gens (t : Task) (d : Deposit) : (t.addDeposit d).gens = t.gens := rfl
@[simp] theorem Task.addDeposit_accs (t : Task) (d : Deposit) : (t.addDeposit d).accs = t.accs := rfl
@[simp] theorem Task.addDeposit_groups (t : Task) (d : Deposit) : (t.addDeposit d).groups = t.groups := rfl
@[simp] theorem Task.addDeposit_defer (t : Task) (d : Deposit) : (t.addDeposit d).defer = t.defer := rfl
@[simp] theorem Task.addDeposit_sigs (t : Task) (d : Deposit) : (t.addDeposit d).sigs = t.sigs := rfl
@[simp] theorem Task.addDeposit_jobs (t : Task) (d : Deposit) : (t.addDeposit d).jobs = t.jobs := rfl
@[simp] theorem Task.addDeposit_fseq (t : Task) (d : Deposit) : (t.addDeposit d).fseq = t.fseq := rfl
@[simp] theorem Task.addDeposit_runs (t : Task) (d : Deposit) : (t.addDeposit d).runs = t.runs := rfl
@[simp] theorem Task.addDeposit_recalls (t : Task) (d : Deposit) : (t.addDeposit d).recalls = t.recalls := rfl
@[simp] theorem Task.addDeposit_faults (t : Task) (d : Deposit) : (t.addDeposit d).faults = t.faults := rfl
@[simp] theorem Task.addDeposit_saved (t : Task) (d : Deposit) : (t.addDeposit d).saved = t.saved := rfl
@[simp] theorem Task.addDeposit_leaseReq (t : Task) (d : Deposit) : (t.addDeposit d).leaseReq = t.leaseReq := rfl
@[simp] theorem Task.addDeposit_leaseHeld (t : Task) (d : Deposit) : (t.addDeposit d).leaseHeld = t.leaseHeld := rfl
@[simp] theorem Task.addDeposit_stop (t : Task) (d : Deposit) : (t.addDeposit d).stop = t.stop := rfl
@[simp] theorem Task.addDeposit_stopAt (t : Task) (d : Deposit) : (t.addDeposit d).stopAt = t.stopAt := rfl
@[simp] theorem Task.addDeposit_stopLive (t : Task) (d : Deposit) : (t.addDeposit d).stopLive = t.stopLive := rfl

@[simp] theorem Task.vwrite_ctx (t : Task) (rrb n : BitVec 10) (x : Vec) : (t.vwrite rrb n x).ctx = t.ctx := rfl
@[simp] theorem Task.vwrite_asid (t : Task) (rrb n : BitVec 10) (x : Vec) : (t.vwrite rrb n x).asid = t.asid := rfl
@[simp] theorem Task.vwrite_node (t : Task) (rrb n : BitVec 10) (x : Vec) : (t.vwrite rrb n x).node = t.node := rfl
@[simp] theorem Task.vwrite_team (t : Task) (rrb n : BitVec 10) (x : Vec) : (t.vwrite rrb n x).team = t.team := rfl
@[simp] theorem Task.vwrite_image (t : Task) (rrb n : BitVec 10) (x : Vec) : (t.vwrite rrb n x).image = t.image := rfl
@[simp] theorem Task.vwrite_uid (t : Task) (rrb n : BitVec 10) (x : Vec) : (t.vwrite rrb n x).uid = t.uid := rfl
@[simp] theorem Task.vwrite_rank (t : Task) (rrb n : BitVec 10) (x : Vec) : (t.vwrite rrb n x).rank = t.rank := rfl
@[simp] theorem Task.vwrite_kernel (t : Task) (rrb n : BitVec 10) (x : Vec) : (t.vwrite rrb n x).kernel = t.kernel := rfl
@[simp] theorem Task.vwrite_strands (t : Task) (rrb n : BitVec 10) (x : Vec) : (t.vwrite rrb n x).strands = t.strands := rfl
@[simp] theorem Task.vwrite_window (t : Task) (rrb n : BitVec 10) (x : Vec) : (t.vwrite rrb n x).window = t.window := rfl
@[simp] theorem Task.vwrite_s (t : Task) (rrb n : BitVec 10) (x : Vec) : (t.vwrite rrb n x).s = t.s := rfl
@[simp] theorem Task.vwrite_dep (t : Task) (rrb n : BitVec 10) (x : Vec) : (t.vwrite rrb n x).dep = t.dep := rfl
@[simp] theorem Task.vwrite_k (t : Task) (rrb n : BitVec 10) (x : Vec) : (t.vwrite rrb n x).k = t.k := rfl
@[simp] theorem Task.vwrite_p (t : Task) (rrb n : BitVec 10) (x : Vec) : (t.vwrite rrb n x).p = t.p := rfl
@[simp] theorem Task.vwrite_g (t : Task) (rrb n : BitVec 10) (x : Vec) : (t.vwrite rrb n x).g = t.g := rfl
@[simp] theorem Task.vwrite_i (t : Task) (rrb n : BitVec 10) (x : Vec) : (t.vwrite rrb n x).i = t.i := rfl
@[simp] theorem Task.vwrite_q (t : Task) (rrb n : BitVec 10) (x : Vec) : (t.vwrite rrb n x).q = t.q := rfl
@[simp] theorem Task.vwrite_sem (t : Task) (rrb n : BitVec 10) (x : Vec) : (t.vwrite rrb n x).sem = t.sem := rfl
@[simp] theorem Task.vwrite_fpctl (t : Task) (rrb n : BitVec 10) (x : Vec) : (t.vwrite rrb n x).fpctl = t.fpctl := rfl
@[simp] theorem Task.vwrite_fpstat (t : Task) (rrb n : BitVec 10) (x : Vec) : (t.vwrite rrb n x).fpstat = t.fpstat := rfl
@[simp] theorem Task.vwrite_lseed (t : Task) (rrb n : BitVec 10) (x : Vec) : (t.vwrite rrb n x).lseed = t.lseed := rfl
@[simp] theorem Task.vwrite_rrb (t : Task) (rrb n : BitVec 10) (x : Vec) : (t.vwrite rrb n x).rrb = t.rrb := rfl
@[simp] theorem Task.vwrite_prb (t : Task) (rrb n : BitVec 10) (x : Vec) : (t.vwrite rrb n x).prb = t.prb := rfl
@[simp] theorem Task.vwrite_win (t : Task) (rrb n : BitVec 10) (x : Vec) : (t.vwrite rrb n x).win = t.win := rfl
@[simp] theorem Task.vwrite_taskid (t : Task) (rrb n : BitVec 10) (x : Vec) : (t.vwrite rrb n x).taskid = t.taskid := rfl
@[simp] theorem Task.vwrite_teaminfo (t : Task) (rrb n : BitVec 10) (x : Vec) : (t.vwrite rrb n x).teaminfo = t.teaminfo := rfl
@[simp] theorem Task.vwrite_gridinfo (t : Task) (rrb n : BitVec 10) (x : Vec) : (t.vwrite rrb n x).gridinfo = t.gridinfo := rfl
@[simp] theorem Task.vwrite_domain (t : Task) (rrb n : BitVec 10) (x : Vec) : (t.vwrite rrb n x).domain = t.domain := rfl
@[simp] theorem Task.vwrite_sticky (t : Task) (rrb n : BitVec 10) (x : Vec) : (t.vwrite rrb n x).sticky = t.sticky := rfl
@[simp] theorem Task.vwrite_spills (t : Task) (rrb n : BitVec 10) (x : Vec) : (t.vwrite rrb n x).spills = t.spills := rfl
@[simp] theorem Task.vwrite_ufentry (t : Task) (rrb n : BitVec 10) (x : Vec) : (t.vwrite rrb n x).ufentry = t.ufentry := rfl
@[simp] theorem Task.vwrite_slots (t : Task) (rrb n : BitVec 10) (x : Vec) : (t.vwrite rrb n x).slots = t.slots := rfl
@[simp] theorem Task.vwrite_replay (t : Task) (rrb n : BitVec 10) (x : Vec) : (t.vwrite rrb n x).replay = t.replay := rfl
@[simp] theorem Task.vwrite_fills (t : Task) (rrb n : BitVec 10) (x : Vec) : (t.vwrite rrb n x).fills = t.fills := rfl
@[simp] theorem Task.vwrite_itins (t : Task) (rrb n : BitVec 10) (x : Vec) : (t.vwrite rrb n x).itins = t.itins := rfl
@[simp] theorem Task.vwrite_gens (t : Task) (rrb n : BitVec 10) (x : Vec) : (t.vwrite rrb n x).gens = t.gens := rfl
@[simp] theorem Task.vwrite_accs (t : Task) (rrb n : BitVec 10) (x : Vec) : (t.vwrite rrb n x).accs = t.accs := rfl
@[simp] theorem Task.vwrite_groups (t : Task) (rrb n : BitVec 10) (x : Vec) : (t.vwrite rrb n x).groups = t.groups := rfl
@[simp] theorem Task.vwrite_defer (t : Task) (rrb n : BitVec 10) (x : Vec) : (t.vwrite rrb n x).defer = t.defer := rfl
@[simp] theorem Task.vwrite_sigs (t : Task) (rrb n : BitVec 10) (x : Vec) : (t.vwrite rrb n x).sigs = t.sigs := rfl
@[simp] theorem Task.vwrite_jobs (t : Task) (rrb n : BitVec 10) (x : Vec) : (t.vwrite rrb n x).jobs = t.jobs := rfl
@[simp] theorem Task.vwrite_fseq (t : Task) (rrb n : BitVec 10) (x : Vec) : (t.vwrite rrb n x).fseq = t.fseq := rfl
@[simp] theorem Task.vwrite_runs (t : Task) (rrb n : BitVec 10) (x : Vec) : (t.vwrite rrb n x).runs = t.runs := rfl
@[simp] theorem Task.vwrite_recalls (t : Task) (rrb n : BitVec 10) (x : Vec) : (t.vwrite rrb n x).recalls = t.recalls := rfl
@[simp] theorem Task.vwrite_faults (t : Task) (rrb n : BitVec 10) (x : Vec) : (t.vwrite rrb n x).faults = t.faults := rfl
@[simp] theorem Task.vwrite_saved (t : Task) (rrb n : BitVec 10) (x : Vec) : (t.vwrite rrb n x).saved = t.saved := rfl
@[simp] theorem Task.vwrite_leaseReq (t : Task) (rrb n : BitVec 10) (x : Vec) : (t.vwrite rrb n x).leaseReq = t.leaseReq := rfl
@[simp] theorem Task.vwrite_leaseHeld (t : Task) (rrb n : BitVec 10) (x : Vec) : (t.vwrite rrb n x).leaseHeld = t.leaseHeld := rfl
@[simp] theorem Task.vwrite_stop (t : Task) (rrb n : BitVec 10) (x : Vec) : (t.vwrite rrb n x).stop = t.stop := rfl
@[simp] theorem Task.vwrite_stopAt (t : Task) (rrb n : BitVec 10) (x : Vec) : (t.vwrite rrb n x).stopAt = t.stopAt := rfl
@[simp] theorem Task.vwrite_stopLive (t : Task) (rrb n : BitVec 10) (x : Vec) : (t.vwrite rrb n x).stopLive = t.stopLive := rfl

@[simp] theorem Task.setQueueOf_ctx (t : Task) (q : Nat) (l : List Vec) : (t.setQueueOf q l).ctx = t.ctx := rfl
@[simp] theorem Task.setQueueOf_asid (t : Task) (q : Nat) (l : List Vec) : (t.setQueueOf q l).asid = t.asid := rfl
@[simp] theorem Task.setQueueOf_node (t : Task) (q : Nat) (l : List Vec) : (t.setQueueOf q l).node = t.node := rfl
@[simp] theorem Task.setQueueOf_team (t : Task) (q : Nat) (l : List Vec) : (t.setQueueOf q l).team = t.team := rfl
@[simp] theorem Task.setQueueOf_image (t : Task) (q : Nat) (l : List Vec) : (t.setQueueOf q l).image = t.image := rfl
@[simp] theorem Task.setQueueOf_uid (t : Task) (q : Nat) (l : List Vec) : (t.setQueueOf q l).uid = t.uid := rfl
@[simp] theorem Task.setQueueOf_rank (t : Task) (q : Nat) (l : List Vec) : (t.setQueueOf q l).rank = t.rank := rfl
@[simp] theorem Task.setQueueOf_kernel (t : Task) (q : Nat) (l : List Vec) : (t.setQueueOf q l).kernel = t.kernel := rfl
@[simp] theorem Task.setQueueOf_strands (t : Task) (q : Nat) (l : List Vec) : (t.setQueueOf q l).strands = t.strands := rfl
@[simp] theorem Task.setQueueOf_window (t : Task) (q : Nat) (l : List Vec) : (t.setQueueOf q l).window = t.window := rfl
@[simp] theorem Task.setQueueOf_s (t : Task) (q : Nat) (l : List Vec) : (t.setQueueOf q l).s = t.s := rfl
@[simp] theorem Task.setQueueOf_dep (t : Task) (q : Nat) (l : List Vec) : (t.setQueueOf q l).dep = t.dep := rfl
@[simp] theorem Task.setQueueOf_k (t : Task) (q : Nat) (l : List Vec) : (t.setQueueOf q l).k = t.k := rfl
@[simp] theorem Task.setQueueOf_v (t : Task) (q : Nat) (l : List Vec) : (t.setQueueOf q l).v = t.v := rfl
@[simp] theorem Task.setQueueOf_p (t : Task) (q : Nat) (l : List Vec) : (t.setQueueOf q l).p = t.p := rfl
@[simp] theorem Task.setQueueOf_g (t : Task) (q : Nat) (l : List Vec) : (t.setQueueOf q l).g = t.g := rfl
@[simp] theorem Task.setQueueOf_i (t : Task) (q : Nat) (l : List Vec) : (t.setQueueOf q l).i = t.i := rfl
@[simp] theorem Task.setQueueOf_sem (t : Task) (q : Nat) (l : List Vec) : (t.setQueueOf q l).sem = t.sem := rfl
@[simp] theorem Task.setQueueOf_fpctl (t : Task) (q : Nat) (l : List Vec) : (t.setQueueOf q l).fpctl = t.fpctl := rfl
@[simp] theorem Task.setQueueOf_fpstat (t : Task) (q : Nat) (l : List Vec) : (t.setQueueOf q l).fpstat = t.fpstat := rfl
@[simp] theorem Task.setQueueOf_lseed (t : Task) (q : Nat) (l : List Vec) : (t.setQueueOf q l).lseed = t.lseed := rfl
@[simp] theorem Task.setQueueOf_rrb (t : Task) (q : Nat) (l : List Vec) : (t.setQueueOf q l).rrb = t.rrb := rfl
@[simp] theorem Task.setQueueOf_prb (t : Task) (q : Nat) (l : List Vec) : (t.setQueueOf q l).prb = t.prb := rfl
@[simp] theorem Task.setQueueOf_win (t : Task) (q : Nat) (l : List Vec) : (t.setQueueOf q l).win = t.win := rfl
@[simp] theorem Task.setQueueOf_taskid (t : Task) (q : Nat) (l : List Vec) : (t.setQueueOf q l).taskid = t.taskid := rfl
@[simp] theorem Task.setQueueOf_teaminfo (t : Task) (q : Nat) (l : List Vec) : (t.setQueueOf q l).teaminfo = t.teaminfo := rfl
@[simp] theorem Task.setQueueOf_gridinfo (t : Task) (q : Nat) (l : List Vec) : (t.setQueueOf q l).gridinfo = t.gridinfo := rfl
@[simp] theorem Task.setQueueOf_domain (t : Task) (q : Nat) (l : List Vec) : (t.setQueueOf q l).domain = t.domain := rfl
@[simp] theorem Task.setQueueOf_sticky (t : Task) (q : Nat) (l : List Vec) : (t.setQueueOf q l).sticky = t.sticky := rfl
@[simp] theorem Task.setQueueOf_spills (t : Task) (q : Nat) (l : List Vec) : (t.setQueueOf q l).spills = t.spills := rfl
@[simp] theorem Task.setQueueOf_ufentry (t : Task) (q : Nat) (l : List Vec) : (t.setQueueOf q l).ufentry = t.ufentry := rfl
@[simp] theorem Task.setQueueOf_slots (t : Task) (q : Nat) (l : List Vec) : (t.setQueueOf q l).slots = t.slots := rfl
@[simp] theorem Task.setQueueOf_replay (t : Task) (q : Nat) (l : List Vec) : (t.setQueueOf q l).replay = t.replay := rfl
@[simp] theorem Task.setQueueOf_fills (t : Task) (q : Nat) (l : List Vec) : (t.setQueueOf q l).fills = t.fills := rfl
@[simp] theorem Task.setQueueOf_itins (t : Task) (q : Nat) (l : List Vec) : (t.setQueueOf q l).itins = t.itins := rfl
@[simp] theorem Task.setQueueOf_gens (t : Task) (q : Nat) (l : List Vec) : (t.setQueueOf q l).gens = t.gens := rfl
@[simp] theorem Task.setQueueOf_accs (t : Task) (q : Nat) (l : List Vec) : (t.setQueueOf q l).accs = t.accs := rfl
@[simp] theorem Task.setQueueOf_groups (t : Task) (q : Nat) (l : List Vec) : (t.setQueueOf q l).groups = t.groups := rfl
@[simp] theorem Task.setQueueOf_defer (t : Task) (q : Nat) (l : List Vec) : (t.setQueueOf q l).defer = t.defer := rfl
@[simp] theorem Task.setQueueOf_sigs (t : Task) (q : Nat) (l : List Vec) : (t.setQueueOf q l).sigs = t.sigs := rfl
@[simp] theorem Task.setQueueOf_jobs (t : Task) (q : Nat) (l : List Vec) : (t.setQueueOf q l).jobs = t.jobs := rfl
@[simp] theorem Task.setQueueOf_fseq (t : Task) (q : Nat) (l : List Vec) : (t.setQueueOf q l).fseq = t.fseq := rfl
@[simp] theorem Task.setQueueOf_runs (t : Task) (q : Nat) (l : List Vec) : (t.setQueueOf q l).runs = t.runs := rfl
@[simp] theorem Task.setQueueOf_recalls (t : Task) (q : Nat) (l : List Vec) : (t.setQueueOf q l).recalls = t.recalls := rfl
@[simp] theorem Task.setQueueOf_faults (t : Task) (q : Nat) (l : List Vec) : (t.setQueueOf q l).faults = t.faults := rfl
@[simp] theorem Task.setQueueOf_saved (t : Task) (q : Nat) (l : List Vec) : (t.setQueueOf q l).saved = t.saved := rfl
@[simp] theorem Task.setQueueOf_leaseReq (t : Task) (q : Nat) (l : List Vec) : (t.setQueueOf q l).leaseReq = t.leaseReq := rfl
@[simp] theorem Task.setQueueOf_leaseHeld (t : Task) (q : Nat) (l : List Vec) : (t.setQueueOf q l).leaseHeld = t.leaseHeld := rfl
@[simp] theorem Task.setQueueOf_stop (t : Task) (q : Nat) (l : List Vec) : (t.setQueueOf q l).stop = t.stop := rfl
@[simp] theorem Task.setQueueOf_stopAt (t : Task) (q : Nat) (l : List Vec) : (t.setQueueOf q l).stopAt = t.stopAt := rfl
@[simp] theorem Task.setQueueOf_stopLive (t : Task) (q : Nat) (l : List Vec) : (t.setQueueOf q l).stopLive = t.stopLive := rfl

@[simp] theorem Task.setAcc_ctx (t : Task) (i : BitVec 1) (a : AccSet) : (t.setAcc i a).ctx = t.ctx := rfl
@[simp] theorem Task.setAcc_asid (t : Task) (i : BitVec 1) (a : AccSet) : (t.setAcc i a).asid = t.asid := rfl
@[simp] theorem Task.setAcc_node (t : Task) (i : BitVec 1) (a : AccSet) : (t.setAcc i a).node = t.node := rfl
@[simp] theorem Task.setAcc_team (t : Task) (i : BitVec 1) (a : AccSet) : (t.setAcc i a).team = t.team := rfl
@[simp] theorem Task.setAcc_image (t : Task) (i : BitVec 1) (a : AccSet) : (t.setAcc i a).image = t.image := rfl
@[simp] theorem Task.setAcc_uid (t : Task) (i : BitVec 1) (a : AccSet) : (t.setAcc i a).uid = t.uid := rfl
@[simp] theorem Task.setAcc_rank (t : Task) (i : BitVec 1) (a : AccSet) : (t.setAcc i a).rank = t.rank := rfl
@[simp] theorem Task.setAcc_kernel (t : Task) (i : BitVec 1) (a : AccSet) : (t.setAcc i a).kernel = t.kernel := rfl
@[simp] theorem Task.setAcc_strands (t : Task) (i : BitVec 1) (a : AccSet) : (t.setAcc i a).strands = t.strands := rfl
@[simp] theorem Task.setAcc_window (t : Task) (i : BitVec 1) (a : AccSet) : (t.setAcc i a).window = t.window := rfl
@[simp] theorem Task.setAcc_s (t : Task) (i : BitVec 1) (a : AccSet) : (t.setAcc i a).s = t.s := rfl
@[simp] theorem Task.setAcc_dep (t : Task) (i : BitVec 1) (a : AccSet) : (t.setAcc i a).dep = t.dep := rfl
@[simp] theorem Task.setAcc_k (t : Task) (i : BitVec 1) (a : AccSet) : (t.setAcc i a).k = t.k := rfl
@[simp] theorem Task.setAcc_v (t : Task) (i : BitVec 1) (a : AccSet) : (t.setAcc i a).v = t.v := rfl
@[simp] theorem Task.setAcc_p (t : Task) (i : BitVec 1) (a : AccSet) : (t.setAcc i a).p = t.p := rfl
@[simp] theorem Task.setAcc_g (t : Task) (i : BitVec 1) (a : AccSet) : (t.setAcc i a).g = t.g := rfl
@[simp] theorem Task.setAcc_i (t : Task) (i : BitVec 1) (a : AccSet) : (t.setAcc i a).i = t.i := rfl
@[simp] theorem Task.setAcc_q (t : Task) (i : BitVec 1) (a : AccSet) : (t.setAcc i a).q = t.q := rfl
@[simp] theorem Task.setAcc_sem (t : Task) (i : BitVec 1) (a : AccSet) : (t.setAcc i a).sem = t.sem := rfl
@[simp] theorem Task.setAcc_fpctl (t : Task) (i : BitVec 1) (a : AccSet) : (t.setAcc i a).fpctl = t.fpctl := rfl
@[simp] theorem Task.setAcc_fpstat (t : Task) (i : BitVec 1) (a : AccSet) : (t.setAcc i a).fpstat = t.fpstat := rfl
@[simp] theorem Task.setAcc_lseed (t : Task) (i : BitVec 1) (a : AccSet) : (t.setAcc i a).lseed = t.lseed := rfl
@[simp] theorem Task.setAcc_rrb (t : Task) (i : BitVec 1) (a : AccSet) : (t.setAcc i a).rrb = t.rrb := rfl
@[simp] theorem Task.setAcc_prb (t : Task) (i : BitVec 1) (a : AccSet) : (t.setAcc i a).prb = t.prb := rfl
@[simp] theorem Task.setAcc_win (t : Task) (i : BitVec 1) (a : AccSet) : (t.setAcc i a).win = t.win := rfl
@[simp] theorem Task.setAcc_taskid (t : Task) (i : BitVec 1) (a : AccSet) : (t.setAcc i a).taskid = t.taskid := rfl
@[simp] theorem Task.setAcc_teaminfo (t : Task) (i : BitVec 1) (a : AccSet) : (t.setAcc i a).teaminfo = t.teaminfo := rfl
@[simp] theorem Task.setAcc_gridinfo (t : Task) (i : BitVec 1) (a : AccSet) : (t.setAcc i a).gridinfo = t.gridinfo := rfl
@[simp] theorem Task.setAcc_domain (t : Task) (i : BitVec 1) (a : AccSet) : (t.setAcc i a).domain = t.domain := rfl
@[simp] theorem Task.setAcc_sticky (t : Task) (i : BitVec 1) (a : AccSet) : (t.setAcc i a).sticky = t.sticky := rfl
@[simp] theorem Task.setAcc_spills (t : Task) (i : BitVec 1) (a : AccSet) : (t.setAcc i a).spills = t.spills := rfl
@[simp] theorem Task.setAcc_ufentry (t : Task) (i : BitVec 1) (a : AccSet) : (t.setAcc i a).ufentry = t.ufentry := rfl
@[simp] theorem Task.setAcc_slots (t : Task) (i : BitVec 1) (a : AccSet) : (t.setAcc i a).slots = t.slots := rfl
@[simp] theorem Task.setAcc_replay (t : Task) (i : BitVec 1) (a : AccSet) : (t.setAcc i a).replay = t.replay := rfl
@[simp] theorem Task.setAcc_fills (t : Task) (i : BitVec 1) (a : AccSet) : (t.setAcc i a).fills = t.fills := rfl
@[simp] theorem Task.setAcc_itins (t : Task) (i : BitVec 1) (a : AccSet) : (t.setAcc i a).itins = t.itins := rfl
@[simp] theorem Task.setAcc_gens (t : Task) (i : BitVec 1) (a : AccSet) : (t.setAcc i a).gens = t.gens := rfl
@[simp] theorem Task.setAcc_groups (t : Task) (i : BitVec 1) (a : AccSet) : (t.setAcc i a).groups = t.groups := rfl
@[simp] theorem Task.setAcc_defer (t : Task) (i : BitVec 1) (a : AccSet) : (t.setAcc i a).defer = t.defer := rfl
@[simp] theorem Task.setAcc_sigs (t : Task) (i : BitVec 1) (a : AccSet) : (t.setAcc i a).sigs = t.sigs := rfl
@[simp] theorem Task.setAcc_jobs (t : Task) (i : BitVec 1) (a : AccSet) : (t.setAcc i a).jobs = t.jobs := rfl
@[simp] theorem Task.setAcc_fseq (t : Task) (i : BitVec 1) (a : AccSet) : (t.setAcc i a).fseq = t.fseq := rfl
@[simp] theorem Task.setAcc_runs (t : Task) (i : BitVec 1) (a : AccSet) : (t.setAcc i a).runs = t.runs := rfl
@[simp] theorem Task.setAcc_recalls (t : Task) (i : BitVec 1) (a : AccSet) : (t.setAcc i a).recalls = t.recalls := rfl
@[simp] theorem Task.setAcc_faults (t : Task) (i : BitVec 1) (a : AccSet) : (t.setAcc i a).faults = t.faults := rfl
@[simp] theorem Task.setAcc_saved (t : Task) (i : BitVec 1) (a : AccSet) : (t.setAcc i a).saved = t.saved := rfl
@[simp] theorem Task.setAcc_leaseReq (t : Task) (i : BitVec 1) (a : AccSet) : (t.setAcc i a).leaseReq = t.leaseReq := rfl
@[simp] theorem Task.setAcc_leaseHeld (t : Task) (i : BitVec 1) (a : AccSet) : (t.setAcc i a).leaseHeld = t.leaseHeld := rfl
@[simp] theorem Task.setAcc_stop (t : Task) (i : BitVec 1) (a : AccSet) : (t.setAcc i a).stop = t.stop := rfl
@[simp] theorem Task.setAcc_stopAt (t : Task) (i : BitVec 1) (a : AccSet) : (t.setAcc i a).stopAt = t.stopAt := rfl
@[simp] theorem Task.setAcc_stopLive (t : Task) (i : BitVec 1) (a : AccSet) : (t.setAcc i a).stopLive = t.stopLive := rfl

@[simp] theorem Task.sset_ctx (t : Task) (r : SReg) (v : Word) : (t.sset r v).ctx = t.ctx := by
  unfold Task.sset; split <;> rfl
@[simp] theorem Task.sset_asid (t : Task) (r : SReg) (v : Word) : (t.sset r v).asid = t.asid := by
  unfold Task.sset; split <;> rfl
@[simp] theorem Task.sset_node (t : Task) (r : SReg) (v : Word) : (t.sset r v).node = t.node := by
  unfold Task.sset; split <;> rfl
@[simp] theorem Task.sset_team (t : Task) (r : SReg) (v : Word) : (t.sset r v).team = t.team := by
  unfold Task.sset; split <;> rfl
@[simp] theorem Task.sset_image (t : Task) (r : SReg) (v : Word) : (t.sset r v).image = t.image := by
  unfold Task.sset; split <;> rfl
@[simp] theorem Task.sset_uid (t : Task) (r : SReg) (v : Word) : (t.sset r v).uid = t.uid := by
  unfold Task.sset; split <;> rfl
@[simp] theorem Task.sset_rank (t : Task) (r : SReg) (v : Word) : (t.sset r v).rank = t.rank := by
  unfold Task.sset; split <;> rfl
@[simp] theorem Task.sset_kernel (t : Task) (r : SReg) (v : Word) : (t.sset r v).kernel = t.kernel := by
  unfold Task.sset; split <;> rfl
@[simp] theorem Task.sset_strands (t : Task) (r : SReg) (v : Word) : (t.sset r v).strands = t.strands := by
  unfold Task.sset; split <;> rfl
@[simp] theorem Task.sset_window (t : Task) (r : SReg) (v : Word) : (t.sset r v).window = t.window := by
  unfold Task.sset; split <;> rfl
@[simp] theorem Task.sset_k (t : Task) (r : SReg) (v : Word) : (t.sset r v).k = t.k := by
  unfold Task.sset; split <;> rfl
@[simp] theorem Task.sset_v (t : Task) (r : SReg) (v : Word) : (t.sset r v).v = t.v := by
  unfold Task.sset; split <;> rfl
@[simp] theorem Task.sset_p (t : Task) (r : SReg) (v : Word) : (t.sset r v).p = t.p := by
  unfold Task.sset; split <;> rfl
@[simp] theorem Task.sset_g (t : Task) (r : SReg) (v : Word) : (t.sset r v).g = t.g := by
  unfold Task.sset; split <;> rfl
@[simp] theorem Task.sset_i (t : Task) (r : SReg) (v : Word) : (t.sset r v).i = t.i := by
  unfold Task.sset; split <;> rfl
@[simp] theorem Task.sset_q (t : Task) (r : SReg) (v : Word) : (t.sset r v).q = t.q := by
  unfold Task.sset; split <;> rfl
@[simp] theorem Task.sset_sem (t : Task) (r : SReg) (v : Word) : (t.sset r v).sem = t.sem := by
  unfold Task.sset; split <;> rfl
@[simp] theorem Task.sset_fpctl (t : Task) (r : SReg) (v : Word) : (t.sset r v).fpctl = t.fpctl := by
  unfold Task.sset; split <;> rfl
@[simp] theorem Task.sset_fpstat (t : Task) (r : SReg) (v : Word) : (t.sset r v).fpstat = t.fpstat := by
  unfold Task.sset; split <;> rfl
@[simp] theorem Task.sset_lseed (t : Task) (r : SReg) (v : Word) : (t.sset r v).lseed = t.lseed := by
  unfold Task.sset; split <;> rfl
@[simp] theorem Task.sset_rrb (t : Task) (r : SReg) (v : Word) : (t.sset r v).rrb = t.rrb := by
  unfold Task.sset; split <;> rfl
@[simp] theorem Task.sset_prb (t : Task) (r : SReg) (v : Word) : (t.sset r v).prb = t.prb := by
  unfold Task.sset; split <;> rfl
@[simp] theorem Task.sset_win (t : Task) (r : SReg) (v : Word) : (t.sset r v).win = t.win := by
  unfold Task.sset; split <;> rfl
@[simp] theorem Task.sset_taskid (t : Task) (r : SReg) (v : Word) : (t.sset r v).taskid = t.taskid := by
  unfold Task.sset; split <;> rfl
@[simp] theorem Task.sset_teaminfo (t : Task) (r : SReg) (v : Word) : (t.sset r v).teaminfo = t.teaminfo := by
  unfold Task.sset; split <;> rfl
@[simp] theorem Task.sset_gridinfo (t : Task) (r : SReg) (v : Word) : (t.sset r v).gridinfo = t.gridinfo := by
  unfold Task.sset; split <;> rfl
@[simp] theorem Task.sset_domain (t : Task) (r : SReg) (v : Word) : (t.sset r v).domain = t.domain := by
  unfold Task.sset; split <;> rfl
@[simp] theorem Task.sset_sticky (t : Task) (r : SReg) (v : Word) : (t.sset r v).sticky = t.sticky := by
  unfold Task.sset; split <;> rfl
@[simp] theorem Task.sset_spills (t : Task) (r : SReg) (v : Word) : (t.sset r v).spills = t.spills := by
  unfold Task.sset; split <;> rfl
@[simp] theorem Task.sset_ufentry (t : Task) (r : SReg) (v : Word) : (t.sset r v).ufentry = t.ufentry := by
  unfold Task.sset; split <;> rfl
@[simp] theorem Task.sset_slots (t : Task) (r : SReg) (v : Word) : (t.sset r v).slots = t.slots := by
  unfold Task.sset; split <;> rfl
@[simp] theorem Task.sset_replay (t : Task) (r : SReg) (v : Word) : (t.sset r v).replay = t.replay := by
  unfold Task.sset; split <;> rfl
@[simp] theorem Task.sset_fills (t : Task) (r : SReg) (v : Word) : (t.sset r v).fills = t.fills := by
  unfold Task.sset; split <;> rfl
@[simp] theorem Task.sset_itins (t : Task) (r : SReg) (v : Word) : (t.sset r v).itins = t.itins := by
  unfold Task.sset; split <;> rfl
@[simp] theorem Task.sset_gens (t : Task) (r : SReg) (v : Word) : (t.sset r v).gens = t.gens := by
  unfold Task.sset; split <;> rfl
@[simp] theorem Task.sset_accs (t : Task) (r : SReg) (v : Word) : (t.sset r v).accs = t.accs := by
  unfold Task.sset; split <;> rfl
@[simp] theorem Task.sset_groups (t : Task) (r : SReg) (v : Word) : (t.sset r v).groups = t.groups := by
  unfold Task.sset; split <;> rfl
@[simp] theorem Task.sset_defer (t : Task) (r : SReg) (v : Word) : (t.sset r v).defer = t.defer := by
  unfold Task.sset; split <;> rfl
@[simp] theorem Task.sset_sigs (t : Task) (r : SReg) (v : Word) : (t.sset r v).sigs = t.sigs := by
  unfold Task.sset; split <;> rfl
@[simp] theorem Task.sset_jobs (t : Task) (r : SReg) (v : Word) : (t.sset r v).jobs = t.jobs := by
  unfold Task.sset; split <;> rfl
@[simp] theorem Task.sset_fseq (t : Task) (r : SReg) (v : Word) : (t.sset r v).fseq = t.fseq := by
  unfold Task.sset; split <;> rfl
@[simp] theorem Task.sset_runs (t : Task) (r : SReg) (v : Word) : (t.sset r v).runs = t.runs := by
  unfold Task.sset; split <;> rfl
@[simp] theorem Task.sset_recalls (t : Task) (r : SReg) (v : Word) : (t.sset r v).recalls = t.recalls := by
  unfold Task.sset; split <;> rfl
@[simp] theorem Task.sset_faults (t : Task) (r : SReg) (v : Word) : (t.sset r v).faults = t.faults := by
  unfold Task.sset; split <;> rfl
@[simp] theorem Task.sset_saved (t : Task) (r : SReg) (v : Word) : (t.sset r v).saved = t.saved := by
  unfold Task.sset; split <;> rfl
@[simp] theorem Task.sset_leaseReq (t : Task) (r : SReg) (v : Word) : (t.sset r v).leaseReq = t.leaseReq := by
  unfold Task.sset; split <;> rfl
@[simp] theorem Task.sset_leaseHeld (t : Task) (r : SReg) (v : Word) : (t.sset r v).leaseHeld = t.leaseHeld := by
  unfold Task.sset; split <;> rfl
@[simp] theorem Task.sset_stop (t : Task) (r : SReg) (v : Word) : (t.sset r v).stop = t.stop := by
  unfold Task.sset; split <;> rfl
@[simp] theorem Task.sset_stopAt (t : Task) (r : SReg) (v : Word) : (t.sset r v).stopAt = t.stopAt := by
  unfold Task.sset; split <;> rfl
@[simp] theorem Task.sset_stopLive (t : Task) (r : SReg) (v : Word) : (t.sset r v).stopLive = t.stopLive := by
  unfold Task.sset; split <;> rfl

/-- s0 discards writes (R195). -/
theorem Task.sset_zero (t : Task) (v : Word) : t.sset 0 v = t := rfl

/-- A register reads back what was written, s0 zero, and every other register what it held (R195). -/
theorem Task.sget_sset (t : Task) (r q : SReg) (v : Word) :
    sget (t.sset r v).s q = if q = 0 then 0 else if q = r then v else sget t.s q := by
  unfold sget Task.sset
  by_cases h0 : q = 0
  · simp [h0]
  · by_cases hr : r = 0
    · simp only [h0, hr, if_true, if_false]
    · simp only [h0, hr, if_false]
      rw [SMap.look_put]
      by_cases e : q = r
      · simp [e]
      · rw [if_neg e, if_neg]
        intro hh
        exact e (BitVec.eq_of_toNat_eq hh)

/-- A write of one register leaves every other as it was. -/
theorem Task.sget_sset_ne (t : Task) (r q : SReg) (v : Word) (hq : q ≠ r) :
    sget (t.sset r v).s q = sget t.s q := by
  rw [Task.sget_sset t r q v]
  by_cases h0 : q = 0
  · simp [h0, sget]
  · rw [if_neg h0, if_neg hq]

theorem State.router_setRouter_ne (s : State) (d e : Nat) (x : Router) (h : e ≠ d) :
    (s.setRouter d x).router e = s.router e := by
  unfold State.router State.setRouter
  rw [SMap.look_put, if_neg h]
theorem State.router_setRouter (s : State) (d : Nat) (x : Router) :
    (s.setRouter d x).router d = x := by
  unfold State.router State.setRouter
  rw [SMap.look_put, if_pos rfl]
theorem State.queue_setQueue (s : State) (q : Nat) (x : Queue) :
    (s.setQueue q x).queue q = x := by
  unfold State.queue State.setQueue
  rw [SMap.look_put, if_pos rfl]

end Sys2Proof.Machine
end

