-- ==== Sys2Proof/Laws/Order.lean ====
section
/-! SUPPORT. What reads, acquires, releases, fences, signals and waits do to the state: they change the record of the order of
accesses and nothing else. -/

namespace Sys2Proof.Machine

/-- From `s` to `u` nothing changed but the record of the order of accesses. -/
def State.OrderOnly (s u : State) : Prop := u = { s with order := u.order }

namespace State.OrderOnly

variable {s u w : State}

theorem refl (s : State) : s.OrderOnly s := rfl
theorem trans (h : s.OrderOnly u) (g : u.OrderOnly w) : s.OrderOnly w := by
  unfold State.OrderOnly at *
  rw [g, h]
theorem foldl {α : Type} {f : State → α → State} (h : ∀ (s : State) x, s.OrderOnly (f s x)) (l : List α) (s : State) :
    s.OrderOnly (l.foldl f s) := by
  induction l generalizing s with
  | nil => exact refl s
  | cons x t ih => exact (h s x).trans (ih _)
theorem ofIf {p : Prop} [Decidable p] (h : s.OrderOnly u) (g : s.OrderOnly w) : s.OrderOnly (if p then u else w) := by
  split_ifs
  · exact h
  · exact g

theorem mem (h : s.OrderOnly u) : u.mem = s.mem := by rw [h]
theorem cores (h : s.OrderOnly u) : u.cores = s.cores := by rw [h]
theorem cur (h : s.OrderOnly u) : u.cur = s.cur := by rw [h]
theorem wb (h : s.OrderOnly u) : u.wb = s.wb := by rw [h]
theorem core (h : s.OrderOnly u) (c : Nat) : u.core c = s.core c := by rw [h]; rfl
theorem task (h : s.OrderOnly u) (c : Nat) : u.task c = s.task c := by rw [h]; rfl

end State.OrderOnly

open State.OrderOnly (refl foldl ofIf)

theorem State.setView_only (s : State) (v : View) : s.OrderOnly (s.setView v) := rfl
theorem State.modView_only (s : State) (a : Agent) (f : View → View) : s.OrderOnly (s.modView a f) := rfl
theorem State.mapSides_only (s : State) (f : Side → Side) : s.OrderOnly (s.mapSides f) := rfl
theorem State.floor_only (s : State) (a : Agent) (f : Side → Bool) : s.OrderOnly (s.floor a f) := rfl
theorem State.noteNow_only (s : State) (a : Agent) : s.OrderOnly (s.noteNow a) := rfl
theorem State.addSide_only (s : State) (id d : Nat) (t v : Bool) (w : Option Agent) (l : List Nat) :
    s.OrderOnly (s.addSide id d t v w l) := rfl

theorem State.show_only (s : State) (d : Nat) (l : List Nat) : s.OrderOnly (s.show d l) := by
  unfold State.show; split_ifs <;> rfl
theorem State.showIn_only (s : State) (a : Agent) (k : Scope) (l : List Nat) : s.OrderOnly (s.showIn a k l) :=
  ofIf ((State.show_only ..).trans (State.show_only ..)) (State.show_only ..)

theorem State.noteUnit_only (a : Agent) (d n : Nat) (s : State) (x : Nat × Nat) : s.OrderOnly (State.noteUnit a d n s x) := by
  unfold State.noteUnit
  simp only
  exact (State.show_only ..).trans ((State.mapSides_only ..).trans (State.modView_only ..))

/-- A read changes the record of the order of accesses alone. -/
theorem State.noteRead_only (s : State) (a : Option Agent) (d pa n u : Nat) (old : List Nat) :
    s.OrderOnly (s.noteRead a d pa n u old) := by
  cases a with
  | none => exact refl s
  | some a => exact ofIf (State.modView_only ..) ((State.modView_only ..).trans (foldl (fun s x => State.noteUnit_only a d u s x) _ _))

theorem State.emit_only (s : State) (w : Option Agent) (d : Nat) (k : Option Scope) (t : Bool) (l : Known) :
    s.OrderOnly (s.emit w d k t l).1 := by
  cases w <;> rfl

theorem State.acquire_only (s : State) (a : Agent) (k : Scope) : s.OrderOnly (s.acquire a k) := by
  unfold State.acquire; split_ifs <;> rfl
theorem State.acquireNow_only (s : State) (a : Agent) (k : Scope) : s.OrderOnly (s.acquireNow a k) := by
  unfold State.acquireNow; split_ifs <;> rfl
theorem State.publish_only (s : State) (a : Agent) (k : Scope) : s.OrderOnly (s.publish a k) :=
  ofIf (refl s) (State.showIn_only ..)
theorem State.publishSeen_only (s : State) (a : Agent) : s.OrderOnly (s.publishSeen a) :=
  ofIf (refl s) (State.showIn_only ..)

theorem State.fenceOrder_only (s : State) (a : Agent) (f : FenceKind) (k : Scope) : s.OrderOnly (s.fenceOrder a f k) := by
  unfold State.fenceOrder
  simp only
  exact (ofIf (State.showIn_only ..) (refl s)).trans ((ofIf (State.showIn_only ..) (refl _)).trans
    ((ofIf (refl _) (State.floor_only ..)).trans (State.modView_only ..)))

theorem State.stlFence_only (s : State) (a : Agent) (k : Scope) : s.OrderOnly (s.stlFence a k) := by
  unfold State.stlFence
  split
  · exact refl s
  · exact (foldl (fun s x => State.showIn_only ..) _ _).trans (foldl (fun s x => State.floor_only ..) _ _)

theorem State.pairUp_only (s : State) (c : Nat) (sem : BitVec 8) (k : Scope) (l : List Nat) :
    s.OrderOnly (s.pairUp c sem k l) := by
  unfold State.pairUp
  simp only
  exact ofIf (refl s) ((ofIf ((State.show_only ..).trans (State.show_only ..)) (refl s)).trans rfl)

/-- What a signal stands for changes the record of the order of accesses alone. -/
theorem State.pairFor_only (s : State) (c : Nat) (g : SigClause) (l : List Nat) : s.OrderOnly (s.pairFor c g l) := by
  unfold State.pairFor
  split
  · exact refl s
  · exact State.pairUp_only ..
  · exact State.pairUp_only ..

/-- So does a wait that is satisfied. -/
theorem State.meetWait_only (s : State) (c : Nat) (e : Eng) (sem : BitVec 8) : s.OrderOnly (s.meetWait c e sem) := by
  unfold State.meetWait
  split
  · exact refl s
  · exact (State.modView_only ..).trans (ofIf (refl _) (State.floor_only ..))
theorem State.metOnce_only (s : State) (c : Nat) (e : Eng) (sem : BitVec 8) : s.OrderOnly (s.metOnce c e sem) := by
  unfold State.metOnce
  split
  · exact ofIf (refl s) (State.meetWait_only ..)
  · exact State.meetWait_only ..

theorem State.wroteAs_only (s o : State) (a : Option Agent) : s.OrderOnly (s.wroteAs o a) := by
  cases a <;> rfl

end Sys2Proof.Machine
end

