-- ==== Sys2Proof/Laws/Memory.lean ====
section
/-! SUPPORT. Every memory operation keeps the canonical form of the memory, and what a byte reads as after a write at its
home. -/

namespace Sys2Proof.Machine

/-! ## Bytes -/

theorem rawPut_wf (m : List Host.Cell) (pa : Nat) (b : List Byte) (h : Memory.wf m) : Memory.wf (rawPut m pa b) := by
  induction b generalizing m pa with
  | nil => exact h
  | cons x t ih => exact ih _ _ (SMap.wf_put _ _ _ _ h)

/-- A byte after a run of bytes is written: the byte of the run at its place, or what stood there. -/
theorem rawByte_rawPut (m : List Host.Cell) (pa : Nat) (b : List Byte) (a : Nat) :
    rawByte (rawPut m pa b) a = if pa ≤ a ∧ a < pa + b.length then b.getD (a - pa) 0 else rawByte m a := by
  induction b generalizing m pa with
  | nil =>
    rw [if_neg (by simp)]
    rfl
  | cons x t ih =>
    rw [rawPut, ih]
    unfold rawByte
    rw [SMap.look_put]
    simp only [List.length_cons]
    by_cases h1 : a = pa
    · subst h1
      rw [if_neg (by omega), if_pos rfl, if_pos (by omega)]
      simp
    · by_cases h2 : pa + 1 ≤ a ∧ a < pa + 1 + t.length
      · rw [if_pos h2, if_pos (by omega)]
        have : a - pa = (a - (pa + 1)) + 1 := by omega
        rw [this, List.getD_cons_succ]
      · rw [if_neg h2, if_neg h1, if_neg (by omega)]

/-! ## Updates that do not touch memory -/

theorem State.memSound_of_mem {s s' : State} (h : s.memSound) (e : s'.mem = s.mem) : s'.memSound := by
  unfold State.memSound at *
  rwa [e]

theorem foldl_mem {α : Type} {f : State → α → State} (h : ∀ s x, (f s x).mem = s.mem) (l : List α) (s : State) :
    (l.foldl f s).mem = s.mem := by
  induction l generalizing s with
  | nil => rfl
  | cons x t ih => exact (ih _).trans (h s x)
theorem foldl_memSound {α : Type} {f : State → α → State} (h : ∀ s x, s.memSound → (f s x).memSound) (l : List α) (s : State)
    (hs : s.memSound) : (l.foldl f s).memSound := by
  induction l generalizing s with
  | nil => exact hs
  | cons x t ih => exact ih _ (h s x hs)
theorem State.OrderOnly.memSound {s u : State} (g : s.OrderOnly u) (h : s.memSound) : u.memSound :=
  State.memSound_of_mem h g.mem

@[simp] theorem State.putTile_mem (s : State) (c : Nat) (t : Tile) : (s.putTile c t).mem = s.mem := rfl
@[simp] theorem State.sendAway_mem (s : State) (w : Who) (l va : Nat) (op : RemoteOp) (m : SMap (BitVec 32)) :
    (s.sendAway w l va op m).mem = s.mem := rfl
@[simp] theorem State.unregister_mem (s : State) (c : Nat) (n : TileName) : (s.unregister c n).mem = s.mem := rfl
@[simp] theorem State.modTile_mem (s : State) (c : Nat) (n : TileName) (f : Tile → Tile) : (s.modTile c n f).mem = s.mem := rfl
@[simp] theorem State.dropEnded_mem (s : State) (c : Nat) (t : Tile) (f : FaultInfo) :
    (s.dropEnded c t f).mem = s.mem := rfl
@[simp] theorem State.refusedAt_mem (s : State) (va : Nat) : (s.refusedAt va).mem = s.mem := rfl

theorem State.noteWord_mem (c : Option Nat) (d pa : Nat) (b : List Byte) (s : State) (a : Nat) :
    (s.noteWord c d pa b a).mem = s.mem := by
  unfold State.noteWord
  simp only
  split_ifs <;> rfl
@[simp] theorem State.noteStore_mem (s : State) (c : Option Nat) (d pa : Nat) (b : List Byte) :
    (s.noteStore c d pa b).mem = s.mem := by
  unfold State.noteStore
  split_ifs
  · rfl
  · exact foldl_mem (fun s x => State.noteWord_mem ..) _ _

/-! ## Translations and reads -/

theorem State.cacheLeaf_mem (s : State) (w : Who) (e : Leaf) : (s.cacheLeaf w e).mem = s.mem := by
  unfold State.cacheLeaf
  split
  · exact foldl_mem (fun _ _ => by rfl) _ _
  · rfl
theorem State.cacheTables_mem (s : State) (w : Who) (va : Nat) (l : List (Nat × Nat)) : (s.cacheTables w va l).mem = s.mem := by
  unfold State.cacheTables
  exact foldl_mem (fun _ _ => by rfl) _ _
theorem State.noteWalk_mem (s : State) (w : Who) (l : List Nat) : (s.noteWalk w l).mem = s.mem := by
  unfold State.noteWalk
  split
  · rfl
  · exact foldl_mem (fun s x => (State.acquire_only ..).mem.trans (State.noteRead_only ..).mem) _ _

theorem State.xlWalk_mem (s : State) (w : Who) (n va : Nat) (a : Acc) (b : Bool) : (s.xlWalk w n va a b).1.mem = s.mem := by
  unfold State.xlWalk
  have h := State.noteWalk_mem s w (s.walk w n va b).read
  simp only
  split
  · exact h
  · split
    · exact h
    · exact (State.cacheLeaf_mem ..).trans ((State.cacheTables_mem ..).trans h)
theorem State.xlHeld_mem (s : State) (w : Who) (n va : Nat) (a : Acc) : (s.xlHeld w n va a).1.mem = s.mem := by
  unfold State.xlHeld
  split
  · exact State.cacheLeaf_mem ..
  · exact State.xlWalk_mem ..

/-- A translation changes no memory. -/
theorem State.xl_mem (s : State) (w : Who) (va : Nat) (a : Acc) : (s.xl w va a).1.mem = s.mem := by
  unfold State.xl
  split
  · split_ifs <;> rfl
  · rename_i n _
    have h := State.xlHeld_mem s w n va a
    split
    · rename_i s1 _ _ e
      rw [e] at h
      exact (State.xlWalk_mem ..).trans h
    · rename_i s1 _ _ e
      rw [e] at h
      exact h

theorem State.xlRun_mem (s : State) (w : Who) (a : Acc) (fuel va n : Nat) :
    (s.xlRun w a fuel va n).1.mem = s.mem := by
  induction fuel generalizing s va n with
  | zero => rfl
  | succ fuel ih =>
    unfold State.xlRun
    split
    · rfl
    · simp only
      generalize (if w.ctx.isSome = true then va % 2 ^ 56 else va) = va
      have hx := State.xl_mem s w va a
      generalize s.xl w va a = r at hx ⊢
      obtain ⟨s1, x⟩ := r
      have hi := ih s1 (va + min n (4096 - va % 4096)) (n - min n (4096 - va % 4096))
      simp only at hx
      cases x <;> simp only
      · generalize s1.xlRun w a fuel _ _ = q at hi ⊢
        obtain ⟨s2, y⟩ := q
        cases y <;> exact hi.trans hx
      · generalize s1.xlRun w a fuel _ _ = q at hi ⊢
        obtain ⟨s2, y⟩ := q
        cases y <;> exact hi.trans hx
      · exact hx
      · exact hx
      · exact hx

theorem State.pieces_mem (s : State) (w : Who) (a : Acc) (va n : Nat) : (s.pieces w a va n).1.mem = s.mem := by
  unfold State.pieces
  have h := State.xlRun_mem s w a (n / 4096 + 2) va n
  generalize s.xlRun w a (n / 4096 + 2) va n = r at h ⊢
  obtain ⟨s1, x⟩ := r
  cases x <;> exact h

theorem State.notePiece_mem (s : State) (w : Who) (a : Acc) (p : Piece) : (s.notePiece w a p).mem = s.mem := by
  unfold State.notePiece
  split
  · split
    · rfl
    · exact (State.noteRead_only ..).mem
    · exact (State.noteRead_only ..).mem
    · rfl
  · rfl
theorem State.readPieces_mem (s : State) (w : Who) (a : Acc) (ps : List Piece) : (s.readPieces w a ps).1.mem = s.mem := by
  unfold State.readPieces
  suffices h : ∀ x : State × List Byte,
      (ps.foldl (fun x p => (x.1.notePiece w a p, x.2 ++ x.1.pieceView w p)) x).1.mem = x.1.mem from h (s, [])
  induction ps with
  | nil => exact fun x => rfl
  | cons p t ih => exact fun x => (ih _).trans (State.notePiece_mem ..)

theorem State.takePieces_mem (s : State) (w : Who) (a : Acc) (va : Nat) (ps : List Piece) :
    (s.takePieces w a va ps).1.mem = s.mem := by
  unfold State.takePieces
  generalize s.awayFails a ps = x
  split_ifs
  · rfl
  · rfl
  · cases x
    · exact State.readPieces_mem s w a ps
    · rfl

/-- A read changes no memory. -/
theorem State.readRun_mem (s : State) (w : Who) (a : Acc) (va n : Nat) : (s.readRun w a va n).1.mem = s.mem := by
  unfold State.readRun
  have h := State.pieces_mem s w a va n
  generalize s.pieces w a va n = r at h ⊢
  obtain ⟨s1, x⟩ := r
  cases x
  · exact h
  · exact (State.takePieces_mem ..).trans h

theorem State.readNat_mem (s : State) (w : Who) (va n : Nat) : (s.readNat w va n).1.mem = s.mem := by
  unfold State.readNat
  have h := State.readRun_mem s w .rd va n
  generalize s.readRun w .rd va n = r at h ⊢
  obtain ⟨s1, x⟩ := r
  cases x <;> exact h

theorem State.place_mem (s : State) (w : Who) (a : Acc) (acc : Placed) (l : List EWrite) :
    (s.place w a acc l).1.mem = s.mem := by
  induction l generalizing s acc with
  | nil => rfl
  | cons e t ih =>
    unfold State.place
    have h := State.pieces_mem s w a e.va e.bytes.length
    generalize s.pieces w a e.va e.bytes.length = r at h ⊢
    obtain ⟨s1, x⟩ := r
    cases x with
    | error x => exact h
    | ok ps =>
      simp only
      generalize s1.awayFails a ps = y
      cases y
      · exact (ih _ _).trans h
      · exact h

theorem State.placeTile_mem (s : State) (c : Nat) (a : Acc) (t : Tile) (b : Option Agent) :
    (s.placeTile c a t b).1.mem = s.mem := by
  unfold State.placeTile
  have h := State.place_mem s (t.who c b) a ⟨[], []⟩ (t.writes a)
  simp only
  generalize s.place (t.who c b) a ⟨[], []⟩ (t.writes a) = r at h ⊢
  obtain ⟨s1, x⟩ := r
  by_cases hb : t.beyond = true
  · rw [if_pos hb]
  · rw [if_neg hb]
    cases x with
    | error e => exact h
    | ok p =>
      simp only
      split
      · exact h
      · split <;> exact h

/-! ## Writes at the home -/

/-- A write at the home keeps the canonical form. -/
theorem State.homeWrite_memSound (s : State) (pa : Nat) (b : List Byte) (h : s.memSound) :
    (s.homeWrite pa b).memSound := rawPut_wf _ _ _ h

theorem State.putCells_memSound (s : State) (l : List Host.Cell) (h : s.memSound) : (s.putCells l).memSound :=
  State.memSound_of_mem (foldl_memSound (fun s c h => State.homeWrite_memSound s c.1 [c.2] h) l.reverse s h) rfl

theorem State.sendCells_mem (s : State) (w : Who) (l : List (Nat × Nat × List Byte)) : (s.sendCells w l).mem = s.mem := by
  unfold State.sendCells
  exact foldl_mem (fun _ _ => by rfl) _ _

theorem State.passLine_memSound (l : Nat) (s : State) (d : Nat × TileName) (h : s.memSound) : (s.passLine l d).memSound := by
  unfold State.passLine
  split
  · exact h
  · exact State.memSound_of_mem (State.putCells_memSound _ _ h) rfl

/-- The commit of a tile's cells keeps the canonical form. -/
theorem State.commitCells_memSound (s : State) (c : Nat) (t : Tile) (p : Placed) (k : List Nat) (h : s.memSound) :
    (s.commitCells c t p k).memSound := by
  unfold State.commitCells
  refine State.memSound_of_mem (State.putCells_memSound _ p.cells ?_) (State.sendCells_mem ..)
  refine State.memSound_of_mem (foldl_memSound (fun s l h => ?_) p.lines s h) rfl
  exact foldl_memSound (fun s x h => State.passLine_memSound l s x h) _ s h

theorem State.writeBackIn_memSound (s : State) (c : Nat) (t : Tile) (h : s.memSound) :
    (s.writeBackIn c t).1.memSound := by
  unfold State.writeBackIn
  have h1 := State.placeTile_mem s c .wb t none
  generalize s.placeTile c .wb t none = r at h1 ⊢
  obtain ⟨s1, x⟩ := r
  have h2 : s1.memSound := State.memSound_of_mem h h1
  cases x with
  | error e => exact h2
  | ok p =>
    simp only
    split <;> exact State.commitCells_memSound _ _ _ _ _ h2

theorem State.writeBack_memSound (s : State) (c : Nat) (t : Tile) (h : s.memSound) :
    (s.writeBack c t).1.memSound := by
  unfold State.writeBack
  split
  · split
    · exact State.writeBackIn_memSound _ _ _ h
    · exact h
  · exact State.writeBackIn_memSound _ _ _ h

theorem State.noteHeld_memSound (s : State) (c : Nat) (t : Tile) (f : FaultInfo) (h : s.memSound) :
    (s.noteHeld c t f).memSound := by
  unfold State.noteHeld
  split
  · exact State.memSound_of_mem h (by simp)
  · exact h

theorem State.recallOne_memSound (s : State) (d : Nat × Nat × TileName) (h : s.memSound) : (s.recallOne d).memSound := by
  unfold State.recallOne
  split_ifs
  · split
    · exact h
    · rename_i t _
      have h1 := State.writeBack_memSound s d.2.1 t h
      generalize s.writeBack d.2.1 t = r at h1 ⊢
      obtain ⟨s1, x⟩ := r
      cases x
      · exact h1
      · exact State.noteHeld_memSound _ _ _ _ h1
  · exact h

theorem State.recallLine_memSound (s : State) (l : Nat) (h : s.memSound) : (s.recallLine l).memSound :=
  foldl_memSound State.recallOne_memSound _ s h

/-- A write past the holders of its lines keeps the canonical form. -/
theorem State.homeStore_memSound (s : State) (pa : Nat) (b : List Byte) (h : s.memSound) :
    (s.homeStore pa b).memSound := by
  unfold State.homeStore
  split_ifs
  · exact h
  · exact State.homeWrite_memSound _ _ _ (foldl_memSound State.recallLine_memSound _ s h)

/-! ## Writes in flight -/

theorem State.begin_mem (s : State) (w : Who) (pa : Nat) (b : List Byte) : (s.begin_ w pa b).1.mem = s.mem := by
  unfold State.begin_
  exact (State.addSide_only ..).mem.trans ((State.emit_only ..).mem.trans (State.noteStore_mem ..))

theorem State.perform_memSound (s : State) (w : Who) (pa : Nat) (b : List Byte) (h : s.memSound) :
    (s.perform w pa b).memSound := by
  unfold State.perform
  exact State.homeStore_memSound _ _ _ ((State.addSide_only ..).memSound (State.memSound_of_mem h (State.begin_mem ..)))

theorem State.applyHead_memSound (s u : State) (d : Nat) (h : s.memSound) (e : s.applyHead d = some u) : u.memSound := by
  unfold State.applyHead at e
  split at e
  · cases e
  · split_ifs at e
    injection e with e
    subst e
    exact State.memSound_of_mem (State.homeStore_memSound _ _ _ ((State.addSide_only ..).memSound h)) rfl

theorem State.applyUntil_memSound (ids : List Nat) (n : Nat) (s : State) (h : s.memSound) :
    (State.applyUntil ids n s).memSound := by
  induction n generalizing s with
  | zero => exact h
  | succ n ih =>
    unfold State.applyUntil
    split
    · simp only
      split
      · exact ih _ (State.applyHead_memSound _ _ _ h ‹_›)
      · split
        · exact ih _ (State.applyHead_memSound _ _ _ h ‹_›)
        · exact h
    · exact h

/-- Writes in flight reach their homes with the canonical form kept. -/
theorem State.drain_memSound (s : State) (ids : List Nat) (h : s.memSound) : (s.drain ids).memSound := by
  unfold State.drain
  split_ifs
  · exact State.applyUntil_memSound _ _ _ h
  · exact h

theorem State.noteTile_memSound (s : State) (c : Nat) (l : List Nat) (h : s.memSound) : (s.noteTile c l).memSound := by
  unfold State.noteTile
  have g (ids : List Nat) : (((s.drain ids).show 0 ids).show 1 ids).memSound :=
    (State.show_only ..).memSound ((State.show_only ..).memSound (State.drain_memSound s ids h))
  simp only
  exact (State.addSide_only ..).memSound ((State.addSide_only ..).memSound (State.memSound_of_mem (g _) (State.emit_only ..).mem))

theorem State.dirtyTile_memSound (s : State) (c : Nat) (t : Tile) (h : s.memSound) : (s.dirtyTile c t).1.memSound := by
  unfold State.dirtyTile
  simp only
  generalize { t with fromRow := 0, passed := [] } = t
  generalize (some (Agent.strand s.cur.core s.cur.eng)) = b
  have hp := State.placeTile_mem s c .wr t b
  generalize s.placeTile c .wr t b = r at hp ⊢
  obtain ⟨s1, x⟩ := r
  have h1 : s1.memSound := State.memSound_of_mem h hp
  cases x
  · exact h1
  · simp only
    have hq := State.place_mem s1 (t.who c b) .wr ⟨[], []⟩ (t.unfit 0)
    generalize s1.place (t.who c b) .wr ⟨[], []⟩ (t.unfit 0) = r at hq ⊢
    obtain ⟨s2, y⟩ := r
    have h2 : s2.memSound := State.memSound_of_mem h1 hq
    cases y
    · exact h2
    · rename_i p _
      exact State.memSound_of_mem (State.noteTile_memSound s2 c (p.cells.map (·.1)) h2) rfl

/-! ## Register regions -/

theorem State.writeQcfg_mem (s : State) (q : Nat) (v : Word) : (s.writeQcfg q v).mem = s.mem := rfl
theorem State.writeQreg_mem (s : State) (k : Bool) (q off : Nat) (v : Word) : (s.writeQreg k q off v).mem = s.mem := by
  unfold State.writeQreg
  simp only
  split <;> first | rfl | (split <;> rfl)
theorem State.writeFepoch_mem (s : State) (d : Nat) (v : Word) : (s.writeFepoch d v).mem = s.mem := by
  unfold State.writeFepoch
  simp only
  split <;> rfl
theorem State.writeTable_mem (s : State) (d off v : Nat) : (s.writeTable d off v).mem = s.mem := by
  unfold State.writeTable
  simp only
  split_ifs <;> rfl
theorem State.window32Put_mem (s : State) (d off v : Nat) : (s.window32Put d off v).mem = s.mem := by
  unfold State.window32Put
  simp only
  split_ifs <;> first | rfl | exact State.writeFepoch_mem .. | exact State.writeTable_mem ..
theorem State.regPut_mem (s : State) (k : Bool) (pa n v : Nat) : (s.regPut k pa n v).mem = s.mem := by
  unfold State.regPut
  split
  · exact State.writeQreg_mem ..
  · rfl
  · simp only
    split_ifs
    · exact (State.window32Put_mem ..).trans (State.window32Put_mem ..)
    · exact State.window32Put_mem ..
    · rfl
  · rfl
/-- A write to a register region changes no memory. -/
theorem State.regWrite_mem (s : State) (k : Bool) (pa : Nat) (b : List Byte) : (s.regWrite k pa b).mem = s.mem := by
  unfold State.regWrite
  split
  · exact State.regPut_mem ..
  · simp only
    split_ifs
    · exact State.regPut_mem ..
    · exact (State.regPut_mem ..).trans (State.regPut_mem ..)
    · exact (State.regPut_mem ..).trans ((State.regPut_mem ..).trans (State.regPut_mem ..))

/-! ## Stores, atomics, records -/

theorem State.store_memSound (s : State) (w : Who) (pa : Nat) (b : List Byte) (h : s.memSound) : (s.store w pa b).memSound := by
  have hbm : (if servedBy pa = w.die then s.perform w pa b
      else
        let need := s.stampOf [] (Known.ids (s.knownOf w.agent w.rel []))
        let (s, id) := s.begin_ w pa b
        let n := SMap.look 0 s.issued w.die
        { s with
          wb := SMap.put [] s.wb w.die (s.flight w.die ++ [⟨pa, b, n, need, id⟩])
          issued := SMap.put 0 s.issued w.die (n + 1) } : State).memSound := by
    split_ifs
    · exact State.perform_memSound _ _ _ _ h
    · exact State.memSound_of_mem h (State.begin_mem s w pa b)
  unfold State.store
  split
  · exact hbm
  · exact hbm
  · refine State.memSound_of_mem ?_ (State.regWrite_mem ..)
    have hd := State.drain_memSound s (Known.ids (s.knownOf w.agent w.rel [])) h
    split
    · exact (State.publish_only ..).memSound hd
    · exact (State.publishSeen_only ..).memSound hd
    · exact hd

theorem State.storePieces_memSound (s : State) (w : Who) (l : List Piece) (b : List Byte) (h : s.memSound) :
    (s.storePieces w l b).memSound := by
  induction l generalizing s b with
  | nil => exact h
  | cons p t ih =>
    cases p
    · exact ih _ _ (State.store_memSound _ _ _ _ h)
    · exact ih _ _ h

/-- What a write needs before it changes no memory. -/
theorem State.writable_mem (s : State) (w : Who) (a : Acc) (va n : Nat) : (s.writable w a va n).1.mem = s.mem := by
  unfold State.writable
  have h1 := State.pieces_mem s w a va n
  generalize s.pieces w a va n = r at h1 ⊢
  obtain ⟨s1, x⟩ := r
  cases x with
  | error e => exact h1
  | ok p =>
    simp only
    generalize s1.awayFails a p = q
    split_ifs
    · exact h1
    · exact h1
    · cases q <;> exact h1

/-- A store of an agent of a die keeps the canonical form. -/
theorem State.writeRun_memSound (s : State) (w : Who) (a : Acc) (va : Nat) (b : List Byte) (h : s.memSound) :
    (s.writeRun w a va b).1.memSound := by
  unfold State.writeRun
  have h1 := State.writable_mem s w a va b.length
  generalize s.writable w a va b.length = r at h1 ⊢
  obtain ⟨s1, x⟩ := r
  have h2 : s1.memSound := State.memSound_of_mem h h1
  cases x with
  | error e => exact h2
  | ok p => exact State.storePieces_memSound _ _ _ _ h2

theorem State.atomicAt_memSound (s : State) (w : Who) (pa n : Nat) (f : Nat → Option Nat) (h : s.memSound) :
    (s.atomicAt w pa n f).1.memSound := by
  have hbm : (let s := s.recallLine (lineOf pa)
      let v := leNat ((List.range n).map fun i => s.homeByte (pa + i))
      let s := s.noteRead w.agent w.die pa n n []
      ((f v).elim s fun x => s.perform w pa (leBytes n x) : State)).memSound := by
    have h1 := (State.noteRead_only (s.recallLine (lineOf pa)) w.agent w.die pa n n []).memSound
      (State.recallLine_memSound s (lineOf pa) h)
    simp only
    cases f _
    · exact h1
    · exact State.perform_memSound _ _ _ _ h1
  unfold State.atomicAt
  split
  · exact hbm
  · exact hbm
  · simp only
    cases f _
    · exact h
    · exact State.store_memSound _ _ _ _ h

/-- An atomic keeps the canonical form. -/
theorem State.atomic_memSound (s : State) (w : Who) (va n : Nat) (op : RemoteOp) (f : Nat → Option Nat) (h : s.memSound) :
    (s.atomic w va n op f).1.memSound := by
  unfold State.atomic
  have h1 := State.xl_mem s w va .at
  generalize s.xl w va .at = r at h1 ⊢
  obtain ⟨s1, x⟩ := r
  have h2 : s1.memSound := State.memSound_of_mem h h1
  cases x <;> simp only
  · split_ifs
    · exact h2
    · exact h2
    · exact h2
    · exact State.atomicAt_memSound _ _ _ _ _ h2
  · split
    · exact h2
    · exact h2
  · exact h2
  · exact h2
  · exact h2

theorem State.storeAtHome_memSound (s : State) (k : Bool) (pa : Nat) (b : List Byte) (h : s.memSound) :
    (s.storeAtHome k pa b).memSound := by
  unfold State.storeAtHome
  split
  · exact State.perform_memSound _ _ _ _ h
  · exact State.perform_memSound _ _ _ _ h
  · exact State.memSound_of_mem h (State.regWrite_mem ..)

theorem State.ringWrite_memSound (s : State) (ring log : Nat) (rec : BitVec 512) (h : s.memSound) :
    (s.ringWrite ring log rec).memSound := by
  unfold State.ringWrite
  split_ifs
  · exact h
  · simp only
    have h1 := State.storeAtHome_memSound s true ring (leBytes 4 (s.physNat ring 4 + 1)) h
    split
    · exact State.storeAtHome_memSound _ _ _ _ h1
    · exact State.storeAtHome_memSound _ _ _ _ h1

theorem State.memSound_outbox (s : State) (l : List OutMsg) (h : s.memSound) : ({ s with outbox := l } : State).memSound := h
theorem State.memSound_lost (s : State) (l : List Nat) (h : s.memSound) : ({ s with lost := l } : State).memSound := h

/-- The writing of a fault record keeps the canonical form. -/
theorem State.writeRecord_memSound (s : State) (r : RecordOut) (h : s.memSound) : (s.writeRecord r).memSound := by
  unfold State.writeRecord
  generalize s.recordBits r = x
  have h1 : (if r.cls = 2 then
      let s := s.ringWrite 0x9010100000 14 x
      { s with outbox := s.outbox ++ [.logRecord x] }
    else s : State).memSound := by
    split
    · exact State.memSound_outbox _ _ (State.ringWrite_memSound _ _ _ _ h)
    · exact h
  simp only
  split
  · exact State.ringWrite_memSound _ _ _ _ h1
  · exact h1

theorem State.manage_memSound (s : State) (d : Nat) (f : FaultInfo) (h : s.memSound) : (s.manage d f).memSound :=
  State.writeRecord_memSound _ _ h

theorem State.loseLines_memSound (s : State) (d : Nat) (row : BitVec 64) (l : List Nat) (h : s.memSound) :
    (s.loseLines d row l).memSound := by
  unfold State.loseLines
  induction l generalizing s with
  | nil => exact h
  | cons x t ih =>
    refine ih _ ?_
    simp only
    split
    · exact h
    · exact State.manage_memSound _ _ _ (State.memSound_lost _ _ h)

theorem State.strike_memSound (s : State) (u : Upset) (h : s.memSound) : (s.strike u).memSound := by
  unfold State.strike
  split
  · exact State.manage_memSound _ _ _ h
  · exact h
  · split_ifs
    · exact State.loseLines_memSound _ _ _ _ h
    · exact h
  · split
    · exact h
    · simp only
      split_ifs
      · exact State.loseLines_memSound _ _ _ _ h
      · exact h

end Sys2Proof.Machine
end

