-- ==== Sys2Proof/Laws/PerInstr.lean ====
section
/-! SUPPORT. The round trip of every instruction, one lemma a constructor: its opcode is defined, its body names no
reserved specifier, and the fields of its body give it back. -/

namespace Sys2Proof

set_option linter.unusedSimpArgs false
set_option Elab.async false

/-- A well-formed instruction survives its encoding (07, R163 to R176); a row that is no word has no encoding. -/
def Laws.RoundTrip.Statement (i : Instr) : Prop :=
  match i.fields with
  | none => True
  | some (e, op, body) =>
    i.wf = true → opDefined e op.toNat = true ∧ specBad e op.toNat body = false ∧ parse e op.toNat body = some i

theorem Laws.RoundTrip.br (o : BitVec 32) : Laws.RoundTrip.Statement (.br o) := by
  intro hw
  refine ⟨rfl, rfl, ?_⟩
  change (let f := XBF.of _; some (.br f.off) : Option Instr) = some _
  simp_all [VRF.pred, MTF.tileA, MTF.tileB]
theorem Laws.RoundTrip.brc (o : BrcOp) : Laws.RoundTrip.Statement (.brc o) := by
  intro hw
  refine ⟨rfl, rfl, ?_⟩
  change (let f := XBF.of _; (Cond.ofCode f.cond).map fun k => .brc ⟨f.sa, f.sb, k, f.off⟩ : Option Instr) = some _
  simp_all [VRF.pred, MTF.tileA, MTF.tileB]
theorem Laws.RoundTrip.brp (o : BrpOp) : Laws.RoundTrip.Statement (.brp o) := by
  intro hw
  refine ⟨rfl, rfl, ?_⟩
  change (let f := XBF.of _; (PCond.ofCode f.cond).map fun k => .brp ⟨f.p, k, f.sb.getLsbD 0, f.off⟩ : Option Instr) = some _
  cases o with | mk p k w off => cases w <;> simp
theorem Laws.RoundTrip.call (o : BitVec 32) : Laws.RoundTrip.Statement (.call o) := by
  intro hw
  refine ⟨rfl, rfl, ?_⟩
  change (let f := XBF.of _; some (.call f.off) : Option Instr) = some _
  simp_all [VRF.pred, MTF.tileA, MTF.tileB]
theorem Laws.RoundTrip.loop (o : LoopOp) : Laws.RoundTrip.Statement (.loop o) := by
  intro hw
  refine ⟨rfl, rfl, ?_⟩
  change (let f := XBF.of _; some (.loop ⟨f.sa, f.off⟩) : Option Instr) = some _
  simp_all [VRF.pred, MTF.tileA, MTF.tileB]
theorem Laws.RoundTrip.loopm (o : LoopmOp) : Laws.RoundTrip.Statement (.loopm o) := by
  intro hw
  refine ⟨rfl, rfl, ?_⟩
  change (let f := XLF.of _; some (.loopm ⟨f.cnt, f.len, f.ii, f.stg, f.vstep, f.pstep, f.gp⟩) : Option Instr) = some _
  simp_all [VRF.pred, MTF.tileA, MTF.tileB]
theorem Laws.RoundTrip.fork (o : BitVec 32) : Laws.RoundTrip.Statement (.fork o) := by
  intro hw
  refine ⟨rfl, rfl, ?_⟩
  change (let f := XBF.of _; some (.fork f.off) : Option Instr) = some _
  simp_all [VRF.pred, MTF.tileA, MTF.tileB]
theorem Laws.RoundTrip.winset (o : WinsetOp) : Laws.RoundTrip.Statement (.winset o) := by
  intro hw
  refine ⟨rfl, rfl, ?_⟩
  change (let f := XBF.of _; some (.winset ⟨f.sa, f.off⟩) : Option Instr) = some _
  simp_all [VRF.pred, MTF.tileA, MTF.tileB]
theorem Laws.RoundTrip.brx (o : BrxOp) : Laws.RoundTrip.Statement (.brx o) := by
  intro hw
  refine ⟨rfl, rfl, ?_⟩
  change (let f := XBF.of _; some (.brx ⟨f.sa, f.off, f.sb⟩) : Option Instr) = some _
  simp_all [VRF.pred, MTF.tileA, MTF.tileB]
theorem Laws.RoundTrip.add (o : R3) : Laws.RoundTrip.Statement (.add o) := by
  intro hw
  refine ⟨rfl, rfl, ?_⟩
  change (let f := SRF.of _; some (.add ⟨f.d, f.a, f.b⟩) : Option Instr) = some _
  simp_all [VRF.pred, MTF.tileA, MTF.tileB]
theorem Laws.RoundTrip.sub (o : R3) : Laws.RoundTrip.Statement (.sub o) := by
  intro hw
  refine ⟨rfl, rfl, ?_⟩
  change (let f := SRF.of _; some (.sub ⟨f.d, f.a, f.b⟩) : Option Instr) = some _
  simp_all [VRF.pred, MTF.tileA, MTF.tileB]
theorem Laws.RoundTrip.addi (o : RI) : Laws.RoundTrip.Statement (.addi o) := by
  intro hw
  refine ⟨rfl, rfl, ?_⟩
  change (let f := SIF.of _; some (.addi ⟨f.d, f.a, f.imm⟩) : Option Instr) = some _
  simp_all [VRF.pred, MTF.tileA, MTF.tileB]
theorem Laws.RoundTrip.mul (o : R3) : Laws.RoundTrip.Statement (.mul o) := by
  intro hw
  refine ⟨rfl, rfl, ?_⟩
  change (let f := SRF.of _; some (.mul ⟨f.d, f.a, f.b⟩) : Option Instr) = some _
  simp_all [VRF.pred, MTF.tileA, MTF.tileB]
theorem Laws.RoundTrip.mulh (o : R3) : Laws.RoundTrip.Statement (.mulh o) := by
  intro hw
  refine ⟨rfl, rfl, ?_⟩
  change (let f := SRF.of _; some (.mulh ⟨f.d, f.a, f.b⟩) : Option Instr) = some _
  simp_all [VRF.pred, MTF.tileA, MTF.tileB]
theorem Laws.RoundTrip.mulhn (o : R3) : Laws.RoundTrip.Statement (.mulhn o) := by
  intro hw
  refine ⟨rfl, rfl, ?_⟩
  change (let f := SRF.of _; some (.mulhn ⟨f.d, f.a, f.b⟩) : Option Instr) = some _
  simp_all [VRF.pred, MTF.tileA, MTF.tileB]
theorem Laws.RoundTrip.div (o : R3) : Laws.RoundTrip.Statement (.div o) := by
  intro hw
  refine ⟨rfl, rfl, ?_⟩
  change (let f := SRF.of _; some (.div ⟨f.d, f.a, f.b⟩) : Option Instr) = some _
  simp_all [VRF.pred, MTF.tileA, MTF.tileB]
theorem Laws.RoundTrip.divn (o : R3) : Laws.RoundTrip.Statement (.divn o) := by
  intro hw
  refine ⟨rfl, rfl, ?_⟩
  change (let f := SRF.of _; some (.divn ⟨f.d, f.a, f.b⟩) : Option Instr) = some _
  simp_all [VRF.pred, MTF.tileA, MTF.tileB]
theorem Laws.RoundTrip.rem (o : R3) : Laws.RoundTrip.Statement (.rem o) := by
  intro hw
  refine ⟨rfl, rfl, ?_⟩
  change (let f := SRF.of _; some (.rem ⟨f.d, f.a, f.b⟩) : Option Instr) = some _
  simp_all [VRF.pred, MTF.tileA, MTF.tileB]
theorem Laws.RoundTrip.remn (o : R3) : Laws.RoundTrip.Statement (.remn o) := by
  intro hw
  refine ⟨rfl, rfl, ?_⟩
  change (let f := SRF.of _; some (.remn ⟨f.d, f.a, f.b⟩) : Option Instr) = some _
  simp_all [VRF.pred, MTF.tileA, MTF.tileB]
theorem Laws.RoundTrip.and (o : R3) : Laws.RoundTrip.Statement (.and o) := by
  intro hw
  refine ⟨rfl, rfl, ?_⟩
  change (let f := SRF.of _; some (.and ⟨f.d, f.a, f.b⟩) : Option Instr) = some _
  simp_all [VRF.pred, MTF.tileA, MTF.tileB]
theorem Laws.RoundTrip.or (o : R3) : Laws.RoundTrip.Statement (.or o) := by
  intro hw
  refine ⟨rfl, rfl, ?_⟩
  change (let f := SRF.of _; some (.or ⟨f.d, f.a, f.b⟩) : Option Instr) = some _
  simp_all [VRF.pred, MTF.tileA, MTF.tileB]
theorem Laws.RoundTrip.xor (o : R3) : Laws.RoundTrip.Statement (.xor o) := by
  intro hw
  refine ⟨rfl, rfl, ?_⟩
  change (let f := SRF.of _; some (.xor ⟨f.d, f.a, f.b⟩) : Option Instr) = some _
  simp_all [VRF.pred, MTF.tileA, MTF.tileB]
theorem Laws.RoundTrip.andn (o : R3) : Laws.RoundTrip.Statement (.andn o) := by
  intro hw
  refine ⟨rfl, rfl, ?_⟩
  change (let f := SRF.of _; some (.andn ⟨f.d, f.a, f.b⟩) : Option Instr) = some _
  simp_all [VRF.pred, MTF.tileA, MTF.tileB]
theorem Laws.RoundTrip.shl (o : R3) : Laws.RoundTrip.Statement (.shl o) := by
  intro hw
  refine ⟨rfl, rfl, ?_⟩
  change (let f := SRF.of _; some (.shl ⟨f.d, f.a, f.b⟩) : Option Instr) = some _
  simp_all [VRF.pred, MTF.tileA, MTF.tileB]
theorem Laws.RoundTrip.shr (o : R3) : Laws.RoundTrip.Statement (.shr o) := by
  intro hw
  refine ⟨rfl, rfl, ?_⟩
  change (let f := SRF.of _; some (.shr ⟨f.d, f.a, f.b⟩) : Option Instr) = some _
  simp_all [VRF.pred, MTF.tileA, MTF.tileB]
theorem Laws.RoundTrip.sra (o : R3) : Laws.RoundTrip.Statement (.sra o) := by
  intro hw
  refine ⟨rfl, rfl, ?_⟩
  change (let f := SRF.of _; some (.sra ⟨f.d, f.a, f.b⟩) : Option Instr) = some _
  simp_all [VRF.pred, MTF.tileA, MTF.tileB]
theorem Laws.RoundTrip.rotr (o : R3) : Laws.RoundTrip.Statement (.rotr o) := by
  intro hw
  refine ⟨rfl, rfl, ?_⟩
  change (let f := SRF.of _; some (.rotr ⟨f.d, f.a, f.b⟩) : Option Instr) = some _
  simp_all [VRF.pred, MTF.tileA, MTF.tileB]
theorem Laws.RoundTrip.cmp (o : CmpOp) : Laws.RoundTrip.Statement (.cmp o) := by
  intro hw
  refine ⟨rfl, rfl, ?_⟩
  change (let f := SRF.of _; (Cond.ofCode (f.fn.extractLsb' 0 4)).map fun k => .cmp ⟨f.d, f.a, f.b, k⟩ : Option Instr) = some _
  simp_all [VRF.pred, MTF.tileA, MTF.tileB]
theorem Laws.RoundTrip.min (o : R3) : Laws.RoundTrip.Statement (.min o) := by
  intro hw
  refine ⟨rfl, rfl, ?_⟩
  change (let f := SRF.of _; some (.min ⟨f.d, f.a, f.b⟩) : Option Instr) = some _
  simp_all [VRF.pred, MTF.tileA, MTF.tileB]
theorem Laws.RoundTrip.max (o : R3) : Laws.RoundTrip.Statement (.max o) := by
  intro hw
  refine ⟨rfl, rfl, ?_⟩
  change (let f := SRF.of _; some (.max ⟨f.d, f.a, f.b⟩) : Option Instr) = some _
  simp_all [VRF.pred, MTF.tileA, MTF.tileB]
theorem Laws.RoundTrip.minn (o : R3) : Laws.RoundTrip.Statement (.minn o) := by
  intro hw
  refine ⟨rfl, rfl, ?_⟩
  change (let f := SRF.of _; some (.minn ⟨f.d, f.a, f.b⟩) : Option Instr) = some _
  simp_all [VRF.pred, MTF.tileA, MTF.tileB]
theorem Laws.RoundTrip.maxn (o : R3) : Laws.RoundTrip.Statement (.maxn o) := by
  intro hw
  refine ⟨rfl, rfl, ?_⟩
  change (let f := SRF.of _; some (.maxn ⟨f.d, f.a, f.b⟩) : Option Instr) = some _
  simp_all [VRF.pred, MTF.tileA, MTF.tileB]
theorem Laws.RoundTrip.sel (o : R4) : Laws.RoundTrip.Statement (.sel o) := by
  intro hw
  refine ⟨rfl, rfl, ?_⟩
  change (let f := SRF.of _; some (.sel ⟨f.d, f.a, f.b, f.c⟩) : Option Instr) = some _
  simp_all [VRF.pred, MTF.tileA, MTF.tileB]
theorem Laws.RoundTrip.clz (o : R2) : Laws.RoundTrip.Statement (.clz o) := by
  intro hw
  refine ⟨rfl, rfl, ?_⟩
  change (let f := SRF.of _; some (.clz ⟨f.d, f.a⟩) : Option Instr) = some _
  simp_all [VRF.pred, MTF.tileA, MTF.tileB]
theorem Laws.RoundTrip.ctz (o : R2) : Laws.RoundTrip.Statement (.ctz o) := by
  intro hw
  refine ⟨rfl, rfl, ?_⟩
  change (let f := SRF.of _; some (.ctz ⟨f.d, f.a⟩) : Option Instr) = some _
  simp_all [VRF.pred, MTF.tileA, MTF.tileB]
theorem Laws.RoundTrip.popc (o : R2) : Laws.RoundTrip.Statement (.popc o) := by
  intro hw
  refine ⟨rfl, rfl, ?_⟩
  change (let f := SRF.of _; some (.popc ⟨f.d, f.a⟩) : Option Instr) = some _
  simp_all [VRF.pred, MTF.tileA, MTF.tileB]
theorem Laws.RoundTrip.brev (o : R2) : Laws.RoundTrip.Statement (.brev o) := by
  intro hw
  refine ⟨rfl, rfl, ?_⟩
  change (let f := SRF.of _; some (.brev ⟨f.d, f.a⟩) : Option Instr) = some _
  simp_all [VRF.pred, MTF.tileA, MTF.tileB]
theorem Laws.RoundTrip.bswap (o : R2) : Laws.RoundTrip.Statement (.bswap o) := by
  intro hw
  refine ⟨rfl, rfl, ?_⟩
  change (let f := SRF.of _; some (.bswap ⟨f.d, f.a⟩) : Option Instr) = some _
  simp_all [VRF.pred, MTF.tileA, MTF.tileB]
theorem Laws.RoundTrip.extr (o : R4) : Laws.RoundTrip.Statement (.extr o) := by
  intro hw
  refine ⟨rfl, rfl, ?_⟩
  change (let f := SRF.of _; some (.extr ⟨f.d, f.a, f.b, f.c⟩) : Option Instr) = some _
  simp_all [VRF.pred, MTF.tileA, MTF.tileB]
theorem Laws.RoundTrip.insr (o : R4) : Laws.RoundTrip.Statement (.insr o) := by
  intro hw
  refine ⟨rfl, rfl, ?_⟩
  change (let f := SRF.of _; some (.insr ⟨f.d, f.a, f.b, f.c⟩) : Option Instr) = some _
  simp_all [VRF.pred, MTF.tileA, MTF.tileB]
theorem Laws.RoundTrip.movi (o : DI) : Laws.RoundTrip.Statement (.movi o) := by
  intro hw
  refine ⟨rfl, rfl, ?_⟩
  change (let f := SIF.of _; some (.movi ⟨f.d, f.imm⟩) : Option Instr) = some _
  simp_all [VRF.pred, MTF.tileA, MTF.tileB]
theorem Laws.RoundTrip.mov (o : R2) : Laws.RoundTrip.Statement (.mov o) := by
  intro hw
  refine ⟨rfl, rfl, ?_⟩
  change (let f := SRF.of _; some (.mov ⟨f.d, f.a⟩) : Option Instr) = some _
  simp_all [VRF.pred, MTF.tileA, MTF.tileB]
theorem Laws.RoundTrip.sext (o : ExtOp) : Laws.RoundTrip.Statement (.sext o) := by
  intro hw
  refine ⟨rfl, rfl, ?_⟩
  change (let f := SRF.of _; (MSize.ofCode (f.fn.extractLsb' 5 3)).map fun z => .sext ⟨f.d, f.a, z⟩ : Option Instr) = some _
  simp_all [VRF.pred, MTF.tileA, MTF.tileB]
theorem Laws.RoundTrip.zext (o : ExtOp) : Laws.RoundTrip.Statement (.zext o) := by
  intro hw
  refine ⟨rfl, rfl, ?_⟩
  change (let f := SRF.of _; (MSize.ofCode (f.fn.extractLsb' 5 3)).map fun z => .zext ⟨f.d, f.a, z⟩ : Option Instr) = some _
  simp_all [VRF.pred, MTF.tileA, MTF.tileB]
theorem Laws.RoundTrip.getl (o : SReg) : Laws.RoundTrip.Statement (.getl o) := by
  intro hw
  refine ⟨rfl, rfl, ?_⟩
  change (let f := SRF.of _; some (.getl f.d) : Option Instr) = some _
  simp_all [VRF.pred, MTF.tileA, MTF.tileB]
theorem Laws.RoundTrip.ld (o : MemOp) : Laws.RoundTrip.Statement (.ld o) := by
  intro hw
  refine ⟨rfl, rfl, ?_⟩
  change (let f := SIF.of _; (memFnOf f.fn).map fun m => .ld ⟨f.d, f.a, f.imm, m.1, m.2.1, m.2.2⟩ : Option Instr) = some _
  simp_all [VRF.pred, MTF.tileA, MTF.tileB]
theorem Laws.RoundTrip.st (o : MemOp) : Laws.RoundTrip.Statement (.st o) := by
  intro hw
  refine ⟨rfl, rfl, ?_⟩
  change (let f := SIF.of _; (memFnOf f.fn).map fun m => .st ⟨f.d, f.a, f.imm, m.1, m.2.1, m.2.2⟩ : Option Instr) = some _
  simp_all [VRF.pred, MTF.tileA, MTF.tileB]
theorem Laws.RoundTrip.lda (o : MemFix) : Laws.RoundTrip.Statement (.lda o) := by
  intro hw
  refine ⟨rfl, rfl, ?_⟩
  change (let f := SIF.of _; (memFnOf f.fn).map fun m => .lda ⟨f.d, f.a, f.imm, m.1, m.2.2⟩ : Option Instr) = some _
  simp_all [VRF.pred, MTF.tileA, MTF.tileB]
theorem Laws.RoundTrip.stl (o : MemFix) : Laws.RoundTrip.Statement (.stl o) := by
  intro hw
  refine ⟨rfl, rfl, ?_⟩
  change (let f := SIF.of _; (memFnOf f.fn).map fun m => .stl ⟨f.d, f.a, f.imm, m.1, m.2.2⟩ : Option Instr) = some _
  simp_all [VRF.pred, MTF.tileA, MTF.tileB]
theorem Laws.RoundTrip.ldnt (o : MemFix) : Laws.RoundTrip.Statement (.ldnt o) := by
  intro hw
  refine ⟨rfl, rfl, ?_⟩
  change (let f := SIF.of _; (memFnOf f.fn).map fun m => .ldnt ⟨f.d, f.a, f.imm, m.1, m.2.2⟩ : Option Instr) = some _
  simp_all [VRF.pred, MTF.tileA, MTF.tileB]
theorem Laws.RoundTrip.prefl (o : AddrOp) : Laws.RoundTrip.Statement (.prefl o) := by
  intro hw
  refine ⟨rfl, rfl, ?_⟩
  change (let f := SIF.of _; some (.prefl ⟨f.a, f.imm⟩) : Option Instr) = some _
  simp_all [VRF.pred, MTF.tileA, MTF.tileB]
theorem Laws.RoundTrip.amoadd (o : AmoS) : Laws.RoundTrip.Statement (.amoadd o) := by
  intro hw
  refine ⟨rfl, rfl, ?_⟩
  change (let f := SRF.of _; (memFnOf f.fn).map fun m => .amoadd ⟨f.d, f.a, f.b, m.1, m.2.1, m.2.2⟩ : Option Instr) = some _
  simp_all [VRF.pred, MTF.tileA, MTF.tileB]
theorem Laws.RoundTrip.amoand (o : AmoS) : Laws.RoundTrip.Statement (.amoand o) := by
  intro hw
  refine ⟨rfl, rfl, ?_⟩
  change (let f := SRF.of _; (memFnOf f.fn).map fun m => .amoand ⟨f.d, f.a, f.b, m.1, m.2.1, m.2.2⟩ : Option Instr) = some _
  simp_all [VRF.pred, MTF.tileA, MTF.tileB]
theorem Laws.RoundTrip.amoor (o : AmoS) : Laws.RoundTrip.Statement (.amoor o) := by
  intro hw
  refine ⟨rfl, rfl, ?_⟩
  change (let f := SRF.of _; (memFnOf f.fn).map fun m => .amoor ⟨f.d, f.a, f.b, m.1, m.2.1, m.2.2⟩ : Option Instr) = some _
  simp_all [VRF.pred, MTF.tileA, MTF.tileB]
theorem Laws.RoundTrip.amoxor (o : AmoS) : Laws.RoundTrip.Statement (.amoxor o) := by
  intro hw
  refine ⟨rfl, rfl, ?_⟩
  change (let f := SRF.of _; (memFnOf f.fn).map fun m => .amoxor ⟨f.d, f.a, f.b, m.1, m.2.1, m.2.2⟩ : Option Instr) = some _
  simp_all [VRF.pred, MTF.tileA, MTF.tileB]
theorem Laws.RoundTrip.amomin (o : AmoS) : Laws.RoundTrip.Statement (.amomin o) := by
  intro hw
  refine ⟨rfl, rfl, ?_⟩
  change (let f := SRF.of _; (memFnOf f.fn).map fun m => .amomin ⟨f.d, f.a, f.b, m.1, m.2.1, m.2.2⟩ : Option Instr) = some _
  simp_all [VRF.pred, MTF.tileA, MTF.tileB]
theorem Laws.RoundTrip.amomax (o : AmoS) : Laws.RoundTrip.Statement (.amomax o) := by
  intro hw
  refine ⟨rfl, rfl, ?_⟩
  change (let f := SRF.of _; (memFnOf f.fn).map fun m => .amomax ⟨f.d, f.a, f.b, m.1, m.2.1, m.2.2⟩ : Option Instr) = some _
  simp_all [VRF.pred, MTF.tileA, MTF.tileB]
theorem Laws.RoundTrip.amominn (o : AmoS) : Laws.RoundTrip.Statement (.amominn o) := by
  intro hw
  refine ⟨rfl, rfl, ?_⟩
  change (let f := SRF.of _; (memFnOf f.fn).map fun m => .amominn ⟨f.d, f.a, f.b, m.1, m.2.1, m.2.2⟩ : Option Instr) = some _
  simp_all [VRF.pred, MTF.tileA, MTF.tileB]
theorem Laws.RoundTrip.amomaxn (o : AmoS) : Laws.RoundTrip.Statement (.amomaxn o) := by
  intro hw
  refine ⟨rfl, rfl, ?_⟩
  change (let f := SRF.of _; (memFnOf f.fn).map fun m => .amomaxn ⟨f.d, f.a, f.b, m.1, m.2.1, m.2.2⟩ : Option Instr) = some _
  simp_all [VRF.pred, MTF.tileA, MTF.tileB]
theorem Laws.RoundTrip.amoswp (o : AmoS) : Laws.RoundTrip.Statement (.amoswp o) := by
  intro hw
  refine ⟨rfl, rfl, ?_⟩
  change (let f := SRF.of _; (memFnOf f.fn).map fun m => .amoswp ⟨f.d, f.a, f.b, m.1, m.2.1, m.2.2⟩ : Option Instr) = some _
  simp_all [VRF.pred, MTF.tileA, MTF.tileB]
theorem Laws.RoundTrip.cas (o : CasS) : Laws.RoundTrip.Statement (.cas o) := by
  intro hw
  refine ⟨rfl, rfl, ?_⟩
  change (let f := SRF.of _; (memFnOf f.fn).map fun m => .cas ⟨f.d, f.a, f.b, f.c, m.1, m.2.1, m.2.2⟩ : Option Instr) = some _
  simp_all [VRF.pred, MTF.tileA, MTF.tileB]
theorem Laws.RoundTrip.cas2 (o : Cas2S) : Laws.RoundTrip.Statement (.cas2 o) := by
  intro hw
  refine ⟨rfl, rfl, ?_⟩
  change (let f := SRF.of _; (memFnOf f.fn).map fun m => .cas2 ⟨f.d, f.a, f.b, f.c, m.2.1, m.2.2⟩ : Option Instr) = some _
  simp_all [VRF.pred, MTF.tileA, MTF.tileB]
theorem Laws.RoundTrip.amofadd (o : AmoS) : Laws.RoundTrip.Statement (.amofadd o) := by
  intro hw
  refine ⟨rfl, rfl, ?_⟩
  change (let f := SRF.of _; (memFnOf f.fn).map fun m => .amofadd ⟨f.d, f.a, f.b, m.1, m.2.1, m.2.2⟩ : Option Instr) = some _
  simp_all [VRF.pred, MTF.tileA, MTF.tileB]
theorem Laws.RoundTrip.fenceAcq (o : Scope) : Laws.RoundTrip.Statement (.fenceAcq o) := by
  intro hw
  refine ⟨rfl, rfl, ?_⟩
  change (let f := SRF.of _
    if f.fn.extractLsb' 3 2 == 0 then (memFnOf f.fn).map fun m => .fenceMca (m.2.2)
    else if f.fn.extractLsb' 3 2 == 1 then (memFnOf f.fn).map fun m => .fenceAcq (m.2.2)
    else if f.fn.extractLsb' 3 2 == 2 then (memFnOf f.fn).map fun m => .fenceRel (m.2.2)
    else if f.fn.extractLsb' 3 2 == 3 then (memFnOf f.fn).map fun m => .fenceFull (m.2.2)
    else none : Option Instr) = some _
  simp [memFnOf_memFn, Ord.code]
theorem Laws.RoundTrip.fenceRel (o : Scope) : Laws.RoundTrip.Statement (.fenceRel o) := by
  intro hw
  refine ⟨rfl, rfl, ?_⟩
  change (let f := SRF.of _
    if f.fn.extractLsb' 3 2 == 0 then (memFnOf f.fn).map fun m => .fenceMca (m.2.2)
    else if f.fn.extractLsb' 3 2 == 1 then (memFnOf f.fn).map fun m => .fenceAcq (m.2.2)
    else if f.fn.extractLsb' 3 2 == 2 then (memFnOf f.fn).map fun m => .fenceRel (m.2.2)
    else if f.fn.extractLsb' 3 2 == 3 then (memFnOf f.fn).map fun m => .fenceFull (m.2.2)
    else none : Option Instr) = some _
  simp [memFnOf_memFn, Ord.code]
theorem Laws.RoundTrip.fenceFull (o : Scope) : Laws.RoundTrip.Statement (.fenceFull o) := by
  intro hw
  refine ⟨rfl, rfl, ?_⟩
  change (let f := SRF.of _
    if f.fn.extractLsb' 3 2 == 0 then (memFnOf f.fn).map fun m => .fenceMca (m.2.2)
    else if f.fn.extractLsb' 3 2 == 1 then (memFnOf f.fn).map fun m => .fenceAcq (m.2.2)
    else if f.fn.extractLsb' 3 2 == 2 then (memFnOf f.fn).map fun m => .fenceRel (m.2.2)
    else if f.fn.extractLsb' 3 2 == 3 then (memFnOf f.fn).map fun m => .fenceFull (m.2.2)
    else none : Option Instr) = some _
  simp [memFnOf_memFn, Ord.code]
theorem Laws.RoundTrip.fenceMca (o : Scope) : Laws.RoundTrip.Statement (.fenceMca o) := by
  intro hw
  refine ⟨rfl, rfl, ?_⟩
  change (let f := SRF.of _
    if f.fn.extractLsb' 3 2 == 0 then (memFnOf f.fn).map fun m => .fenceMca (m.2.2)
    else if f.fn.extractLsb' 3 2 == 1 then (memFnOf f.fn).map fun m => .fenceAcq (m.2.2)
    else if f.fn.extractLsb' 3 2 == 2 then (memFnOf f.fn).map fun m => .fenceRel (m.2.2)
    else if f.fn.extractLsb' 3 2 == 3 then (memFnOf f.fn).map fun m => .fenceFull (m.2.2)
    else none : Option Instr) = some _
  simp [memFnOf_memFn, Ord.code]
theorem Laws.RoundTrip.dcwb (o : RangeOp) : Laws.RoundTrip.Statement (.dcwb o) := by
  intro hw
  refine ⟨rfl, rfl, ?_⟩
  change (let f := SRF.of _; some (.dcwb ⟨f.a, f.b⟩) : Option Instr) = some _
  simp_all [VRF.pred, MTF.tileA, MTF.tileB]
theorem Laws.RoundTrip.dcinv (o : RangeOp) : Laws.RoundTrip.Statement (.dcinv o) := by
  intro hw
  refine ⟨rfl, rfl, ?_⟩
  change (let f := SRF.of _; some (.dcinv ⟨f.a, f.b⟩) : Option Instr) = some _
  simp_all [VRF.pred, MTF.tileA, MTF.tileB]
theorem Laws.RoundTrip.iinv (o : IinvOp) : Laws.RoundTrip.Statement (.iinv o) := by
  intro hw
  refine ⟨rfl, rfl, ?_⟩
  change (let f := SRF.of _; some (.iinv ⟨f.a, f.b, f.fn.getLsbD 0⟩) : Option Instr) = some _
  cases o with | mk a b w => cases w <;> simp
theorem Laws.RoundTrip.semsig (o : SemAmt) : Laws.RoundTrip.Statement (.semsig o) := by
  intro hw
  refine ⟨rfl, rfl, ?_⟩
  change (let f := SIF.of _; some (.semsig ⟨f.imm.extractLsb' 0 8, f.a, f.imm.extractLsb' 8 16⟩) : Option Instr) = some _
  simp_all [VRF.pred, MTF.tileA, MTF.tileB]
theorem Laws.RoundTrip.semwait (o : SemThr) : Laws.RoundTrip.Statement (.semwait o) := by
  intro hw
  refine ⟨rfl, rfl, ?_⟩
  change (let f := SIF.of _; some (.semwait ⟨f.imm.extractLsb' 0 8, f.a, f.imm.extractLsb' 8 8⟩) : Option Instr) = some _
  simp_all [VRF.pred, MTF.tileA, MTF.tileB]
theorem Laws.RoundTrip.semget (o : SemGetOp) : Laws.RoundTrip.Statement (.semget o) := by
  intro hw
  refine ⟨rfl, rfl, ?_⟩
  change (let f := SIF.of _; some (.semget ⟨f.d, f.imm.extractLsb' 0 8⟩) : Option Instr) = some _
  simp_all [VRF.pred, MTF.tileA, MTF.tileB]
theorem Laws.RoundTrip.semset (o : SemAmt) : Laws.RoundTrip.Statement (.semset o) := by
  intro hw
  refine ⟨rfl, rfl, ?_⟩
  change (let f := SIF.of _; some (.semset ⟨f.imm.extractLsb' 0 8, f.a, f.imm.extractLsb' 8 16⟩) : Option Instr) = some _
  simp_all [VRF.pred, MTF.tileA, MTF.tileB]
theorem Laws.RoundTrip.evset (o : EvOp) : Laws.RoundTrip.Statement (.evset o) := by
  intro hw
  refine ⟨rfl, rfl, ?_⟩
  change (let f := SIF.of _; some (.evset ⟨f.a, f.imm.extractLsb' 0 8⟩) : Option Instr) = some _
  simp_all [VRF.pred, MTF.tileA, MTF.tileB]
theorem Laws.RoundTrip.evclr (o : EvOp) : Laws.RoundTrip.Statement (.evclr o) := by
  intro hw
  refine ⟨rfl, rfl, ?_⟩
  change (let f := SIF.of _; some (.evclr ⟨f.a, f.imm.extractLsb' 0 8⟩) : Option Instr) = some _
  simp_all [VRF.pred, MTF.tileA, MTF.tileB]
theorem Laws.RoundTrip.evwait (o : EvOp) : Laws.RoundTrip.Statement (.evwait o) := by
  intro hw
  refine ⟨rfl, rfl, ?_⟩
  change (let f := SIF.of _; some (.evwait ⟨f.a, f.imm.extractLsb' 0 8⟩) : Option Instr) = some _
  simp_all [VRF.pred, MTF.tileA, MTF.tileB]
theorem Laws.RoundTrip.launch (o : RI) : Laws.RoundTrip.Statement (.launch o) := by
  intro hw
  refine ⟨rfl, rfl, ?_⟩
  change (let f := SIF.of _; some (.launch ⟨f.d, f.a, f.imm⟩) : Option Instr) = some _
  simp_all [VRF.pred, MTF.tileA, MTF.tileB]
theorem Laws.RoundTrip.lstat (o : R2) : Laws.RoundTrip.Statement (.lstat o) := by
  intro hw
  refine ⟨rfl, rfl, ?_⟩
  change (let f := SIF.of _; some (.lstat ⟨f.d, f.a⟩) : Option Instr) = some _
  simp_all [VRF.pred, MTF.tileA, MTF.tileB]
theorem Laws.RoundTrip.kset (o : KsetOp) : Laws.RoundTrip.Statement (.kset o) := by
  intro hw
  refine ⟨rfl, rfl, ?_⟩
  change (let f := SRF.of _; some (.kset ⟨f.d.setWidth 5, f.a, f.b⟩) : Option Instr) = some _
  simp_all [VRF.pred, MTF.tileA, MTF.tileB]
theorem Laws.RoundTrip.kadd (o : KaddOp) : Laws.RoundTrip.Statement (.kadd o) := by
  intro hw
  refine ⟨rfl, rfl, ?_⟩
  change (let f := SRF.of _; some (.kadd ⟨f.d.setWidth 5, f.a.setWidth 5, f.b, f.c⟩) : Option Instr) = some _
  simp_all [VRF.pred, MTF.tileA, MTF.tileB]
theorem Laws.RoundTrip.kgetLo (o : KgetOp) : Laws.RoundTrip.Statement (.kgetLo o) := by
  intro hw
  refine ⟨rfl, rfl, ?_⟩
  change (let f := SRF.of _
    if f.fn == 0 then some (.kgetLo ⟨f.d, f.a.setWidth 5⟩)
    else if f.fn == 1 then some (.kgetHi ⟨f.d, f.a.setWidth 5⟩)
    else none : Option Instr) = some _
  simp_all [VRF.pred, MTF.tileA, MTF.tileB]
theorem Laws.RoundTrip.kgetHi (o : KgetOp) : Laws.RoundTrip.Statement (.kgetHi o) := by
  intro hw
  refine ⟨rfl, rfl, ?_⟩
  change (let f := SRF.of _
    if f.fn == 0 then some (.kgetLo ⟨f.d, f.a.setWidth 5⟩)
    else if f.fn == 1 then some (.kgetHi ⟨f.d, f.a.setWidth 5⟩)
    else none : Option Instr) = some _
  simp_all [VRF.pred, MTF.tileA, MTF.tileB]
theorem Laws.RoundTrip.csrr (o : CsrrOp) : Laws.RoundTrip.Statement (.csrr o) := by
  intro hw
  refine ⟨rfl, rfl, ?_⟩
  change (let f := SIF.of _; (Csr.ofCode (f.imm.extractLsb' 0 12)).map fun k => .csrr ⟨f.d, k⟩ : Option Instr) = some _
  simp_all [VRF.pred, MTF.tileA, MTF.tileB]
theorem Laws.RoundTrip.csrw (o : CsrwOp) : Laws.RoundTrip.Statement (.csrw o) := by
  intro hw
  refine ⟨rfl, rfl, ?_⟩
  change (let f := SIF.of _; (Csr.ofCode (f.imm.extractLsb' 0 12)).map fun k => .csrw ⟨f.a, k⟩ : Option Instr) = some _
  simp_all [VRF.pred, MTF.tileA, MTF.tileB]
theorem Laws.RoundTrip.chron (o : SReg) : Laws.RoundTrip.Statement (.chron o) := by
  intro hw
  refine ⟨rfl, rfl, ?_⟩
  change (let f := SIF.of _; some (.chron f.d) : Option Instr) = some _
  simp_all [VRF.pred, MTF.tileA, MTF.tileB]
theorem Laws.RoundTrip.trap (o : BitVec 16) : Laws.RoundTrip.Statement (.trap o) := by
  intro hw
  refine ⟨rfl, rfl, ?_⟩
  change (let f := SIF.of _; some (.trap (f.imm.extractLsb' 0 16)) : Option Instr) = some _
  simp_all [VRF.pred, MTF.tileA, MTF.tileB]
theorem Laws.RoundTrip.brk (o : BitVec 16) : Laws.RoundTrip.Statement (.brk o) := by
  intro hw
  refine ⟨rfl, rfl, ?_⟩
  change (let f := SIF.of _; some (.brk (f.imm.extractLsb' 0 16)) : Option Instr) = some _
  simp_all [VRF.pred, MTF.tileA, MTF.tileB]
theorem Laws.RoundTrip.csrrp (o : R2) : Laws.RoundTrip.Statement (.csrrp o) := by
  intro hw
  refine ⟨rfl, rfl, ?_⟩
  change (let f := SRF.of _; some (.csrrp ⟨f.d, f.a⟩) : Option Instr) = some _
  simp_all [VRF.pred, MTF.tileA, MTF.tileB]
theorem Laws.RoundTrip.csrwp (o : R3) : Laws.RoundTrip.Statement (.csrwp o) := by
  intro hw
  refine ⟨rfl, rfl, ?_⟩
  change (let f := SRF.of _; some (.csrwp ⟨f.d, f.a, f.b⟩) : Option Instr) = some _
  simp_all [VRF.pred, MTF.tileA, MTF.tileB]
theorem Laws.RoundTrip.resume (o : R2) : Laws.RoundTrip.Statement (.resume o) := by
  intro hw
  refine ⟨rfl, rfl, ?_⟩
  change (let f := SRF.of _; some (.resume ⟨f.d, f.a⟩) : Option Instr) = some _
  simp_all [VRF.pred, MTF.tileA, MTF.tileB]
theorem Laws.RoundTrip.harvest (o : R4) : Laws.RoundTrip.Statement (.harvest o) := by
  intro hw
  refine ⟨rfl, rfl, ?_⟩
  change (let f := SRF.of _; some (.harvest ⟨f.d, f.a, f.b, f.c⟩) : Option Instr) = some _
  simp_all [VRF.pred, MTF.tileA, MTF.tileB]
theorem Laws.RoundTrip.tlbinvRange (o : Abc) : Laws.RoundTrip.Statement (.tlbinvRange o) := by
  intro hw
  refine ⟨rfl, rfl, ?_⟩
  change (let f := SRF.of _
    if f.fn == 0 then some (.tlbinvRange ⟨f.a, f.b, f.c⟩)
    else if f.fn == 1 then some (.tlbinvAsid f.a)
    else if f.fn == 2 then some .tlbinvAll
    else none : Option Instr) = some _
  simp_all [VRF.pred, MTF.tileA, MTF.tileB]
theorem Laws.RoundTrip.tlbinvAsid (o : SReg) : Laws.RoundTrip.Statement (.tlbinvAsid o) := by
  intro hw
  refine ⟨rfl, rfl, ?_⟩
  change (let f := SRF.of _
    if f.fn == 0 then some (.tlbinvRange ⟨f.a, f.b, f.c⟩)
    else if f.fn == 1 then some (.tlbinvAsid f.a)
    else if f.fn == 2 then some .tlbinvAll
    else none : Option Instr) = some _
  simp_all [VRF.pred, MTF.tileA, MTF.tileB]
theorem Laws.RoundTrip.killtask (o : R2) : Laws.RoundTrip.Statement (.killtask o) := by
  intro hw
  refine ⟨rfl, rfl, ?_⟩
  change (let f := SRF.of _; some (.killtask ⟨f.d, f.a⟩) : Option Instr) = some _
  simp_all [VRF.pred, MTF.tileA, MTF.tileB]
theorem Laws.RoundTrip.vfadd (o : VF2) : Laws.RoundTrip.Statement (.vfadd o) := by
  intro hw
  simp [Instr.wf] at hw
  refine ⟨rfl, by simp_all [specBad, vSpecBad, VRF.pred, MTF.tileA, MTF.tileB, badReg], ?_⟩
  change (let f := VRF.of _; do pure (.vfadd ⟨← VDst.of f.d, ← VSrc.of f.a, ← VSrc.of f.b, f.pred, ← ETy.ofCode f.ty, ← Rnd.ofCode f.rnd, f.sat == 1⟩) : Option Instr) = some _
  simp_all [VRF.pred, MTF.tileA, MTF.tileB]
theorem Laws.RoundTrip.vfsub (o : VF2) : Laws.RoundTrip.Statement (.vfsub o) := by
  intro hw
  simp [Instr.wf] at hw
  refine ⟨rfl, by simp_all [specBad, vSpecBad, VRF.pred, MTF.tileA, MTF.tileB, badReg], ?_⟩
  change (let f := VRF.of _; do pure (.vfsub ⟨← VDst.of f.d, ← VSrc.of f.a, ← VSrc.of f.b, f.pred, ← ETy.ofCode f.ty, ← Rnd.ofCode f.rnd, f.sat == 1⟩) : Option Instr) = some _
  simp_all [VRF.pred, MTF.tileA, MTF.tileB]
theorem Laws.RoundTrip.vfmul (o : VF2) : Laws.RoundTrip.Statement (.vfmul o) := by
  intro hw
  simp [Instr.wf] at hw
  refine ⟨rfl, by simp_all [specBad, vSpecBad, VRF.pred, MTF.tileA, MTF.tileB, badReg], ?_⟩
  change (let f := VRF.of _; do pure (.vfmul ⟨← VDst.of f.d, ← VSrc.of f.a, ← VSrc.of f.b, f.pred, ← ETy.ofCode f.ty, ← Rnd.ofCode f.rnd, f.sat == 1⟩) : Option Instr) = some _
  simp_all [VRF.pred, MTF.tileA, MTF.tileB]
theorem Laws.RoundTrip.vfmulz (o : VF2) : Laws.RoundTrip.Statement (.vfmulz o) := by
  intro hw
  simp [Instr.wf] at hw
  refine ⟨rfl, by simp_all [specBad, vSpecBad, VRF.pred, MTF.tileA, MTF.tileB, badReg], ?_⟩
  change (let f := VRF.of _; do pure (.vfmulz ⟨← VDst.of f.d, ← VSrc.of f.a, ← VSrc.of f.b, f.pred, ← ETy.ofCode f.ty, ← Rnd.ofCode f.rnd, f.sat == 1⟩) : Option Instr) = some _
  simp_all [VRF.pred, MTF.tileA, MTF.tileB]
theorem Laws.RoundTrip.vfma (o : VF3) : Laws.RoundTrip.Statement (.vfma o) := by
  intro hw
  simp [Instr.wf] at hw
  refine ⟨rfl, by simp_all [specBad, vSpecBad, VRF.pred, MTF.tileA, MTF.tileB, badReg], ?_⟩
  change (let f := VRF.of _; do pure (.vfma ⟨← VDst.of f.d, ← VSrc.of f.a, ← VSrc.of f.b, ← VSrc.of f.c, f.pred, ← ETy.ofCode f.ty, ← Rnd.ofCode f.rnd, f.sat == 1⟩) : Option Instr) = some _
  simp_all [VRF.pred, MTF.tileA, MTF.tileB]
theorem Laws.RoundTrip.vfmaz (o : VF3) : Laws.RoundTrip.Statement (.vfmaz o) := by
  intro hw
  simp [Instr.wf] at hw
  refine ⟨rfl, by simp_all [specBad, vSpecBad, VRF.pred, MTF.tileA, MTF.tileB, badReg], ?_⟩
  change (let f := VRF.of _; do pure (.vfmaz ⟨← VDst.of f.d, ← VSrc.of f.a, ← VSrc.of f.b, ← VSrc.of f.c, f.pred, ← ETy.ofCode f.ty, ← Rnd.ofCode f.rnd, f.sat == 1⟩) : Option Instr) = some _
  simp_all [VRF.pred, MTF.tileA, MTF.tileB]
theorem Laws.RoundTrip.vfms (o : VF3) : Laws.RoundTrip.Statement (.vfms o) := by
  intro hw
  simp [Instr.wf] at hw
  refine ⟨rfl, by simp_all [specBad, vSpecBad, VRF.pred, MTF.tileA, MTF.tileB, badReg], ?_⟩
  change (let f := VRF.of _; do pure (.vfms ⟨← VDst.of f.d, ← VSrc.of f.a, ← VSrc.of f.b, ← VSrc.of f.c, f.pred, ← ETy.ofCode f.ty, ← Rnd.ofCode f.rnd, f.sat == 1⟩) : Option Instr) = some _
  simp_all [VRF.pred, MTF.tileA, MTF.tileB]
theorem Laws.RoundTrip.vfnma (o : VF3) : Laws.RoundTrip.Statement (.vfnma o) := by
  intro hw
  simp [Instr.wf] at hw
  refine ⟨rfl, by simp_all [specBad, vSpecBad, VRF.pred, MTF.tileA, MTF.tileB, badReg], ?_⟩
  change (let f := VRF.of _; do pure (.vfnma ⟨← VDst.of f.d, ← VSrc.of f.a, ← VSrc.of f.b, ← VSrc.of f.c, f.pred, ← ETy.ofCode f.ty, ← Rnd.ofCode f.rnd, f.sat == 1⟩) : Option Instr) = some _
  simp_all [VRF.pred, MTF.tileA, MTF.tileB]
theorem Laws.RoundTrip.vfmin (o : VX2) : Laws.RoundTrip.Statement (.vfmin o) := by
  intro hw
  simp [Instr.wf] at hw
  refine ⟨rfl, by simp_all [specBad, vSpecBad, VRF.pred, MTF.tileA, MTF.tileB, badReg], ?_⟩
  change (let f := VRF.of _; do pure (.vfmin ⟨← VDst.of f.d, ← VSrc.of f.a, ← VSrc.of f.b, f.pred, ← ETy.ofCode f.ty⟩) : Option Instr) = some _
  simp_all [VRF.pred, MTF.tileA, MTF.tileB]
theorem Laws.RoundTrip.vfmax (o : VX2) : Laws.RoundTrip.Statement (.vfmax o) := by
  intro hw
  simp [Instr.wf] at hw
  refine ⟨rfl, by simp_all [specBad, vSpecBad, VRF.pred, MTF.tileA, MTF.tileB, badReg], ?_⟩
  change (let f := VRF.of _; do pure (.vfmax ⟨← VDst.of f.d, ← VSrc.of f.a, ← VSrc.of f.b, f.pred, ← ETy.ofCode f.ty⟩) : Option Instr) = some _
  simp_all [VRF.pred, MTF.tileA, MTF.tileB]
theorem Laws.RoundTrip.vfabs (o : VX1) : Laws.RoundTrip.Statement (.vfabs o) := by
  intro hw
  simp [Instr.wf] at hw
  refine ⟨rfl, by simp_all [specBad, vSpecBad, VRF.pred, MTF.tileA, MTF.tileB, badReg], ?_⟩
  change (let f := VRF.of _; do pure (.vfabs ⟨← VDst.of f.d, ← VSrc.of f.a, f.pred, ← ETy.ofCode f.ty⟩) : Option Instr) = some _
  simp_all [VRF.pred, MTF.tileA, MTF.tileB]
theorem Laws.RoundTrip.vfneg (o : VX1) : Laws.RoundTrip.Statement (.vfneg o) := by
  intro hw
  simp [Instr.wf] at hw
  refine ⟨rfl, by simp_all [specBad, vSpecBad, VRF.pred, MTF.tileA, MTF.tileB, badReg], ?_⟩
  change (let f := VRF.of _; do pure (.vfneg ⟨← VDst.of f.d, ← VSrc.of f.a, f.pred, ← ETy.ofCode f.ty⟩) : Option Instr) = some _
  simp_all [VRF.pred, MTF.tileA, MTF.tileB]
theorem Laws.RoundTrip.vfcpsgn (o : VX2) : Laws.RoundTrip.Statement (.vfcpsgn o) := by
  intro hw
  simp [Instr.wf] at hw
  refine ⟨rfl, by simp_all [specBad, vSpecBad, VRF.pred, MTF.tileA, MTF.tileB, badReg], ?_⟩
  change (let f := VRF.of _; do pure (.vfcpsgn ⟨← VDst.of f.d, ← VSrc.of f.a, ← VSrc.of f.b, f.pred, ← ETy.ofCode f.ty⟩) : Option Instr) = some _
  simp_all [VRF.pred, MTF.tileA, MTF.tileB]
theorem Laws.RoundTrip.vfdiv (o : VF2) : Laws.RoundTrip.Statement (.vfdiv o) := by
  intro hw
  simp [Instr.wf] at hw
  refine ⟨rfl, by simp_all [specBad, vSpecBad, VRF.pred, MTF.tileA, MTF.tileB, badReg], ?_⟩
  change (let f := VRF.of _; do pure (.vfdiv ⟨← VDst.of f.d, ← VSrc.of f.a, ← VSrc.of f.b, f.pred, ← ETy.ofCode f.ty, ← Rnd.ofCode f.rnd, f.sat == 1⟩) : Option Instr) = some _
  simp_all [VRF.pred, MTF.tileA, MTF.tileB]
theorem Laws.RoundTrip.vfsqrt (o : VF1) : Laws.RoundTrip.Statement (.vfsqrt o) := by
  intro hw
  simp [Instr.wf] at hw
  refine ⟨rfl, by simp_all [specBad, vSpecBad, VRF.pred, MTF.tileA, MTF.tileB, badReg], ?_⟩
  change (let f := VRF.of _; do pure (.vfsqrt ⟨← VDst.of f.d, ← VSrc.of f.a, f.pred, ← ETy.ofCode f.ty, ← Rnd.ofCode f.rnd, f.sat == 1⟩) : Option Instr) = some _
  simp_all [VRF.pred, MTF.tileA, MTF.tileB]
theorem Laws.RoundTrip.vfrcp (o : VTr) : Laws.RoundTrip.Statement (.vfrcp o) := by
  intro hw
  simp [Instr.wf] at hw
  refine ⟨rfl, by simp_all [specBad, vSpecBad, VRF.pred, MTF.tileA, MTF.tileB, badReg], ?_⟩
  change (let f := VRF.of _; do pure (.vfrcp ⟨← VDst.of f.d, ← VSrc.of f.a, f.pred, ← ETy.ofCode f.ty, f.rnd⟩) : Option Instr) = some _
  simp_all [VRF.pred, MTF.tileA, MTF.tileB]
theorem Laws.RoundTrip.vfrsq (o : VTr) : Laws.RoundTrip.Statement (.vfrsq o) := by
  intro hw
  simp [Instr.wf] at hw
  refine ⟨rfl, by simp_all [specBad, vSpecBad, VRF.pred, MTF.tileA, MTF.tileB, badReg], ?_⟩
  change (let f := VRF.of _; do pure (.vfrsq ⟨← VDst.of f.d, ← VSrc.of f.a, f.pred, ← ETy.ofCode f.ty, f.rnd⟩) : Option Instr) = some _
  simp_all [VRF.pred, MTF.tileA, MTF.tileB]
theorem Laws.RoundTrip.vfexp2 (o : VTr) : Laws.RoundTrip.Statement (.vfexp2 o) := by
  intro hw
  simp [Instr.wf] at hw
  refine ⟨rfl, by simp_all [specBad, vSpecBad, VRF.pred, MTF.tileA, MTF.tileB, badReg], ?_⟩
  change (let f := VRF.of _; do pure (.vfexp2 ⟨← VDst.of f.d, ← VSrc.of f.a, f.pred, ← ETy.ofCode f.ty, f.rnd⟩) : Option Instr) = some _
  simp_all [VRF.pred, MTF.tileA, MTF.tileB]
theorem Laws.RoundTrip.vflog2 (o : VTr) : Laws.RoundTrip.Statement (.vflog2 o) := by
  intro hw
  simp [Instr.wf] at hw
  refine ⟨rfl, by simp_all [specBad, vSpecBad, VRF.pred, MTF.tileA, MTF.tileB, badReg], ?_⟩
  change (let f := VRF.of _; do pure (.vflog2 ⟨← VDst.of f.d, ← VSrc.of f.a, f.pred, ← ETy.ofCode f.ty, f.rnd⟩) : Option Instr) = some _
  simp_all [VRF.pred, MTF.tileA, MTF.tileB]
theorem Laws.RoundTrip.vfsin (o : VTr) : Laws.RoundTrip.Statement (.vfsin o) := by
  intro hw
  simp [Instr.wf] at hw
  refine ⟨rfl, by simp_all [specBad, vSpecBad, VRF.pred, MTF.tileA, MTF.tileB, badReg], ?_⟩
  change (let f := VRF.of _; do pure (.vfsin ⟨← VDst.of f.d, ← VSrc.of f.a, f.pred, ← ETy.ofCode f.ty, f.rnd⟩) : Option Instr) = some _
  simp_all [VRF.pred, MTF.tileA, MTF.tileB]
theorem Laws.RoundTrip.vfcos (o : VTr) : Laws.RoundTrip.Statement (.vfcos o) := by
  intro hw
  simp [Instr.wf] at hw
  refine ⟨rfl, by simp_all [specBad, vSpecBad, VRF.pred, MTF.tileA, MTF.tileB, badReg], ?_⟩
  change (let f := VRF.of _; do pure (.vfcos ⟨← VDst.of f.d, ← VSrc.of f.a, f.pred, ← ETy.ofCode f.ty, f.rnd⟩) : Option Instr) = some _
  simp_all [VRF.pred, MTF.tileA, MTF.tileB]
theorem Laws.RoundTrip.vftanh (o : VTr) : Laws.RoundTrip.Statement (.vftanh o) := by
  intro hw
  simp [Instr.wf] at hw
  refine ⟨rfl, by simp_all [specBad, vSpecBad, VRF.pred, MTF.tileA, MTF.tileB, badReg], ?_⟩
  change (let f := VRF.of _; do pure (.vftanh ⟨← VDst.of f.d, ← VSrc.of f.a, f.pred, ← ETy.ofCode f.ty, f.rnd⟩) : Option Instr) = some _
  simp_all [VRF.pred, MTF.tileA, MTF.tileB]
theorem Laws.RoundTrip.vfcmp (o : VFCmpOp) : Laws.RoundTrip.Statement (.vfcmp o) := by
  intro hw
  simp [Instr.wf] at hw
  refine ⟨rfl, by simp_all [specBad, vSpecBad, VRF.pred, MTF.tileA, MTF.tileB, badReg], ?_⟩
  change (let f := VRF.of _; do pure (.vfcmp ⟨f.d.setWidth 6, ← VSrc.of f.a, ← VSrc.of f.b, f.pred, ← ETy.ofCode f.ty, ← FCmp.ofCode f.sub⟩) : Option Instr) = some _
  simp_all [VRF.pred, MTF.tileA, MTF.tileB]
theorem Laws.RoundTrip.vfclass (o : VX1) : Laws.RoundTrip.Statement (.vfclass o) := by
  intro hw
  simp [Instr.wf] at hw
  refine ⟨rfl, by simp_all [specBad, vSpecBad, VRF.pred, MTF.tileA, MTF.tileB, badReg], ?_⟩
  change (let f := VRF.of _; do pure (.vfclass ⟨← VDst.of f.d, ← VSrc.of f.a, f.pred, ← ETy.ofCode f.ty⟩) : Option Instr) = some _
  simp_all [VRF.pred, MTF.tileA, MTF.tileB]
theorem Laws.RoundTrip.vfrnd (o : VRndOp) : Laws.RoundTrip.Statement (.vfrnd o) := by
  intro hw
  simp [Instr.wf] at hw
  refine ⟨rfl, by simp_all [specBad, vSpecBad, VRF.pred, MTF.tileA, MTF.tileB, badReg], ?_⟩
  change (let f := VRF.of _; do pure (.vfrnd ⟨← VDst.of f.d, ← VSrc.of f.a, f.pred, ← ETy.ofCode f.ty, ← Rnd.ofCode f.rnd⟩) : Option Instr) = some _
  simp_all [VRF.pred, MTF.tileA, MTF.tileB]
theorem Laws.RoundTrip.vadd (o : VX2) : Laws.RoundTrip.Statement (.vadd o) := by
  intro hw
  simp [Instr.wf] at hw
  refine ⟨rfl, by simp_all [specBad, vSpecBad, VRF.pred, MTF.tileA, MTF.tileB, badReg], ?_⟩
  change (let f := VRF.of _; do pure (.vadd ⟨← VDst.of f.d, ← VSrc.of f.a, ← VSrc.of f.b, f.pred, ← ETy.ofCode f.ty⟩) : Option Instr) = some _
  simp_all [VRF.pred, MTF.tileA, MTF.tileB]
theorem Laws.RoundTrip.vsub (o : VX2) : Laws.RoundTrip.Statement (.vsub o) := by
  intro hw
  simp [Instr.wf] at hw
  refine ⟨rfl, by simp_all [specBad, vSpecBad, VRF.pred, MTF.tileA, MTF.tileB, badReg], ?_⟩
  change (let f := VRF.of _; do pure (.vsub ⟨← VDst.of f.d, ← VSrc.of f.a, ← VSrc.of f.b, f.pred, ← ETy.ofCode f.ty⟩) : Option Instr) = some _
  simp_all [VRF.pred, MTF.tileA, MTF.tileB]
theorem Laws.RoundTrip.vadds (o : VX2) : Laws.RoundTrip.Statement (.vadds o) := by
  intro hw
  simp [Instr.wf] at hw
  refine ⟨rfl, by simp_all [specBad, vSpecBad, VRF.pred, MTF.tileA, MTF.tileB, badReg], ?_⟩
  change (let f := VRF.of _; do pure (.vadds ⟨← VDst.of f.d, ← VSrc.of f.a, ← VSrc.of f.b, f.pred, ← ETy.ofCode f.ty⟩) : Option Instr) = some _
  simp_all [VRF.pred, MTF.tileA, MTF.tileB]
theorem Laws.RoundTrip.vsubs (o : VX2) : Laws.RoundTrip.Statement (.vsubs o) := by
  intro hw
  simp [Instr.wf] at hw
  refine ⟨rfl, by simp_all [specBad, vSpecBad, VRF.pred, MTF.tileA, MTF.tileB, badReg], ?_⟩
  change (let f := VRF.of _; do pure (.vsubs ⟨← VDst.of f.d, ← VSrc.of f.a, ← VSrc.of f.b, f.pred, ← ETy.ofCode f.ty⟩) : Option Instr) = some _
  simp_all [VRF.pred, MTF.tileA, MTF.tileB]
theorem Laws.RoundTrip.vmul (o : VX2) : Laws.RoundTrip.Statement (.vmul o) := by
  intro hw
  simp [Instr.wf] at hw
  refine ⟨rfl, by simp_all [specBad, vSpecBad, VRF.pred, MTF.tileA, MTF.tileB, badReg], ?_⟩
  change (let f := VRF.of _; do pure (.vmul ⟨← VDst.of f.d, ← VSrc.of f.a, ← VSrc.of f.b, f.pred, ← ETy.ofCode f.ty⟩) : Option Instr) = some _
  simp_all [VRF.pred, MTF.tileA, MTF.tileB]
theorem Laws.RoundTrip.vmulh (o : VX2) : Laws.RoundTrip.Statement (.vmulh o) := by
  intro hw
  simp [Instr.wf] at hw
  refine ⟨rfl, by simp_all [specBad, vSpecBad, VRF.pred, MTF.tileA, MTF.tileB, badReg], ?_⟩
  change (let f := VRF.of _; do pure (.vmulh ⟨← VDst.of f.d, ← VSrc.of f.a, ← VSrc.of f.b, f.pred, ← ETy.ofCode f.ty⟩) : Option Instr) = some _
  simp_all [VRF.pred, MTF.tileA, MTF.tileB]
theorem Laws.RoundTrip.vmin (o : VX2) : Laws.RoundTrip.Statement (.vmin o) := by
  intro hw
  simp [Instr.wf] at hw
  refine ⟨rfl, by simp_all [specBad, vSpecBad, VRF.pred, MTF.tileA, MTF.tileB, badReg], ?_⟩
  change (let f := VRF.of _; do pure (.vmin ⟨← VDst.of f.d, ← VSrc.of f.a, ← VSrc.of f.b, f.pred, ← ETy.ofCode f.ty⟩) : Option Instr) = some _
  simp_all [VRF.pred, MTF.tileA, MTF.tileB]
theorem Laws.RoundTrip.vmax (o : VX2) : Laws.RoundTrip.Statement (.vmax o) := by
  intro hw
  simp [Instr.wf] at hw
  refine ⟨rfl, by simp_all [specBad, vSpecBad, VRF.pred, MTF.tileA, MTF.tileB, badReg], ?_⟩
  change (let f := VRF.of _; do pure (.vmax ⟨← VDst.of f.d, ← VSrc.of f.a, ← VSrc.of f.b, f.pred, ← ETy.ofCode f.ty⟩) : Option Instr) = some _
  simp_all [VRF.pred, MTF.tileA, MTF.tileB]
theorem Laws.RoundTrip.vand (o : VX2) : Laws.RoundTrip.Statement (.vand o) := by
  intro hw
  simp [Instr.wf] at hw
  refine ⟨rfl, by simp_all [specBad, vSpecBad, VRF.pred, MTF.tileA, MTF.tileB, badReg], ?_⟩
  change (let f := VRF.of _; do pure (.vand ⟨← VDst.of f.d, ← VSrc.of f.a, ← VSrc.of f.b, f.pred, ← ETy.ofCode f.ty⟩) : Option Instr) = some _
  simp_all [VRF.pred, MTF.tileA, MTF.tileB]
theorem Laws.RoundTrip.vor (o : VX2) : Laws.RoundTrip.Statement (.vor o) := by
  intro hw
  simp [Instr.wf] at hw
  refine ⟨rfl, by simp_all [specBad, vSpecBad, VRF.pred, MTF.tileA, MTF.tileB, badReg], ?_⟩
  change (let f := VRF.of _; do pure (.vor ⟨← VDst.of f.d, ← VSrc.of f.a, ← VSrc.of f.b, f.pred, ← ETy.ofCode f.ty⟩) : Option Instr) = some _
  simp_all [VRF.pred, MTF.tileA, MTF.tileB]
theorem Laws.RoundTrip.vxor (o : VX2) : Laws.RoundTrip.Statement (.vxor o) := by
  intro hw
  simp [Instr.wf] at hw
  refine ⟨rfl, by simp_all [specBad, vSpecBad, VRF.pred, MTF.tileA, MTF.tileB, badReg], ?_⟩
  change (let f := VRF.of _; do pure (.vxor ⟨← VDst.of f.d, ← VSrc.of f.a, ← VSrc.of f.b, f.pred, ← ETy.ofCode f.ty⟩) : Option Instr) = some _
  simp_all [VRF.pred, MTF.tileA, MTF.tileB]
theorem Laws.RoundTrip.vshl (o : VX2) : Laws.RoundTrip.Statement (.vshl o) := by
  intro hw
  simp [Instr.wf] at hw
  refine ⟨rfl, by simp_all [specBad, vSpecBad, VRF.pred, MTF.tileA, MTF.tileB, badReg], ?_⟩
  change (let f := VRF.of _
    if f.sub == 0 then do pure (.vshl ⟨← VDst.of f.d, ← VSrc.of f.a, ← VSrc.of f.b, f.pred, ← ETy.ofCode f.ty⟩)
    else if f.sub == 1 then do pure (.vshlImm ⟨← VDst.of f.d, ← VSrc.of f.a, f.pred, ← ETy.ofCode f.ty, f.imm⟩)
    else none : Option Instr) = some _
  simp_all [VRF.pred, MTF.tileA, MTF.tileB]
theorem Laws.RoundTrip.vshlImm (o : VImm1) : Laws.RoundTrip.Statement (.vshlImm o) := by
  intro hw
  simp [Instr.wf] at hw
  refine ⟨rfl, by simp_all [specBad, vSpecBad, VRF.pred, MTF.tileA, MTF.tileB, badReg], ?_⟩
  change (let f := VRF.of _
    if f.sub == 0 then do pure (.vshl ⟨← VDst.of f.d, ← VSrc.of f.a, ← VSrc.of f.b, f.pred, ← ETy.ofCode f.ty⟩)
    else if f.sub == 1 then do pure (.vshlImm ⟨← VDst.of f.d, ← VSrc.of f.a, f.pred, ← ETy.ofCode f.ty, f.imm⟩)
    else none : Option Instr) = some _
  simp_all [VRF.pred, MTF.tileA, MTF.tileB]
theorem Laws.RoundTrip.vshr (o : VX2) : Laws.RoundTrip.Statement (.vshr o) := by
  intro hw
  simp [Instr.wf] at hw
  refine ⟨rfl, by simp_all [specBad, vSpecBad, VRF.pred, MTF.tileA, MTF.tileB, badReg], ?_⟩
  change (let f := VRF.of _
    if f.sub == 0 then do pure (.vshr ⟨← VDst.of f.d, ← VSrc.of f.a, ← VSrc.of f.b, f.pred, ← ETy.ofCode f.ty⟩)
    else if f.sub == 1 then do pure (.vshrImm ⟨← VDst.of f.d, ← VSrc.of f.a, f.pred, ← ETy.ofCode f.ty, f.imm⟩)
    else none : Option Instr) = some _
  simp_all [VRF.pred, MTF.tileA, MTF.tileB]
theorem Laws.RoundTrip.vshrImm (o : VImm1) : Laws.RoundTrip.Statement (.vshrImm o) := by
  intro hw
  simp [Instr.wf] at hw
  refine ⟨rfl, by simp_all [specBad, vSpecBad, VRF.pred, MTF.tileA, MTF.tileB, badReg], ?_⟩
  change (let f := VRF.of _
    if f.sub == 0 then do pure (.vshr ⟨← VDst.of f.d, ← VSrc.of f.a, ← VSrc.of f.b, f.pred, ← ETy.ofCode f.ty⟩)
    else if f.sub == 1 then do pure (.vshrImm ⟨← VDst.of f.d, ← VSrc.of f.a, f.pred, ← ETy.ofCode f.ty, f.imm⟩)
    else none : Option Instr) = some _
  simp_all [VRF.pred, MTF.tileA, MTF.tileB]
theorem Laws.RoundTrip.vsra (o : VX2) : Laws.RoundTrip.Statement (.vsra o) := by
  intro hw
  simp [Instr.wf] at hw
  refine ⟨rfl, by simp_all [specBad, vSpecBad, VRF.pred, MTF.tileA, MTF.tileB, badReg], ?_⟩
  change (let f := VRF.of _
    if f.sub == 0 then do pure (.vsra ⟨← VDst.of f.d, ← VSrc.of f.a, ← VSrc.of f.b, f.pred, ← ETy.ofCode f.ty⟩)
    else if f.sub == 1 then do pure (.vsraImm ⟨← VDst.of f.d, ← VSrc.of f.a, f.pred, ← ETy.ofCode f.ty, f.imm⟩)
    else none : Option Instr) = some _
  simp_all [VRF.pred, MTF.tileA, MTF.tileB]
theorem Laws.RoundTrip.vsraImm (o : VImm1) : Laws.RoundTrip.Statement (.vsraImm o) := by
  intro hw
  simp [Instr.wf] at hw
  refine ⟨rfl, by simp_all [specBad, vSpecBad, VRF.pred, MTF.tileA, MTF.tileB, badReg], ?_⟩
  change (let f := VRF.of _
    if f.sub == 0 then do pure (.vsra ⟨← VDst.of f.d, ← VSrc.of f.a, ← VSrc.of f.b, f.pred, ← ETy.ofCode f.ty⟩)
    else if f.sub == 1 then do pure (.vsraImm ⟨← VDst.of f.d, ← VSrc.of f.a, f.pred, ← ETy.ofCode f.ty, f.imm⟩)
    else none : Option Instr) = some _
  simp_all [VRF.pred, MTF.tileA, MTF.tileB]
theorem Laws.RoundTrip.vcmp (o : VICmpOp) : Laws.RoundTrip.Statement (.vcmp o) := by
  intro hw
  simp [Instr.wf] at hw
  refine ⟨rfl, by simp_all [specBad, vSpecBad, VRF.pred, MTF.tileA, MTF.tileB, badReg], ?_⟩
  change (let f := VRF.of _; do pure (.vcmp ⟨f.d.setWidth 6, ← VSrc.of f.a, ← VSrc.of f.b, f.pred, ← ETy.ofCode f.ty, ← ICmp.ofCode f.sub⟩) : Option Instr) = some _
  simp_all [VRF.pred, MTF.tileA, MTF.tileB]
theorem Laws.RoundTrip.vabs (o : VX1) : Laws.RoundTrip.Statement (.vabs o) := by
  intro hw
  simp [Instr.wf] at hw
  refine ⟨rfl, by simp_all [specBad, vSpecBad, VRF.pred, MTF.tileA, MTF.tileB, badReg], ?_⟩
  change (let f := VRF.of _; do pure (.vabs ⟨← VDst.of f.d, ← VSrc.of f.a, f.pred, ← ETy.ofCode f.ty⟩) : Option Instr) = some _
  simp_all [VRF.pred, MTF.tileA, MTF.tileB]
theorem Laws.RoundTrip.vclz (o : VX1) : Laws.RoundTrip.Statement (.vclz o) := by
  intro hw
  simp [Instr.wf] at hw
  refine ⟨rfl, by simp_all [specBad, vSpecBad, VRF.pred, MTF.tileA, MTF.tileB, badReg], ?_⟩
  change (let f := VRF.of _; do pure (.vclz ⟨← VDst.of f.d, ← VSrc.of f.a, f.pred, ← ETy.ofCode f.ty⟩) : Option Instr) = some _
  simp_all [VRF.pred, MTF.tileA, MTF.tileB]
theorem Laws.RoundTrip.vpopc (o : VX1) : Laws.RoundTrip.Statement (.vpopc o) := by
  intro hw
  simp [Instr.wf] at hw
  refine ⟨rfl, by simp_all [specBad, vSpecBad, VRF.pred, MTF.tileA, MTF.tileB, badReg], ?_⟩
  change (let f := VRF.of _; do pure (.vpopc ⟨← VDst.of f.d, ← VSrc.of f.a, f.pred, ← ETy.ofCode f.ty⟩) : Option Instr) = some _
  simp_all [VRF.pred, MTF.tileA, MTF.tileB]
theorem Laws.RoundTrip.vcvt (o : VCvtOp) : Laws.RoundTrip.Statement (.vcvt o) := by
  intro hw
  simp [Instr.wf] at hw
  refine ⟨rfl, by simp_all [specBad, vSpecBad, VRF.pred, MTF.tileA, MTF.tileB, badReg], ?_⟩
  change (let f := VRF.of _; do pure (.vcvt ⟨← VDst.of f.d, ← VSrc.of f.a, f.pred, ← ETy.ofCode f.ty, ← ETy.ofCode (f.imm.extractLsb' 0 5), ← Rnd.ofCode f.rnd, f.sat == 1, f.sub.extractLsb' 0 3⟩) : Option Instr) = some _
  simp_all [VRF.pred, MTF.tileA, MTF.tileB]
theorem Laws.RoundTrip.vpack (o : VPackOp) : Laws.RoundTrip.Statement (.vpack o) := by
  intro hw
  simp [Instr.wf] at hw
  refine ⟨rfl, by simp_all [specBad, vSpecBad, VRF.pred, MTF.tileA, MTF.tileB, badReg], ?_⟩
  change (let f := VRF.of _; do pure (.vpack ⟨← VDst.of f.d, ← VSrc.of f.a, ← VSrc.of f.b, f.pred, ← ETy.ofCode f.ty, ← ETy.ofCode (f.imm.extractLsb' 0 5), ← Rnd.ofCode f.rnd, f.sat == 1⟩) : Option Instr) = some _
  simp_all [VRF.pred, MTF.tileA, MTF.tileB]
theorem Laws.RoundTrip.vunpk (o : VUnpkOp) : Laws.RoundTrip.Statement (.vunpk o) := by
  intro hw
  simp [Instr.wf] at hw
  refine ⟨rfl, by simp_all [specBad, vSpecBad, VRF.pred, MTF.tileA, MTF.tileB, badReg], ?_⟩
  change (let f := VRF.of _; do pure (.vunpk ⟨← VDst.of f.d, ← VSrc.of f.a, f.pred, ← ETy.ofCode f.ty, ← ETy.ofCode (f.imm.extractLsb' 0 5), ← Rnd.ofCode f.rnd, f.sat == 1⟩) : Option Instr) = some _
  simp_all [VRF.pred, MTF.tileA, MTF.tileB]
theorem Laws.RoundTrip.vqnt (o : VQntOp) : Laws.RoundTrip.Statement (.vqnt o) := by
  intro hw
  simp [Instr.wf] at hw
  refine ⟨rfl, by
      have hb : o.b < 768#10 := by bv_omega
      simp_all [specBad, vSpecBad, badReg], ?_⟩
  change (let f := VRF.of _; do pure (.vqnt ⟨← VDst.of f.d, ← VSrc.of f.a, f.b, ← ETy.ofCode f.ty, ← ETy.ofCode (f.imm.extractLsb' 0 5), ← Rnd.ofCode f.rnd, f.sub.extractLsb' 0 3⟩) : Option Instr) = some _
  simp_all [VRF.pred, MTF.tileA, MTF.tileB]
theorem Laws.RoundTrip.vscl (o : VF2) : Laws.RoundTrip.Statement (.vscl o) := by
  intro hw
  simp [Instr.wf] at hw
  refine ⟨rfl, by simp_all [specBad, vSpecBad, VRF.pred, MTF.tileA, MTF.tileB, badReg], ?_⟩
  change (let f := VRF.of _
    if f.sub == 0 then do pure (.vscl ⟨← VDst.of f.d, ← VSrc.of f.a, ← VSrc.of f.b, f.pred, ← ETy.ofCode f.ty, ← Rnd.ofCode f.rnd, f.sat == 1⟩)
    else if f.sub == 1 then do pure (.vsclImm ⟨← VDst.of f.d, ← VSrc.of f.a, f.pred, ← ETy.ofCode f.ty, ← Rnd.ofCode f.rnd, f.sat == 1, f.imm⟩)
    else none : Option Instr) = some _
  simp_all [VRF.pred, MTF.tileA, MTF.tileB]
theorem Laws.RoundTrip.vsclImm (o : VSclI) : Laws.RoundTrip.Statement (.vsclImm o) := by
  intro hw
  simp [Instr.wf] at hw
  refine ⟨rfl, by simp_all [specBad, vSpecBad, VRF.pred, MTF.tileA, MTF.tileB, badReg], ?_⟩
  change (let f := VRF.of _
    if f.sub == 0 then do pure (.vscl ⟨← VDst.of f.d, ← VSrc.of f.a, ← VSrc.of f.b, f.pred, ← ETy.ofCode f.ty, ← Rnd.ofCode f.rnd, f.sat == 1⟩)
    else if f.sub == 1 then do pure (.vsclImm ⟨← VDst.of f.d, ← VSrc.of f.a, f.pred, ← ETy.ofCode f.ty, ← Rnd.ofCode f.rnd, f.sat == 1, f.imm⟩)
    else none : Option Instr) = some _
  simp_all [VRF.pred, MTF.tileA, MTF.tileB]
theorem Laws.RoundTrip.vmov (o : VX1) : Laws.RoundTrip.Statement (.vmov o) := by
  intro hw
  simp [Instr.wf] at hw
  refine ⟨rfl, by simp_all [specBad, vSpecBad, VRF.pred, MTF.tileA, MTF.tileB, badReg], ?_⟩
  change (let f := VRF.of _; do pure (.vmov ⟨← VDst.of f.d, ← VSrc.of f.a, f.pred, ← ETy.ofCode f.ty⟩) : Option Instr) = some _
  simp_all [VRF.pred, MTF.tileA, MTF.tileB]
theorem Laws.RoundTrip.vmovi (o : VMoviOp) : Laws.RoundTrip.Statement (.vmovi o) := by
  intro hw
  simp [Instr.wf] at hw
  refine ⟨rfl, by
      have h1 := badDst_code o.d hw.2
      simp_all [specBad, vSpecBad, badReg], ?_⟩
  change (let f := VIF.of _; do pure (.vmovi ⟨← VDst.of f.d, ← ETy.ofCode f.ty, f.p, f.imm⟩) : Option Instr) = some _
  simp_all [VRF.pred, MTF.tileA, MTF.tileB]
theorem Laws.RoundTrip.vsel (o : VSelOp) : Laws.RoundTrip.Statement (.vsel o) := by
  intro hw
  simp [Instr.wf] at hw
  refine ⟨rfl, by simp_all [specBad, vSpecBad, VRF.pred, MTF.tileA, MTF.tileB, badReg], ?_⟩
  change (let f := VRF.of _; do pure (.vsel ⟨← VDst.of f.d, ← VSrc.of f.a, ← VSrc.of f.b, f.p, ← ETy.ofCode f.ty⟩) : Option Instr) = some _
  simp_all [VRF.pred, MTF.tileA, MTF.tileB]
theorem Laws.RoundTrip.vperm (o : VX3) : Laws.RoundTrip.Statement (.vperm o) := by
  intro hw
  simp [Instr.wf] at hw
  refine ⟨rfl, by simp_all [specBad, vSpecBad, VRF.pred, MTF.tileA, MTF.tileB, badReg], ?_⟩
  change (let f := VRF.of _; do pure (.vperm ⟨← VDst.of f.d, ← VSrc.of f.a, ← VSrc.of f.b, ← VSrc.of f.c, f.pred, ← ETy.ofCode f.ty⟩) : Option Instr) = some _
  simp_all [VRF.pred, MTF.tileA, MTF.tileB]
theorem Laws.RoundTrip.vshuf (o : VShufOp) : Laws.RoundTrip.Statement (.vshuf o) := by
  intro hw
  simp [Instr.wf] at hw
  refine ⟨rfl, by simp_all [specBad, vSpecBad, VRF.pred, MTF.tileA, MTF.tileB, badReg], ?_⟩
  change (let f := VRF.of _; do pure (.vshuf ⟨← VDst.of f.d, ← VSrc.of f.a, ← VSrc.of f.b, f.pred, ← ETy.ofCode f.ty, ← ShufPat.ofCode f.sub⟩) : Option Instr) = some _
  simp_all [VRF.pred, MTF.tileA, MTF.tileB]
theorem Laws.RoundTrip.vrot (o : VImm1) : Laws.RoundTrip.Statement (.vrot o) := by
  intro hw
  simp [Instr.wf] at hw
  refine ⟨rfl, by simp_all [specBad, vSpecBad, VRF.pred, MTF.tileA, MTF.tileB, badReg], ?_⟩
  change (let f := VRF.of _; do pure (.vrot ⟨← VDst.of f.d, ← VSrc.of f.a, f.pred, ← ETy.ofCode f.ty, f.imm⟩) : Option Instr) = some _
  simp_all [VRF.pred, MTF.tileA, MTF.tileB]
theorem Laws.RoundTrip.vslide (o : VImm2) : Laws.RoundTrip.Statement (.vslide o) := by
  intro hw
  simp [Instr.wf] at hw
  refine ⟨rfl, by simp_all [specBad, vSpecBad, VRF.pred, MTF.tileA, MTF.tileB, badReg], ?_⟩
  change (let f := VRF.of _; do pure (.vslide ⟨← VDst.of f.d, ← VSrc.of f.a, ← VSrc.of f.b, f.pred, ← ETy.ofCode f.ty, f.imm⟩) : Option Instr) = some _
  simp_all [VRF.pred, MTF.tileA, MTF.tileB]
theorem Laws.RoundTrip.vbcast (o : VImm1) : Laws.RoundTrip.Statement (.vbcast o) := by
  intro hw
  simp [Instr.wf] at hw
  refine ⟨rfl, by simp_all [specBad, vSpecBad, VRF.pred, MTF.tileA, MTF.tileB, badReg], ?_⟩
  change (let f := VRF.of _
    if f.sub == 0 then do pure (.vbcast ⟨← VDst.of f.d, ← VSrc.of f.a, f.pred, ← ETy.ofCode f.ty, f.imm⟩)
    else if f.sub == 1 then do pure (.vbcastScalar ⟨← VDst.of f.d, f.a.setWidth 6, f.pred, ← ETy.ofCode f.ty⟩)
    else none : Option Instr) = some _
  simp_all [VRF.pred, MTF.tileA, MTF.tileB]
theorem Laws.RoundTrip.vbcastScalar (o : VBcsOp) : Laws.RoundTrip.Statement (.vbcastScalar o) := by
  intro hw
  simp [Instr.wf] at hw
  refine ⟨rfl, by simp_all [specBad, vSpecBad, VRF.pred, MTF.tileA, MTF.tileB, badReg], ?_⟩
  change (let f := VRF.of _
    if f.sub == 0 then do pure (.vbcast ⟨← VDst.of f.d, ← VSrc.of f.a, f.pred, ← ETy.ofCode f.ty, f.imm⟩)
    else if f.sub == 1 then do pure (.vbcastScalar ⟨← VDst.of f.d, f.a.setWidth 6, f.pred, ← ETy.ofCode f.ty⟩)
    else none : Option Instr) = some _
  simp_all [VRF.pred, MTF.tileA, MTF.tileB]
theorem Laws.RoundTrip.vsetl (o : VSetlOp) : Laws.RoundTrip.Statement (.vsetl o) := by
  intro hw
  simp [Instr.wf] at hw
  refine ⟨rfl, by
      have hb : o.d < 768#10 := by bv_omega
      simp_all [specBad, vSpecBad, badReg], ?_⟩
  change (let f := VRF.of _; do pure (.vsetl ⟨f.d, f.a.setWidth 6, ← ETy.ofCode f.ty, f.imm⟩) : Option Instr) = some _
  simp_all [VRF.pred, MTF.tileA, MTF.tileB]
theorem Laws.RoundTrip.vtpose (o : VTposeOp) : Laws.RoundTrip.Statement (.vtpose o) := by
  intro hw
  simp [Instr.wf] at hw
  refine ⟨rfl, by
      have hd : o.d < 768#10 := runOk_lt o.d o.ty hw.1.2
      have ha : o.a < 768#10 := runOk_lt o.a o.ty hw.2
      simp_all [specBad, vSpecBad, badReg], ?_⟩
  change (let f := VRF.of _; do pure (.vtpose ⟨f.d, f.a, ← ETy.ofCode f.ty⟩) : Option Instr) = some _
  simp_all [VRF.pred, MTF.tileA, MTF.tileB]
theorem Laws.RoundTrip.viota (o : VIotaOp) : Laws.RoundTrip.Statement (.viota o) := by
  intro hw
  simp [Instr.wf] at hw
  refine ⟨rfl, by simp_all [specBad, vSpecBad, VRF.pred, MTF.tileA, MTF.tileB, badReg], ?_⟩
  change (let f := VRF.of _
    if f.sub == 0 then do pure (.viota ⟨← VDst.of f.d, f.pred, ← ETy.ofCode f.ty, f.imm⟩)
    else if f.sub == 1 then do pure (.viotaCnt ⟨← VDst.of f.d, f.pred, ← ETy.ofCode f.ty, f.imm⟩)
    else none : Option Instr) = some _
  simp_all [VRF.pred, MTF.tileA, MTF.tileB]
theorem Laws.RoundTrip.viotaCnt (o : VIotaOp) : Laws.RoundTrip.Statement (.viotaCnt o) := by
  intro hw
  simp [Instr.wf] at hw
  refine ⟨rfl, by simp_all [specBad, vSpecBad, VRF.pred, MTF.tileA, MTF.tileB, badReg], ?_⟩
  change (let f := VRF.of _
    if f.sub == 0 then do pure (.viota ⟨← VDst.of f.d, f.pred, ← ETy.ofCode f.ty, f.imm⟩)
    else if f.sub == 1 then do pure (.viotaCnt ⟨← VDst.of f.d, f.pred, ← ETy.ofCode f.ty, f.imm⟩)
    else none : Option Instr) = some _
  simp_all [VRF.pred, MTF.tileA, MTF.tileB]
theorem Laws.RoundTrip.vcompr (o : VComprOp) : Laws.RoundTrip.Statement (.vcompr o) := by
  intro hw
  simp [Instr.wf] at hw
  refine ⟨rfl, by simp_all [specBad, vSpecBad, VRF.pred, MTF.tileA, MTF.tileB, badReg], ?_⟩
  change (let f := VRF.of _; do pure (.vcompr ⟨← VDst.of f.d, ← VSrc.of f.a, f.p, ← ETy.ofCode f.ty⟩) : Option Instr) = some _
  simp_all [VRF.pred, MTF.tileA, MTF.tileB]
theorem Laws.RoundTrip.vexpnd (o : VX1) : Laws.RoundTrip.Statement (.vexpnd o) := by
  intro hw
  simp [Instr.wf] at hw
  refine ⟨rfl, by simp_all [specBad, vSpecBad, VRF.pred, MTF.tileA, MTF.tileB, badReg], ?_⟩
  change (let f := VRF.of _; do pure (.vexpnd ⟨← VDst.of f.d, ← VSrc.of f.a, f.pred, ← ETy.ofCode f.ty⟩) : Option Instr) = some _
  simp_all [VRF.pred, MTF.tileA, MTF.tileB]
theorem Laws.RoundTrip.vrsum (o : VRedOp) : Laws.RoundTrip.Statement (.vrsum o) := by
  intro hw
  simp [Instr.wf] at hw
  refine ⟨rfl, by simp_all [specBad, vSpecBad, VRF.pred, MTF.tileA, MTF.tileB, badReg], ?_⟩
  change (let f := VRF.of _; do pure (.vrsum ⟨← VDst.of f.d, ← VSrc.of f.a, f.p, ← ETy.ofCode f.ty, ← Rnd.ofCode f.rnd⟩) : Option Instr) = some _
  simp_all [VRF.pred, MTF.tileA, MTF.tileB]
theorem Laws.RoundTrip.vrmax (o : VRedOp) : Laws.RoundTrip.Statement (.vrmax o) := by
  intro hw
  simp [Instr.wf] at hw
  refine ⟨rfl, by simp_all [specBad, vSpecBad, VRF.pred, MTF.tileA, MTF.tileB, badReg], ?_⟩
  change (let f := VRF.of _; do pure (.vrmax ⟨← VDst.of f.d, ← VSrc.of f.a, f.p, ← ETy.ofCode f.ty, ← Rnd.ofCode f.rnd⟩) : Option Instr) = some _
  cases o with | mk d a p ty rm => simp_all
theorem Laws.RoundTrip.vrmin (o : VRedOp) : Laws.RoundTrip.Statement (.vrmin o) := by
  intro hw
  simp [Instr.wf] at hw
  refine ⟨rfl, by simp_all [specBad, vSpecBad, VRF.pred, MTF.tileA, MTF.tileB, badReg], ?_⟩
  change (let f := VRF.of _; do pure (.vrmin ⟨← VDst.of f.d, ← VSrc.of f.a, f.p, ← ETy.ofCode f.ty, ← Rnd.ofCode f.rnd⟩) : Option Instr) = some _
  cases o with | mk d a p ty rm => simp_all
theorem Laws.RoundTrip.vramax (o : VRedOp) : Laws.RoundTrip.Statement (.vramax o) := by
  intro hw
  simp [Instr.wf] at hw
  refine ⟨rfl, by simp_all [specBad, vSpecBad, VRF.pred, MTF.tileA, MTF.tileB, badReg], ?_⟩
  change (let f := VRF.of _; do pure (.vramax ⟨← VDst.of f.d, ← VSrc.of f.a, f.p, ← ETy.ofCode f.ty, ← Rnd.ofCode f.rnd⟩) : Option Instr) = some _
  cases o with | mk d a p ty rm => simp_all
theorem Laws.RoundTrip.vscan (o : VScanOp) : Laws.RoundTrip.Statement (.vscan o) := by
  intro hw
  simp [Instr.wf] at hw
  refine ⟨rfl, by simp_all [specBad, vSpecBad, VRF.pred, MTF.tileA, MTF.tileB, badReg], ?_⟩
  change (let f := VRF.of _; do pure (.vscan ⟨← VDst.of f.d, ← VSrc.of f.a, f.pred, ← ETy.ofCode f.ty, ← Rnd.ofCode f.rnd⟩) : Option Instr) = some _
  simp_all [VRF.pred, MTF.tileA, MTF.tileB]
theorem Laws.RoundTrip.vrsumw (o : VRedOp) : Laws.RoundTrip.Statement (.vrsumw o) := by
  intro hw
  simp [Instr.wf] at hw
  refine ⟨rfl, by simp_all [specBad, vSpecBad, VRF.pred, MTF.tileA, MTF.tileB, badReg], ?_⟩
  change (let f := VRF.of _; do pure (.vrsumw ⟨← VDst.of f.d, ← VSrc.of f.a, f.p, ← ETy.ofCode f.ty, ← Rnd.ofCode f.rnd⟩) : Option Instr) = some _
  simp_all [VRF.pred, MTF.tileA, MTF.tileB]
theorem Laws.RoundTrip.pand (o : P3) : Laws.RoundTrip.Statement (.pand o) := by
  intro hw
  simp [Instr.wf] at hw
  refine ⟨rfl, by simp_all [specBad, vSpecBad, VRF.pred, MTF.tileA, MTF.tileB, badReg], ?_⟩
  change (let f := VRF.of _; do pure (.pand ⟨f.d.setWidth 6, f.a.setWidth 6, f.b.setWidth 6⟩) : Option Instr) = some _
  simp_all [VRF.pred, MTF.tileA, MTF.tileB]
theorem Laws.RoundTrip.por (o : P3) : Laws.RoundTrip.Statement (.por o) := by
  intro hw
  simp [Instr.wf] at hw
  refine ⟨rfl, by simp_all [specBad, vSpecBad, VRF.pred, MTF.tileA, MTF.tileB, badReg], ?_⟩
  change (let f := VRF.of _; do pure (.por ⟨f.d.setWidth 6, f.a.setWidth 6, f.b.setWidth 6⟩) : Option Instr) = some _
  simp_all [VRF.pred, MTF.tileA, MTF.tileB]
theorem Laws.RoundTrip.pxor (o : P3) : Laws.RoundTrip.Statement (.pxor o) := by
  intro hw
  simp [Instr.wf] at hw
  refine ⟨rfl, by simp_all [specBad, vSpecBad, VRF.pred, MTF.tileA, MTF.tileB, badReg], ?_⟩
  change (let f := VRF.of _; do pure (.pxor ⟨f.d.setWidth 6, f.a.setWidth 6, f.b.setWidth 6⟩) : Option Instr) = some _
  simp_all [VRF.pred, MTF.tileA, MTF.tileB]
theorem Laws.RoundTrip.pnot (o : P2) : Laws.RoundTrip.Statement (.pnot o) := by
  intro hw
  simp [Instr.wf] at hw
  refine ⟨rfl, by simp_all [specBad, vSpecBad, VRF.pred, MTF.tileA, MTF.tileB, badReg], ?_⟩
  change (let f := VRF.of _; do pure (.pnot ⟨f.d.setWidth 6, f.a.setWidth 6⟩) : Option Instr) = some _
  simp_all [VRF.pred, MTF.tileA, MTF.tileB]
theorem Laws.RoundTrip.pmov (o : P2) : Laws.RoundTrip.Statement (.pmov o) := by
  intro hw
  simp [Instr.wf] at hw
  refine ⟨rfl, by simp_all [specBad, vSpecBad, VRF.pred, MTF.tileA, MTF.tileB, badReg], ?_⟩
  change (let f := VRF.of _; do pure (.pmov ⟨f.d.setWidth 6, f.a.setWidth 6⟩) : Option Instr) = some _
  simp_all [VRF.pred, MTF.tileA, MTF.tileB]
theorem Laws.RoundTrip.pset (o : PsetOp) : Laws.RoundTrip.Statement (.pset o) := by
  intro hw
  simp [Instr.wf] at hw
  refine ⟨rfl, by simp_all [specBad, vSpecBad, VRF.pred, MTF.tileA, MTF.tileB, badReg], ?_⟩
  change (let f := VRF.of _; do pure (.pset ⟨f.d.setWidth 6, ← ETy.ofCode f.ty, ← PsetPat.ofCode f.sub, f.imm.extractLsb' 0 10⟩) : Option Instr) = some _
  simp_all [VRF.pred, MTF.tileA, MTF.tileB]
theorem Laws.RoundTrip.pfirst (o : PfirstOp) : Laws.RoundTrip.Statement (.pfirst o) := by
  intro hw
  simp [Instr.wf] at hw
  refine ⟨rfl, by simp_all [specBad, vSpecBad, VRF.pred, MTF.tileA, MTF.tileB, badReg], ?_⟩
  change (let f := VRF.of _; do pure (.pfirst ⟨f.d.setWidth 6, f.a.setWidth 6, ← ETy.ofCode f.ty⟩) : Option Instr) = some _
  simp_all [VRF.pred, MTF.tileA, MTF.tileB]
theorem Laws.RoundTrip.accz (o : AccOp) : Laws.RoundTrip.Statement (.accz o) := by
  intro hw
  refine ⟨rfl, rfl, ?_⟩
  change (let f := MTF.of _; some (.accz ⟨f.acc⟩) : Option Instr) = some _
  simp_all [VRF.pred, MTF.tileA, MTF.tileB]
theorem Laws.RoundTrip.accld (o : AccldOp) : Laws.RoundTrip.Statement (.accld o) := by
  intro hw
  refine ⟨rfl, rfl, ?_⟩
  change (let f := MTF.of _; do pure (.accld ⟨f.acc, f.tileA, ← ETy.ofCode f.aty, ← ETy.ofCode f.bty, f.kb⟩) : Option Instr) = some _
  simp_all [VRF.pred, MTF.tileA, MTF.tileB]
theorem Laws.RoundTrip.accst (o : AccstOp) : Laws.RoundTrip.Statement (.accst o) := by
  intro hw
  refine ⟨rfl, rfl, ?_⟩
  change (let f := MTF.of _; do pure (.accst ⟨f.acc, f.aslot, f.ak, ← ETy.ofCode f.aty, ← ETy.ofCode f.bty, f.kb, ← Rnd.ofCode f.rnd, f.sat == 1, f.blu == 1⟩) : Option Instr) = some _
  simp_all [VRF.pred, MTF.tileA, MTF.tileB]
theorem Laws.RoundTrip.mma (o : MmaOp) : Laws.RoundTrip.Statement (.mma o) := by
  intro hw
  refine ⟨rfl, rfl, ?_⟩
  change (let f := MTF.of _; do pure (.mma ⟨f.acc, f.tileA, f.tileB, ← ETy.ofCode f.aty, ← ETy.ofCode f.bty, f.kb⟩) : Option Instr) = some _
  simp_all [VRF.pred, MTF.tileA, MTF.tileB]
theorem Laws.RoundTrip.attq (o : AttqOp) : Laws.RoundTrip.Statement (.attq o) := by
  intro hw
  refine ⟨rfl, rfl, ?_⟩
  change (let f := MTF.of _; do pure (.attq ⟨f.acc, f.tileA, f.bk, ← ETy.ofCode f.aty, f.kb⟩) : Option Instr) = some _
  simp_all [VRF.pred, MTF.tileA, MTF.tileB]
theorem Laws.RoundTrip.attkv (o : MmaOp) : Laws.RoundTrip.Statement (.attkv o) := by
  intro hw
  refine ⟨rfl, rfl, ?_⟩
  change (let f := MTF.of _; do pure (.attkv ⟨f.acc, f.tileA, f.tileB, ← ETy.ofCode f.aty, ← ETy.ofCode f.bty, f.kb⟩) : Option Instr) = some _
  simp_all [VRF.pred, MTF.tileA, MTF.tileB]
theorem Laws.RoundTrip.attfin (o : AccOp) : Laws.RoundTrip.Statement (.attfin o) := by
  intro hw
  refine ⟨rfl, rfl, ?_⟩
  change (let f := MTF.of _; some (.attfin ⟨f.acc⟩) : Option Instr) = some _
  simp_all [VRF.pred, MTF.tileA, MTF.tileB]
theorem Laws.RoundTrip.attst (o : AttstOp) : Laws.RoundTrip.Statement (.attst o) := by
  intro hw
  refine ⟨rfl, rfl, ?_⟩
  change (let f := MTF.of _; do pure (.attst ⟨f.acc, f.aslot, f.ak, f.bslot, f.bk, ← ETy.ofCode f.aty, f.kb, ← Rnd.ofCode f.rnd, f.sat == 1⟩) : Option Instr) = some _
  simp_all [VRF.pred, MTF.tileA, MTF.tileB]
theorem Laws.RoundTrip.attmrg (o : AttmrgOp) : Laws.RoundTrip.Statement (.attmrg o) := by
  intro hw
  refine ⟨rfl, rfl, ?_⟩
  change (let f := MTF.of _; do pure (.attmrg ⟨f.acc, f.tileA, f.tileB, ← ETy.ofCode f.aty, f.kb⟩) : Option Instr) = some _
  simp_all [VRF.pred, MTF.tileA, MTF.tileB]
theorem Laws.RoundTrip.mstat (o : MstatOp) : Laws.RoundTrip.Statement (.mstat o) := by
  intro hw
  refine ⟨rfl, rfl, ?_⟩
  change (let f := MTF.of _; some (.mstat ⟨f.rnd.setWidth 1 ++ f.sat ++ f.apv ++ f.bpv ++ f.alu ++ f.blu⟩) : Option Instr) = some _
  cases o with | mk m => simp [mask_bits]
theorem Laws.RoundTrip.tbind (o : SlotAddr) : Laws.RoundTrip.Statement (.tbind o) := by
  intro hw
  refine ⟨rfl, by simp_all [specBad, aSpecBad], ?_⟩
  change (let f := ATF.of _; some (.tbind ⟨f.slot, f.sa, f.imm⟩) : Option Instr) = some _
  simp_all [VRF.pred, MTF.tileA, MTF.tileB]
theorem Laws.RoundTrip.tunb (o : SlotOp) : Laws.RoundTrip.Statement (.tunb o) := by
  intro hw
  refine ⟨rfl, by simp_all [specBad, aSpecBad], ?_⟩
  change (let f := ATF.of _; some (.tunb ⟨f.slot⟩) : Option Instr) = some _
  simp_all [VRF.pred, MTF.tileA, MTF.tileB]
theorem Laws.RoundTrip.tvacq (o : TvacqOp) : Laws.RoundTrip.Statement (.tvacq o) := by
  intro hw
  refine ⟨rfl, by simp_all [specBad, aSpecBad], ?_⟩
  change (let f := ATF.of _; do pure (.tvacq ⟨f.slot, f.sa, f.imm, ← Scope.ofCode (f.fn.extractLsb' 0 3)⟩) : Option Instr) = some _
  simp_all [VRF.pred, MTF.tileA, MTF.tileB]
theorem Laws.RoundTrip.tvbump (o : TvbumpOp) : Laws.RoundTrip.Statement (.tvbump o) := by
  intro hw
  refine ⟨rfl, by simp_all [specBad, aSpecBad], ?_⟩
  change (let f := ATF.of _; do pure (.tvbump ⟨f.slot, ← Scope.ofCode (f.fn.extractLsb' 0 3)⟩) : Option Instr) = some _
  simp_all [VRF.pred, MTF.tileA, MTF.tileB]
theorem Laws.RoundTrip.tfill (o : TileOp) : Laws.RoundTrip.Statement (.tfill o) := by
  intro hw
  refine ⟨rfl, by simp_all [specBad, aSpecBad], ?_⟩
  change (let f := ATF.of _; some (.tfill ⟨f.slot, f.k⟩) : Option Instr) = some _
  simp_all [VRF.pred, MTF.tileA, MTF.tileB]
theorem Laws.RoundTrip.tpref (o : TprefOp) : Laws.RoundTrip.Statement (.tpref o) := by
  intro hw
  refine ⟨rfl, by simp_all [specBad, aSpecBad], ?_⟩
  change (let f := ATF.of _; some (.tpref ⟨f.slot, f.sa, f.fn.extractLsb' 0 6, f.imm⟩) : Option Instr) = some _
  simp_all [VRF.pred, MTF.tileA, MTF.tileB]
theorem Laws.RoundTrip.tpin (o : TpinOp) : Laws.RoundTrip.Statement (.tpin o) := by
  intro hw
  refine ⟨rfl, by simp_all [specBad, aSpecBad], ?_⟩
  change (let f := ATF.of _; some (.tpin ⟨f.slot, f.k, f.sa, f.imm⟩) : Option Instr) = some _
  simp_all [VRF.pred, MTF.tileA, MTF.tileB]
theorem Laws.RoundTrip.tunpin (o : TileOp) : Laws.RoundTrip.Statement (.tunpin o) := by
  intro hw
  refine ⟨rfl, by simp_all [specBad, aSpecBad], ?_⟩
  change (let f := ATF.of _
    if f.fn == 0 then some (.tunpin ⟨f.slot, f.k⟩)
    else if f.fn == 4 then some (.tunpinSlot ⟨f.slot, f.k⟩)
    else none : Option Instr) = some _
  simp_all [VRF.pred, MTF.tileA, MTF.tileB]
theorem Laws.RoundTrip.tunpinSlot (o : TileOp) : Laws.RoundTrip.Statement (.tunpinSlot o) := by
  intro hw
  refine ⟨rfl, by simp_all [specBad, aSpecBad], ?_⟩
  change (let f := ATF.of _
    if f.fn == 0 then some (.tunpin ⟨f.slot, f.k⟩)
    else if f.fn == 4 then some (.tunpinSlot ⟨f.slot, f.k⟩)
    else none : Option Instr) = some _
  simp_all [VRF.pred, MTF.tileA, MTF.tileB]
theorem Laws.RoundTrip.thint (o : ThintOp) : Laws.RoundTrip.Statement (.thint o) := by
  intro hw
  refine ⟨rfl, by simp_all [specBad, aSpecBad], ?_⟩
  change (let f := ATF.of _
    if !f.fn.getLsbD 2 then do pure (.thint ⟨f.slot, f.k, ← Hint.ofCode (f.fn.extractLsb' 0 2)⟩)
    else if f.fn.getLsbD 2 then some (.thintSlot ⟨f.slot, f.k, f.fn.getLsbD 0⟩)
    else none : Option Instr) = some _
  cases o with | mk s k h => cases h <;> simp [Hint.code] <;> rfl
theorem Laws.RoundTrip.thintSlot (o : ThintSlotOp) : Laws.RoundTrip.Statement (.thintSlot o) := by
  intro hw
  refine ⟨rfl, by simp_all [specBad, aSpecBad], ?_⟩
  change (let f := ATF.of _
    if !f.fn.getLsbD 2 then do pure (.thint ⟨f.slot, f.k, ← Hint.ofCode (f.fn.extractLsb' 0 2)⟩)
    else if f.fn.getLsbD 2 then some (.thintSlot ⟨f.slot, f.k, f.fn.getLsbD 0⟩)
    else none : Option Instr) = some _
  cases o with | mk s k h => cases h <;> simp
theorem Laws.RoundTrip.twb (o : TileOp) : Laws.RoundTrip.Statement (.twb o) := by
  intro hw
  refine ⟨rfl, by simp_all [specBad, aSpecBad], ?_⟩
  change (let f := ATF.of _
    if f.fn == 0 then some (.twb ⟨f.slot, f.k⟩)
    else if f.fn == 4 then some (.twbSlot ⟨f.slot, f.k⟩)
    else none : Option Instr) = some _
  simp_all [VRF.pred, MTF.tileA, MTF.tileB]
theorem Laws.RoundTrip.twbSlot (o : TileOp) : Laws.RoundTrip.Statement (.twbSlot o) := by
  intro hw
  refine ⟨rfl, by simp_all [specBad, aSpecBad], ?_⟩
  change (let f := ATF.of _
    if f.fn == 0 then some (.twb ⟨f.slot, f.k⟩)
    else if f.fn == 4 then some (.twbSlot ⟨f.slot, f.k⟩)
    else none : Option Instr) = some _
  simp_all [VRF.pred, MTF.tileA, MTF.tileB]
theorem Laws.RoundTrip.tinv (o : TileOp) : Laws.RoundTrip.Statement (.tinv o) := by
  intro hw
  refine ⟨rfl, by simp_all [specBad, aSpecBad], ?_⟩
  change (let f := ATF.of _
    if f.fn == 0 then some (.tinv ⟨f.slot, f.k⟩)
    else if f.fn == 4 then some (.tinvSlot ⟨f.slot, f.k⟩)
    else none : Option Instr) = some _
  simp_all [VRF.pred, MTF.tileA, MTF.tileB]
theorem Laws.RoundTrip.tinvSlot (o : TileOp) : Laws.RoundTrip.Statement (.tinvSlot o) := by
  intro hw
  refine ⟨rfl, by simp_all [specBad, aSpecBad], ?_⟩
  change (let f := ATF.of _
    if f.fn == 0 then some (.tinv ⟨f.slot, f.k⟩)
    else if f.fn == 4 then some (.tinvSlot ⟨f.slot, f.k⟩)
    else none : Option Instr) = some _
  simp_all [VRF.pred, MTF.tileA, MTF.tileB]
theorem Laws.RoundTrip.tcopy (o : TcopyOp) : Laws.RoundTrip.Statement (.tcopy o) := by
  intro hw
  refine ⟨rfl, by simp_all [specBad, aSpecBad], ?_⟩
  change (let f := ATF.of _; some (.tcopy ⟨f.slot, f.k, f.imm.extractLsb' 0 10, f.imm.extractLsb' 10 5, peerOf (f.imm.extractLsb' 17 1) (f.imm.extractLsb' 15 2), f.imm.getLsbD 18⟩) : Option Instr) = some _
  simp only [ATF.of_bits]
  change some (Instr.tcopy ⟨_, _, (tcopyImm (BitVec.ofBool o.lu) (BitVec.ofBool o.peer.isSome) (peerCode o.peer) o.sk o.sslot).extractLsb' 0 10, (tcopyImm (BitVec.ofBool o.lu) (BitVec.ofBool o.peer.isSome) (peerCode o.peer) o.sk o.sslot).extractLsb' 10 5,
    peerOf ((tcopyImm (BitVec.ofBool o.lu) (BitVec.ofBool o.peer.isSome) (peerCode o.peer) o.sk o.sslot).extractLsb' 17 1) ((tcopyImm (BitVec.ofBool o.lu) (BitVec.ofBool o.peer.isSome) (peerCode o.peer) o.sk o.sslot).extractLsb' 15 2),
    (tcopyImm (BitVec.ofBool o.lu) (BitVec.ofBool o.peer.isSome) (peerCode o.peer) o.sk o.sslot).getLsbD 18⟩) = some _
  simp only [tcopyImm_slot, tcopyImm_k, tcopyImm_pv, tcopyImm_peer, tcopyImm_lu, peerOf_code]
theorem Laws.RoundTrip.gset (o : GsetOp) : Laws.RoundTrip.Statement (.gset o) := by
  intro hw
  refine ⟨rfl, by simp_all [specBad, aSpecBad], ?_⟩
  change (let f := ATF.of _; some (.gset ⟨f.g, f.sa, f.imm⟩) : Option Instr) = some _
  simp_all [VRF.pred, MTF.tileA, MTF.tileB]
theorem Laws.RoundTrip.grun (o : GrunOp) : Laws.RoundTrip.Statement (.grun o) := by
  intro hw
  refine ⟨rfl, by simp_all [specBad, aSpecBad], ?_⟩
  change (let f := ATF.of _; some (.grun ⟨f.g, f.q.setWidth 3, f.fn.getLsbD 0, f.fn.getLsbD 1⟩) : Option Instr) = some _
  simp_all [VRF.pred, MTF.tileA, MTF.tileB]
theorem Laws.RoundTrip.gsto (o : GstoOp) : Laws.RoundTrip.Statement (.gsto o) := by
  intro hw
  refine ⟨rfl, by simp_all [specBad, aSpecBad], ?_⟩
  change (let f := ATF.of _; some (.gsto ⟨f.g, f.q.setWidth 2, f.fn.getLsbD 0, f.fn.getLsbD 1⟩) : Option Instr) = some _
  simp_all [VRF.pred, MTF.tileA, MTF.tileB]
theorem Laws.RoundTrip.gstop (o : GOp) : Laws.RoundTrip.Statement (.gstop o) := by
  intro hw
  refine ⟨rfl, by simp_all [specBad, aSpecBad], ?_⟩
  change (let f := ATF.of _; some (.gstop ⟨f.g⟩) : Option Instr) = some _
  simp_all [VRF.pred, MTF.tileA, MTF.tileB]
theorem Laws.RoundTrip.qclr (o : QclrOp) : Laws.RoundTrip.Statement (.qclr o) := by
  intro hw
  refine ⟨rfl, by
      have hq : o.q < 12#4 := by simp [Instr.wf] at hw; bv_omega
      simp_all [specBad, aSpecBad], ?_⟩
  change (let f := ATF.of _; some (.qclr ⟨f.q⟩) : Option Instr) = some _
  simp_all [VRF.pred, MTF.tileA, MTF.tileB]
theorem Laws.RoundTrip.ldx (o : LdxOp) : Laws.RoundTrip.Statement (.ldx o) := by
  intro hw
  refine ⟨rfl, by simp_all [specBad, aSpecBad], ?_⟩
  change (let f := ATF.of _
    if f.fn == 0 then some (.ldx ⟨f.i, f.sa, f.sb, f.imm⟩)
    else if f.fn.getLsbD 0 then some (.ldxBt ⟨f.i, f.sa, f.sb, f.imm, f.fn.getLsbD 1⟩)
    else none : Option Instr) = some _
  simp_all [VRF.pred, MTF.tileA, MTF.tileB]
theorem Laws.RoundTrip.ldxBt (o : LdxBtOp) : Laws.RoundTrip.Statement (.ldxBt o) := by
  intro hw
  refine ⟨rfl, by simp_all [specBad, aSpecBad], ?_⟩
  change (let f := ATF.of _
    if f.fn == 0 then some (.ldx ⟨f.i, f.sa, f.sb, f.imm⟩)
    else if f.fn.getLsbD 0 then some (.ldxBt ⟨f.i, f.sa, f.sb, f.imm, f.fn.getLsbD 1⟩)
    else none : Option Instr) = some _
  cases o with | mk i sa sb b p => cases p <;> simp
theorem Laws.RoundTrip.gatherLin (o : GatherOp) : Laws.RoundTrip.Statement (.gatherLin o) := by
  intro hw
  refine ⟨rfl, by simp_all [specBad, aSpecBad], ?_⟩
  change (let f := ATF.of _
    if f.fn == 0 then do pure (.gatherLin ⟨f.g, f.i, f.q.setWidth 3, f.sa, f.sb, ← ETy.ofCode f.ty, f.imm.setWidth 9⟩)
    else if f.fn == 1 then do pure (.gatherPaged ⟨f.g, f.i, f.q.setWidth 3, f.sa, f.sb, ← ETy.ofCode f.ty, f.imm.setWidth 9⟩)
    else if f.fn == 2 then some (.gatherIdx ⟨f.g, f.i, f.q.setWidth 3⟩)
    else none : Option Instr) = some _
  simp_all [VRF.pred, MTF.tileA, MTF.tileB]
theorem Laws.RoundTrip.gatherPaged (o : GatherOp) : Laws.RoundTrip.Statement (.gatherPaged o) := by
  intro hw
  refine ⟨rfl, by simp_all [specBad, aSpecBad], ?_⟩
  change (let f := ATF.of _
    if f.fn == 0 then do pure (.gatherLin ⟨f.g, f.i, f.q.setWidth 3, f.sa, f.sb, ← ETy.ofCode f.ty, f.imm.setWidth 9⟩)
    else if f.fn == 1 then do pure (.gatherPaged ⟨f.g, f.i, f.q.setWidth 3, f.sa, f.sb, ← ETy.ofCode f.ty, f.imm.setWidth 9⟩)
    else if f.fn == 2 then some (.gatherIdx ⟨f.g, f.i, f.q.setWidth 3⟩)
    else none : Option Instr) = some _
  simp_all [VRF.pred, MTF.tileA, MTF.tileB]
theorem Laws.RoundTrip.gatherIdx (o : GatherIdxOp) : Laws.RoundTrip.Statement (.gatherIdx o) := by
  intro hw
  refine ⟨rfl, by simp_all [specBad, aSpecBad], ?_⟩
  change (let f := ATF.of _
    if f.fn == 0 then do pure (.gatherLin ⟨f.g, f.i, f.q.setWidth 3, f.sa, f.sb, ← ETy.ofCode f.ty, f.imm.setWidth 9⟩)
    else if f.fn == 1 then do pure (.gatherPaged ⟨f.g, f.i, f.q.setWidth 3, f.sa, f.sb, ← ETy.ofCode f.ty, f.imm.setWidth 9⟩)
    else if f.fn == 2 then some (.gatherIdx ⟨f.g, f.i, f.q.setWidth 3⟩)
    else none : Option Instr) = some _
  simp_all [VRF.pred, MTF.tileA, MTF.tileB]
theorem Laws.RoundTrip.scatterLin (o : ScatterOp) : Laws.RoundTrip.Statement (.scatterLin o) := by
  intro hw
  refine ⟨rfl, by simp_all [specBad, aSpecBad], ?_⟩
  change (let f := ATF.of _
    if f.fn == 0 then do pure (.scatterLin ⟨f.g, f.i, f.q.setWidth 2, f.sa, f.sb, ← ETy.ofCode f.ty, f.imm.setWidth 9⟩)
    else if f.fn == 1 then do pure (.scatterPaged ⟨f.g, f.i, f.q.setWidth 2, f.sa, f.sb, ← ETy.ofCode f.ty, f.imm.setWidth 9⟩)
    else none : Option Instr) = some _
  simp_all [VRF.pred, MTF.tileA, MTF.tileB]
theorem Laws.RoundTrip.scatterPaged (o : ScatterOp) : Laws.RoundTrip.Statement (.scatterPaged o) := by
  intro hw
  refine ⟨rfl, by simp_all [specBad, aSpecBad], ?_⟩
  change (let f := ATF.of _
    if f.fn == 0 then do pure (.scatterLin ⟨f.g, f.i, f.q.setWidth 2, f.sa, f.sb, ← ETy.ofCode f.ty, f.imm.setWidth 9⟩)
    else if f.fn == 1 then do pure (.scatterPaged ⟨f.g, f.i, f.q.setWidth 2, f.sa, f.sb, ← ETy.ofCode f.ty, f.imm.setWidth 9⟩)
    else none : Option Instr) = some _
  simp_all [VRF.pred, MTF.tileA, MTF.tileB]
theorem Laws.RoundTrip.tzero (o : TileOp) : Laws.RoundTrip.Statement (.tzero o) := by
  intro hw
  refine ⟨rfl, by simp_all [specBad, aSpecBad], ?_⟩
  change (let f := ATF.of _; some (.tzero ⟨f.slot, f.k⟩) : Option Instr) = some _
  simp_all [VRF.pred, MTF.tileA, MTF.tileB]
theorem Laws.RoundTrip.rld (o : RldOp) : Laws.RoundTrip.Statement (.rld o) := by
  intro hw
  refine ⟨rfl, rfl, ?_⟩
  change (let f := FRF.of _; do let o : RldOp ← (do let m ← memFnOf f.fn; pure ⟨f.die, f.sa, f.sc, f.sd, f.imm, m.1, m.2.1, m.2.2, f.cls == 1⟩); pure (.rld o) : Option Instr) = some _
  simp_all [VRF.pred, MTF.tileA, MTF.tileB]
theorem Laws.RoundTrip.rst (o : RstOp) : Laws.RoundTrip.Statement (.rst o) := by
  intro hw
  refine ⟨rfl, rfl, ?_⟩
  change (let f := FRF.of _; do let o : RstOp ← (do let m ← memFnOf f.fn; pure ⟨f.die, f.sa, f.sb, f.sc, f.imm, m.1, m.2.1, m.2.2, f.cls == 1⟩); pure (.rst o) : Option Instr) = some _
  simp_all [VRF.pred, MTF.tileA, MTF.tileB]
theorem Laws.RoundTrip.ramo (o : RamoOp) : Laws.RoundTrip.Statement (.ramo o) := by
  intro hw
  refine ⟨rfl, rfl, ?_⟩
  change (let f := FRF.of _; do let o : RamoOp ← (do let m ← memFnOf f.fn; pure ⟨← AmoOp.ofCode (f.imm.extractLsb' 0 4), f.die, f.sa, f.sb, f.sc, f.sd, m.1, m.2.1, m.2.2, f.cls == 1⟩); pure (.ramo o) : Option Instr) = some _
  simp_all [VRF.pred, MTF.tileA, MTF.tileB]
theorem Laws.RoundTrip.rcas (o : RcasOp) : Laws.RoundTrip.Statement (.rcas o) := by
  intro hw
  refine ⟨rfl, rfl, ?_⟩
  change (let f := FRF.of _; do let o : RcasOp ← (do let m ← memFnOf f.fn; pure ⟨f.die, f.sa, f.sb, f.sc, f.sd, m.1, m.2.1, m.2.2, f.cls == 1⟩); pure (.rcas o) : Option Instr) = some _
  simp_all [VRF.pred, MTF.tileA, MTF.tileB]
theorem Laws.RoundTrip.rsig (o : RsigOp) : Laws.RoundTrip.Statement (.rsig o) := by
  intro hw
  refine ⟨rfl, rfl, ?_⟩
  change (let f := FRF.of _; some (.rsig ⟨f.die, f.sa, f.sb, f.sc, f.tsem, f.imm.setWidth 16, f.cls == 1⟩) : Option Instr) = some _
  simp_all [VRF.pred, MTF.tileA, MTF.tileB]
theorem Laws.RoundTrip.rput (o : RbulkOp) : Laws.RoundTrip.Statement (.rput o) := by
  intro hw
  refine ⟨rfl, rfl, ?_⟩
  change (let f := FRF.of _; some (.rput ⟨f.die, f.sa, f.sb, f.sc, f.sd, f.cls == 1⟩) : Option Instr) = some _
  simp_all [VRF.pred, MTF.tileA, MTF.tileB]
theorem Laws.RoundTrip.rget (o : RbulkOp) : Laws.RoundTrip.Statement (.rget o) := by
  intro hw
  refine ⟨rfl, rfl, ?_⟩
  change (let f := FRF.of _; some (.rget ⟨f.die, f.sa, f.sb, f.sc, f.sd, f.cls == 1⟩) : Option Instr) = some _
  simp_all [VRF.pred, MTF.tileA, MTF.tileB]
theorem Laws.RoundTrip.grpset (o : GrpsetOp) : Laws.RoundTrip.Statement (.grpset o) := by
  intro hw
  refine ⟨rfl, rfl, ?_⟩
  change (let f := FRF.of _; some (.grpset ⟨f.sd, f.sa, f.imm, f.fn.setWidth 4⟩) : Option Instr) = some _
  simp_all [VRF.pred, MTF.tileA, MTF.tileB]
theorem Laws.RoundTrip.grpstat (o : GrpstatOp) : Laws.RoundTrip.Statement (.grpstat o) := by
  intro hw
  refine ⟨rfl, rfl, ?_⟩
  change (let f := FRF.of _; some (.grpstat ⟨f.sd, f.fn.setWidth 4⟩) : Option Instr) = some _
  simp_all [VRF.pred, MTF.tileA, MTF.tileB]
theorem Laws.RoundTrip.mldred (o : MldredOp) : Laws.RoundTrip.Statement (.mldred o) := by
  intro hw
  refine ⟨rfl, rfl, ?_⟩
  change (let f := FRF.of _; some (.mldred ⟨f.sa, f.sb, f.fn.setWidth 4⟩) : Option Instr) = some _
  simp_all [VRF.pred, MTF.tileA, MTF.tileB]
theorem Laws.RoundTrip.mcast (o : McastOp) : Laws.RoundTrip.Statement (.mcast o) := by
  intro hw
  refine ⟨rfl, rfl, ?_⟩
  change (let f := FRF.of _; some (.mcast ⟨f.sa, f.sb, f.sd, f.fn.setWidth 4, f.cls == 1⟩) : Option Instr) = some _
  simp_all [VRF.pred, MTF.tileA, MTF.tileB]
theorem Laws.RoundTrip.jcopy (o : JsubOp) : Laws.RoundTrip.Statement (.jcopy o) := by
  intro hw
  refine ⟨rfl, rfl, ?_⟩
  change (let f := JCF.of _; some (.jcopy ⟨f.scard, f.sd, f.imm⟩) : Option Instr) = some _
  simp_all [VRF.pred, MTF.tileA, MTF.tileB]
theorem Laws.RoundTrip.jfill (o : JsubOp) : Laws.RoundTrip.Statement (.jfill o) := by
  intro hw
  refine ⟨rfl, rfl, ?_⟩
  change (let f := JCF.of _; some (.jfill ⟨f.scard, f.sd, f.imm⟩) : Option Instr) = some _
  simp_all [VRF.pred, MTF.tileA, MTF.tileB]
theorem Laws.RoundTrip.jsel (o : JsubOp) : Laws.RoundTrip.Statement (.jsel o) := by
  intro hw
  refine ⟨rfl, rfl, ?_⟩
  change (let f := JCF.of _; some (.jsel ⟨f.scard, f.sd, f.imm⟩) : Option Instr) = some _
  simp_all [VRF.pred, MTF.tileA, MTF.tileB]
theorem Laws.RoundTrip.jpage (o : JsubOp) : Laws.RoundTrip.Statement (.jpage o) := by
  intro hw
  refine ⟨rfl, rfl, ?_⟩
  change (let f := JCF.of _; some (.jpage ⟨f.scard, f.sd, f.imm⟩) : Option Instr) = some _
  simp_all [VRF.pred, MTF.tileA, MTF.tileB]
theorem Laws.RoundTrip.jspan (o : JsubOp) : Laws.RoundTrip.Statement (.jspan o) := by
  intro hw
  refine ⟨rfl, rfl, ?_⟩
  change (let f := JCF.of _; some (.jspan ⟨f.scard, f.sd, f.imm⟩) : Option Instr) = some _
  simp_all [VRF.pred, MTF.tileA, MTF.tileB]
theorem Laws.RoundTrip.jcommit (o : JsubOp) : Laws.RoundTrip.Statement (.jcommit o) := by
  intro hw
  refine ⟨rfl, rfl, ?_⟩
  change (let f := JCF.of _; some (.jcommit ⟨f.scard, f.sd, f.imm⟩) : Option Instr) = some _
  simp_all [VRF.pred, MTF.tileA, MTF.tileB]
theorem Laws.RoundTrip.jtag (o : JsubOp) : Laws.RoundTrip.Statement (.jtag o) := by
  intro hw
  refine ⟨rfl, rfl, ?_⟩
  change (let f := JCF.of _; some (.jtag ⟨f.scard, f.sd, f.imm⟩) : Option Instr) = some _
  simp_all [VRF.pred, MTF.tileA, MTF.tileB]
theorem Laws.RoundTrip.jnode (o : JnodeOp) : Laws.RoundTrip.Statement (.jnode o) := by
  intro hw
  refine ⟨rfl, rfl, ?_⟩
  change (let f := JCF.of _; some (.jnode ⟨f.scard, f.sd, f.sa, f.imm⟩) : Option Instr) = some _
  simp_all [VRF.pred, MTF.tileA, MTF.tileB]
theorem Laws.RoundTrip.jwait (o : JhOp) : Laws.RoundTrip.Statement (.jwait o) := by
  intro hw
  refine ⟨rfl, rfl, ?_⟩
  change (let f := JCF.of _
    if f.fn == 0 then some (.jwait ⟨f.sd, f.sa⟩)
    else if f.fn == 1 then some (.jwaitAll ⟨f.sd, f.sa⟩)
    else none : Option Instr) = some _
  simp_all [VRF.pred, MTF.tileA, MTF.tileB]
theorem Laws.RoundTrip.jwaitAll (o : JhOp) : Laws.RoundTrip.Statement (.jwaitAll o) := by
  intro hw
  refine ⟨rfl, rfl, ?_⟩
  change (let f := JCF.of _
    if f.fn == 0 then some (.jwait ⟨f.sd, f.sa⟩)
    else if f.fn == 1 then some (.jwaitAll ⟨f.sd, f.sa⟩)
    else none : Option Instr) = some _
  simp_all [VRF.pred, MTF.tileA, MTF.tileB]
theorem Laws.RoundTrip.jstat (o : JhOp) : Laws.RoundTrip.Statement (.jstat o) := by
  intro hw
  refine ⟨rfl, rfl, ?_⟩
  change (let f := JCF.of _; some (.jstat ⟨f.sd, f.sa⟩) : Option Instr) = some _
  simp_all [VRF.pred, MTF.tileA, MTF.tileB]
theorem Laws.RoundTrip.jcancel (o : JhOp) : Laws.RoundTrip.Statement (.jcancel o) := by
  intro hw
  refine ⟨rfl, rfl, ?_⟩
  change (let f := JCF.of _; some (.jcancel ⟨f.sd, f.sa⟩) : Option Instr) = some _
  simp_all [VRF.pred, MTF.tileA, MTF.tileB]
theorem Laws.RoundTrip.syncX : Laws.RoundTrip.Statement .syncX := by
  intro _
  exact ⟨rfl, rfl, rfl⟩
theorem Laws.RoundTrip.ret : Laws.RoundTrip.Statement .ret := by
  intro _
  exact ⟨rfl, rfl, rfl⟩
theorem Laws.RoundTrip.rdv : Laws.RoundTrip.Statement .rdv := by
  intro _
  exact ⟨rfl, rfl, rfl⟩
theorem Laws.RoundTrip.exit : Laws.RoundTrip.Statement .exit := by
  intro _
  exact ⟨rfl, rfl, rfl⟩
theorem Laws.RoundTrip.fret : Laws.RoundTrip.Statement .fret := by
  intro _
  exact ⟨rfl, rfl, rfl⟩
theorem Laws.RoundTrip.syncS : Laws.RoundTrip.Statement .syncS := by
  intro _
  exact ⟨rfl, rfl, rfl⟩
theorem Laws.RoundTrip.fetchb : Laws.RoundTrip.Statement .fetchb := by
  intro _
  exact ⟨rfl, rfl, rfl⟩
theorem Laws.RoundTrip.barTeam : Laws.RoundTrip.Statement .barTeam := by
  intro _
  exact ⟨rfl, rfl, rfl⟩
theorem Laws.RoundTrip.barDie : Laws.RoundTrip.Statement .barDie := by
  intro _
  exact ⟨rfl, rfl, rfl⟩
theorem Laws.RoundTrip.barModule : Laws.RoundTrip.Statement .barModule := by
  intro _
  exact ⟨rfl, rfl, rfl⟩
theorem Laws.RoundTrip.barDomain : Laws.RoundTrip.Statement .barDomain := by
  intro _
  exact ⟨rfl, rfl, rfl⟩
theorem Laws.RoundTrip.yield : Laws.RoundTrip.Statement .yield := by
  intro _
  exact ⟨rfl, rfl, rfl⟩
theorem Laws.RoundTrip.tlbinvAll : Laws.RoundTrip.Statement .tlbinvAll := by
  intro _
  exact ⟨rfl, rfl, rfl⟩
theorem Laws.RoundTrip.syncV : Laws.RoundTrip.Statement .syncV := by
  intro _
  exact ⟨rfl, rfl, rfl⟩
theorem Laws.RoundTrip.syncM : Laws.RoundTrip.Statement .syncM := by
  intro _
  exact ⟨rfl, rfl, rfl⟩
theorem Laws.RoundTrip.lease : Laws.RoundTrip.Statement .lease := by
  intro _
  exact ⟨rfl, rfl, rfl⟩
theorem Laws.RoundTrip.lrel : Laws.RoundTrip.Statement .lrel := by
  intro _
  exact ⟨rfl, rfl, rfl⟩
theorem Laws.RoundTrip.mburstStart : Laws.RoundTrip.Statement .mburstStart := by
  intro _
  exact ⟨rfl, rfl, rfl⟩
theorem Laws.RoundTrip.mburstEnd : Laws.RoundTrip.Statement .mburstEnd := by
  intro _
  exact ⟨rfl, rfl, rfl⟩
theorem Laws.RoundTrip.syncA : Laws.RoundTrip.Statement .syncA := by
  intro _
  exact ⟨rfl, rfl, rfl⟩
theorem Laws.RoundTrip.syncF : Laws.RoundTrip.Statement .syncF := by
  intro _
  exact ⟨rfl, rfl, rfl⟩
theorem Laws.RoundTrip.rfence : Laws.RoundTrip.Statement .rfence := by
  intro _
  exact ⟨rfl, rfl, rfl⟩
theorem Laws.RoundTrip.rwait : Laws.RoundTrip.Statement .rwait := by
  intro _
  exact ⟨rfl, rfl, rfl⟩
theorem Laws.RoundTrip.syncJ : Laws.RoundTrip.Statement .syncJ := by
  intro _
  exact ⟨rfl, rfl, rfl⟩
theorem Laws.RoundTrip.signalClause : Laws.RoundTrip.Statement .signalClause := trivial
theorem Laws.RoundTrip.rsigArrival : Laws.RoundTrip.Statement .rsigArrival := trivial
theorem Laws.RoundTrip.taskEnd : Laws.RoundTrip.Statement .taskEnd := trivial
theorem Laws.RoundTrip.replayExecute : Laws.RoundTrip.Statement .replayExecute := trivial
theorem Laws.RoundTrip.tileFill : Laws.RoundTrip.Statement .tileFill := trivial
theorem Laws.RoundTrip.tileWriteBack : Laws.RoundTrip.Statement .tileWriteBack := trivial
theorem Laws.RoundTrip.causalWriteApply : Laws.RoundTrip.Statement .causalWriteApply := trivial
theorem Laws.RoundTrip.controlNodeWrite : Laws.RoundTrip.Statement .controlNodeWrite := trivial
theorem Laws.RoundTrip.controlNodeRead : Laws.RoundTrip.Statement .controlNodeRead := trivial
theorem Laws.RoundTrip.mailboxCas : Laws.RoundTrip.Statement .mailboxCas := trivial
theorem Laws.RoundTrip.copyJob : Laws.RoundTrip.Statement .copyJob := trivial
theorem Laws.RoundTrip.fillJob : Laws.RoundTrip.Statement .fillJob := trivial
theorem Laws.RoundTrip.selectJob : Laws.RoundTrip.Statement .selectJob := trivial
theorem Laws.RoundTrip.pageJob : Laws.RoundTrip.Statement .pageJob := trivial
theorem Laws.RoundTrip.tagJob : Laws.RoundTrip.Statement .tagJob := trivial
theorem Laws.RoundTrip.spanKeep : Laws.RoundTrip.Statement .spanKeep := trivial
theorem Laws.RoundTrip.spanClose : Laws.RoundTrip.Statement .spanClose := trivial
theorem Laws.RoundTrip.spanCloseRot : Laws.RoundTrip.Statement .spanCloseRot := trivial
theorem Laws.RoundTrip.commitJob : Laws.RoundTrip.Statement .commitJob := trivial
theorem Laws.RoundTrip.commitRepair : Laws.RoundTrip.Statement .commitRepair := trivial
theorem Laws.RoundTrip.pendingFramePush : Laws.RoundTrip.Statement .pendingFramePush := trivial
theorem Laws.RoundTrip.generatorLoadEntry : Laws.RoundTrip.Statement .generatorLoadEntry := trivial
theorem Laws.RoundTrip.generatorStoreEntry : Laws.RoundTrip.Statement .generatorStoreEntry := trivial
theorem Laws.RoundTrip.versionReread : Laws.RoundTrip.Statement .versionReread := trivial
theorem Laws.RoundTrip.remoteRequest : Laws.RoundTrip.Statement .remoteRequest := trivial
theorem Laws.RoundTrip.remoteAck : Laws.RoundTrip.Statement .remoteAck := trivial
theorem Laws.RoundTrip.remoteTimeout : Laws.RoundTrip.Statement .remoteTimeout := trivial
theorem Laws.RoundTrip.deferredFailure : Laws.RoundTrip.Statement .deferredFailure := trivial
theorem Laws.RoundTrip.contributionArrival : Laws.RoundTrip.Statement .contributionArrival := trivial
theorem Laws.RoundTrip.episodeResult : Laws.RoundTrip.Statement .episodeResult := trivial
theorem Laws.RoundTrip.reduceTimeout : Laws.RoundTrip.Statement .reduceTimeout := trivial
theorem Laws.RoundTrip.leaseGrant : Laws.RoundTrip.Statement .leaseGrant := trivial
theorem Laws.RoundTrip.leaseQuantumExpiry : Laws.RoundTrip.Statement .leaseQuantumExpiry := trivial
theorem Laws.RoundTrip.arrayLevelStep : Laws.RoundTrip.Statement .arrayLevelStep := trivial
theorem Laws.RoundTrip.burstLapse : Laws.RoundTrip.Statement .burstLapse := trivial
theorem Laws.RoundTrip.rampDownStart : Laws.RoundTrip.Statement .rampDownStart := trivial
theorem Laws.RoundTrip.recordFetch : Laws.RoundTrip.Statement .recordFetch := trivial
theorem Laws.RoundTrip.eventWaitResolve : Laws.RoundTrip.Statement .eventWaitResolve := trivial
theorem Laws.RoundTrip.nodeDispatch : Laws.RoundTrip.Statement .nodeDispatch := trivial
theorem Laws.RoundTrip.waitMemoryPoll : Laws.RoundTrip.Statement .waitMemoryPoll := trivial
theorem Laws.RoundTrip.signalMemory : Laws.RoundTrip.Statement .signalMemory := trivial
theorem Laws.RoundTrip.fenceRecord : Laws.RoundTrip.Statement .fenceRecord := trivial
theorem Laws.RoundTrip.nopRecord : Laws.RoundTrip.Statement .nopRecord := trivial
theorem Laws.RoundTrip.recordCompletion : Laws.RoundTrip.Statement .recordCompletion := trivial
theorem Laws.RoundTrip.pendingLaunchEntry : Laws.RoundTrip.Statement .pendingLaunchEntry := trivial
theorem Laws.RoundTrip.agingTimer : Laws.RoundTrip.Statement .agingTimer := trivial
theorem Laws.RoundTrip.quantumExpiry : Laws.RoundTrip.Statement .quantumExpiry := trivial
theorem Laws.RoundTrip.safePointStop : Laws.RoundTrip.Statement .safePointStop := trivial
theorem Laws.RoundTrip.preemptDeadline : Laws.RoundTrip.Statement .preemptDeadline := trivial
theorem Laws.RoundTrip.teamResume : Laws.RoundTrip.Statement .teamResume := trivial
theorem Laws.RoundTrip.qcfgWrite : Laws.RoundTrip.Statement .qcfgWrite := trivial
theorem Laws.RoundTrip.wptrWrite : Laws.RoundTrip.Statement .wptrWrite := trivial
theorem Laws.RoundTrip.registerWrite : Laws.RoundTrip.Statement .registerWrite := trivial
theorem Laws.RoundTrip.faultDelivery : Laws.RoundTrip.Statement .faultDelivery := trivial
theorem Laws.RoundTrip.refusedAccessRetry : Laws.RoundTrip.Statement .refusedAccessRetry := trivial
theorem Laws.RoundTrip.packetRoute : Laws.RoundTrip.Statement .packetRoute := trivial
theorem Laws.RoundTrip.idleFlit : Laws.RoundTrip.Statement .idleFlit := trivial
theorem Laws.RoundTrip.linkSilence : Laws.RoundTrip.Statement .linkSilence := trivial
theorem Laws.RoundTrip.linkReplayLimit : Laws.RoundTrip.Statement .linkReplayLimit := trivial
theorem Laws.RoundTrip.dieLost : Laws.RoundTrip.Statement .dieLost := trivial
theorem Laws.RoundTrip.linkNoticeReceive : Laws.RoundTrip.Statement .linkNoticeReceive := trivial
theorem Laws.RoundTrip.pctlRetrain : Laws.RoundTrip.Statement .pctlRetrain := trivial
theorem Laws.RoundTrip.pctlDis : Laws.RoundTrip.Statement .pctlDis := trivial
theorem Laws.RoundTrip.linkTrainingDone : Laws.RoundTrip.Statement .linkTrainingDone := trivial
theorem Laws.RoundTrip.fepochWrite : Laws.RoundTrip.Statement .fepochWrite := trivial
theorem Laws.RoundTrip.windowTableWrite : Laws.RoundTrip.Statement .windowTableWrite := trivial
theorem Laws.RoundTrip.powerOn : Laws.RoundTrip.Statement .powerOn := trivial
theorem Laws.RoundTrip.resetRequest : Laws.RoundTrip.Statement .resetRequest := trivial
theorem Laws.RoundTrip.firmwareFetchRetry : Laws.RoundTrip.Statement .firmwareFetchRetry := trivial
theorem Laws.RoundTrip.firmwareImage : Laws.RoundTrip.Statement .firmwareImage := trivial
theorem Laws.RoundTrip.attestationRequest : Laws.RoundTrip.Statement .attestationRequest := trivial
theorem Laws.RoundTrip.sensorRefresh : Laws.RoundTrip.Statement .sensorRefresh := trivial
theorem Laws.RoundTrip.chronoExchange : Laws.RoundTrip.Statement .chronoExchange := trivial
theorem Laws.RoundTrip.referenceLoss : Laws.RoundTrip.Statement .referenceLoss := trivial

end Sys2Proof
end

