-- ==== Sys2Proof/Laws/Run.lean ====
section
/-! SUPPORT. What running a word comes to: when nothing keeps it, its effect between its beginning and its end; and every
way in which it can answer a next state. -/

namespace Sys2Proof.Machine

/-! ## The beginning of a word -/

/-- The beginning of a word changes its task at most, and the record of the order of accesses. -/
theorem State.begun_eq (s : State) (t : Task) : s.begun t = { s with cores := (s.begun t).cores, order := (s.begun t).order } := by
  unfold State.begun
  split
  · rw [State.meetWait_only]; rfl
  · rw [State.metOnce_only]
  · rfl
@[simp] theorem State.begun_cur (s : State) (t : Task) : (s.begun t).cur = s.cur := by rw [State.begun_eq]
@[simp] theorem State.begun_mem (s : State) (t : Task) : (s.begun t).mem = s.mem := by rw [State.begun_eq]
@[simp] theorem State.begun_chrono (s : State) (t : Task) : (s.begun t).chrono = s.chrono := by rw [State.begun_eq]
@[simp] theorem State.begun_ctr (s : State) (t : Task) : (s.begun t).ctr = s.ctr := by rw [State.begun_eq]
@[simp] theorem State.begun_wb (s : State) (t : Task) : (s.begun t).wb = s.wb := by rw [State.begun_eq]
@[simp] theorem State.begun_dirty (s : State) (t : Task) : (s.begun t).dirty = s.dirty := by rw [State.begun_eq]

theorem Task.waitedFor_eq (t : Task) (w : WaitClause) : t.waitedFor w = { t with sem := (t.waitedFor w).sem } := rfl
theorem State.waited_eq (s : State) (t : Task) : s.waited t = { t with sem := (s.waited t).sem } := by
  unfold State.waited; split
  · exact Task.waitedFor_eq _ _
  · rfl
@[simp] theorem State.waited_strands (s : State) (t : Task) : (s.waited t).strands = t.strands := by
  rw [State.waited_eq]
@[simp] theorem State.waited_s (s : State) (t : Task) : (s.waited t).s = t.s := by
  rw [State.waited_eq]
@[simp] theorem State.waited_window (s : State) (t : Task) : (s.waited t).window = t.window := by
  rw [State.waited_eq]
@[simp] theorem State.waited_kernel (s : State) (t : Task) : (s.waited t).kernel = t.kernel := by
  rw [State.waited_eq]
@[simp] theorem State.waited_ctx (s : State) (t : Task) : (s.waited t).ctx = t.ctx := by
  rw [State.waited_eq]
theorem State.waited_strand (s : State) (t : Task) (e : Eng) : (s.waited t).strand e = t.strand e := by
  unfold Task.strand
  rw [State.waited_strands]

theorem State.task_begun (s : State) (t : Task) (h : s.task s.cur.core = some t) :
    (s.begun t).task s.cur.core = some (s.waited t) := by
  unfold State.begun
  split
  · rw [State.task_setTask]
  · rename_i w p hw hp
    rw [(State.metOnce_only ..).task, h]
    unfold State.waited
    split
    · rename_i hp'
      exact absurd hp' hp
    · rfl
  · rename_i hw
    rw [h]
    unfold State.waited
    rw [hw]

theorem State.task_begun_ne (s : State) (t : Task) (c : Nat) (h : c ≠ s.cur.core) : (s.begun t).task c = s.task c := by
  unfold State.begun
  split
  · rw [State.task_setTask_ne _ _ _ _ h, (State.meetWait_only ..).task]
  · rw [(State.metOnce_only ..).task]
  · rfl

/-- The gate of a word that nothing keeps (R20). -/
theorem State.gate_ready {s : State} {needs : Bool} {t : Task} (h : s.Ready needs t) :
    s.gate needs = .go (s.begun t) (s.waited t) (t.strand s.cur.eng) (s.env t) (t.depositAt (t.strand s.cur.eng)) := by
  unfold State.gate
  simp only [h.present, h.free, h.clear, h.within, h.settled, h.active, Bool.false_eq_true, if_false, Bool.not_false,
    Bool.and_self, Bool.true_and]
  have hf : (needs && s.cur.eng != .s && (t.depositAt (t.strand s.cur.eng)).isNone) = false := by
    rcases needs with _ | _
    · rfl
    · rcases h.fed rfl with he | hd
      · simp [he]
      · simp [hd]
  rw [hf]
  simp only [Bool.not_false, if_true]
  unfold State.begun State.waited State.env
  generalize hw : s.cur.clauses.wait = w
  generalize hp : (t.strand s.cur.eng).phase = p
  have hm := h.met
  rw [hw, hp] at hm
  cases w with
  | none => rfl
  | some w =>
    cases p
    · simp only [hm w rfl rfl, if_true]
    all_goals rfl

theorem Task.parkedOwn_waited (s : State) (t : Task) (e : Eng) : (s.waited t).parkedOwn e = t.parkedOwn e := by
  unfold Task.parkedOwn Task.inPart Task.forkBase
  rw [State.waited_eq]

/-- A word that nothing keeps: its effect, ended by State.finish, a fault of it behind its strand's parked words (R97). -/
theorem State.runWord_ready {s : State} {needs : Bool} {t : Task} (h : s.Ready needs t) (body : Env → State → Eff) :
    s.runWord needs body = State.finish s.cur.core s.cur.eng (t.strand s.cur.eng).pc
      (Eff.behind (s.begun t) (t.parkedOwn s.cur.eng) (body (s.env t) (s.begun t))) := by
  unfold State.runWord
  rw [State.gate_ready h]
  simp only [State.begun_cur, Task.parkedOwn_waited]

@[simp] theorem Eff.behind_done (s x : State) (b : Bool) : Eff.behind s b (.done x) = .done x := by cases b <;> rfl
@[simp] theorem Eff.behind_pend (s x : State) (b : Bool) (l : List Token) : Eff.behind s b (.pend x l) = .pend x l := by
  cases b <;> rfl
@[simp] theorem Eff.behind_wait (s x : State) (b : Bool) : Eff.behind s b (.wait x) = .wait x := by cases b <;> rfl
@[simp] theorem Eff.behind_refused (s x : State) (b : Bool) : Eff.behind s b (.refused x) = .refused x := by cases b <;> rfl
@[simp] theorem Eff.behind_fault (s x : State) (b : Bool) (f : FaultInfo) :
    Eff.behind s b (.fault x f) = if b then .wait s else .fault x f := by cases b <;> rfl

/-- A word that nothing keeps and that faults with no other effect. -/
theorem State.finish_faulted {s : State} {t : Task} (f : FaultInfo) :
    State.finish s.cur.core s.cur.eng (t.strand s.cur.eng).pc
      (Eff.behind (s.begun t) (t.parkedOwn s.cur.eng) (.fault (s.begun t) f)) = .next (s.faulted t f) := by
  rw [Eff.behind_fault]
  unfold State.faulted
  split <;> rfl

theorem State.env_s {s : State} {t : Task} (h : s.cur.eng = .s) :
    s.env t = ⟨t.s, t.k, t.fpctl, t.rrb, t.prb, (t.strand .s).pc, .s, t.runs, (t.strand .s).epoch, (t.strand .s).path⟩ := by
  unfold State.env Task.envOf
  rw [h]

/-- A ready word of the S strand that changes its task alone. -/
theorem State.runWord_after {s : State} {needs : Bool} {t : Task} (h : s.Ready needs t) (f : Env → Task → Task) :
    (s.runWord needs fun env s => .done (s.modTask s.cur.core (f env))) = .next (s.after t (f (s.env t))) := by
  rw [State.runWord_ready h, Eff.behind_done]
  simp only [State.finish, State.after, State.passed, State.begun_cur, State.modTask_cur]

/-! ## The scalar words -/

/-- A word that writes one s register. -/
theorem State.scalar_ready {s : State} {t : Task} (h : s.Ready false t) (he : s.cur.eng = .s) (d : SReg)
    (f : SMap Word → Word) : s.scalar d f = .next (s.after t fun u => u.sset d (f t.s)) := by
  unfold State.scalar
  rw [State.runWord_after h fun env u => u.sset d (f env.s), State.env_s he]

/-- A dividing word (R204). -/
theorem State.divide_ready {s : State} {t : Task} (h : s.Ready false t) (he : s.cur.eng = .s) (o : R3)
    (f : Word → Word → Word) : s.divide o f = .next (if sget t.s o.b = 0 then s.faulted t { cause := .intDivzero }
      else s.after t fun u => u.sset o.d (f (sget t.s o.a) (sget t.s o.b))) := by
  unfold State.divide
  rw [State.runWord_ready h, State.env_s he]
  split
  · exact State.finish_faulted _
  · rw [Eff.behind_done]
    simp only [State.finish, State.after, State.passed, State.begun_cur, State.modTask_cur]

end Sys2Proof.Machine
end

