-- ==== Sys2Proof/Laws/Seq.lean ====
section
/-! SUPPORT. Sequencing: what the gate and the end of a word change, and so everything a word can change but through its
own effect. -/

namespace Sys2Proof.Machine

/-! ## Of a task -/

theorem Task.SameRest.rfl (t : Task) : t.SameRest t := by constructor <;> simp
theorem Task.SameRest.trans {t u v : Task} (h : t.SameRest u) (g : u.SameRest v) : t.SameRest v := by
  obtain ⟨h1, h2, h3, h4, h5, h6⟩ := h
  obtain ⟨g1, g2, g3, g4, g5, g6⟩ := g
  constructor <;> simp [*]
/-- A strand is itself but for what it waits for. -/
theorem Strand.likeSelf (x : Strand) : ∃ w p, x = { x with waiting := w, phase := p } := ⟨x.waiting, x.phase, by cases x; trivial⟩
theorem Task.strand_setStrand_ne (t : Task) (e y : Eng) (x : Strand) (h : Eng.num y ≠ Eng.num e) :
    (t.setStrand e x).strand y = t.strand y := by
  unfold Task.strand Task.setStrand
  rw [SMap.look_put, if_neg h]
theorem Task.strand_setStrand_eq (t : Task) (e y : Eng) (x : Strand) (h : Eng.num y = Eng.num e) :
    (t.setStrand e x).strand y = x := by
  unfold Task.strand Task.setStrand
  rw [SMap.look_put, if_pos h]
theorem Task.Seq.rfl (t : Task) (e : Eng) (cl : Clauses) : t.Seq t e cl :=
  ⟨Task.SameRest.rfl t, by simp, by simp, by simp, by simp, by simp, fun y _ => Strand.likeSelf (t.strand y)⟩
theorem Task.Seq.trans {t u v : Task} {e : Eng} {cl : Clauses} (h : t.Seq u e cl) (g : u.Seq v e cl) : t.Seq v e cl := by
  obtain ⟨h1, h2, h3, h4, h5, h6, h7⟩ := h
  obtain ⟨g1, g2, g3, g4, g5, g6, g7⟩ := g
  refine ⟨h1.trans g1, g2.trans h2, g3.trans h3, fun he => (g4 he).trans (h4 he), fun he => ?_, fun n hn => ?_, fun y hn => ?_⟩
  · exact ⟨(g5 he).1.trans (h5 he).1, (g5 he).2.trans (h5 he).2⟩
  · exact (g6 n hn).trans (h6 n hn)
  · obtain ⟨w, p, hw⟩ := h7 y hn
    obtain ⟨w', p', hp⟩ := g7 y hn
    exact ⟨w', p', by rw [hp, hw]⟩

theorem Task.seq_setStrand (t : Task) (e : Eng) (cl : Clauses) (x : Strand) : t.Seq (t.setStrand e x) e cl := by
  refine ⟨by constructor <;> simp, by simp, by simp, by simp, by simp, by simp [Task.semOf], fun y hn => ?_⟩
  rw [Task.strand_setStrand_ne t e y x hn]
  exact Strand.likeSelf _

theorem Task.applyCtl_seq (t : Task) (w : CtlWrite) (e : Eng) (cl : Clauses) : t.Seq (t.applyCtl w) e cl := by
  unfold Task.applyCtl
  split <;> exact ⟨by constructor <;> simp, by simp, by simp, by simp, by simp, by simp [Task.semOf], fun y _ => Strand.likeSelf (t.strand y)⟩

theorem settleList_seq (t : Task) (e : Eng) (cl : Clauses) (l : List Deposit) : t.Seq (settleList t l).1 e cl := by
  induction l with
  | nil => exact Task.Seq.rfl t e cl
  | cons d l ih =>
    simp only [settleList]
    generalize settleList t l = r at ih ⊢
    obtain ⟨u, m⟩ := r
    refine ih.trans ?_
    generalize d.ctl.filter (u.met d) = ws
    clear ih
    induction ws generalizing u with
    | nil => exact Task.Seq.rfl u e cl
    | cons w ws ih => exact (Task.applyCtl_seq u w e cl).trans (ih _)

theorem Task.settle_seq (t : Task) (e : Eng) (cl : Clauses) : t.Seq t.settle e cl := by
  have h := settleList_seq t e cl t.window
  unfold Task.settle
  generalize settleList t t.window = r at h ⊢
  obtain ⟨u, l⟩ := r
  refine h.trans ?_
  exact ⟨by constructor <;> simp, by simp, by simp, by simp, by simp, by simp [Task.semOf], fun y _ => Strand.likeSelf _⟩

theorem Task.endPass_seq (t : Task) (e : Eng) (m : LoopM) (cl : Clauses) : t.Seq (t.endPass e m) e cl := by
  unfold Task.endPass
  split
  · exact ⟨by constructor <;> simp, by simp, by simp, by simp, by simp, by simp [Task.semOf], fun y _ => Strand.likeSelf (t.strand y)⟩
  · split
    · unfold Task.writeGuard
      split
      · exact Task.Seq.rfl _ _ _
      · exact ⟨by constructor <;> simp, by simp, by simp, by simp, by simp, by simp [Task.semOf], fun y _ => Strand.likeSelf (t.strand y)⟩
    · exact Task.Seq.rfl _ _ _
  · exact Task.Seq.rfl _ _ _

theorem Task.fall_seq (t : Task) (e : Eng) (cl : Clauses) : t.Seq (t.fall e) e cl := by
  unfold Task.fall
  generalize endTest (t.strand e).depth (t.strand e).pc ((t.strand e).pc + 16) (t.strand e).loops = r
  obtain ⟨l, pc, m⟩ := r
  simp only
  refine Task.Seq.trans ?_ (Task.settle_seq _ e cl)
  split
  · exact (Task.seq_setStrand t e cl _).trans (Task.endPass_seq _ _ _ _)
  · exact Task.seq_setStrand t e cl _

theorem Task.moveTo_seq (t : Task) (e : Eng) (x : Strand) (cl : Clauses) : t.Seq (t.moveTo e x) e cl :=
  (Task.seq_setStrand t e cl _).trans (Task.settle_seq _ e cl)

theorem Task.setSem_seq (t : Task) (e : Eng) (cl : Clauses) (n : BitVec 8) (x : Sem) (h : clauseNames cl n = true) :
    t.Seq (t.setSem n x) e cl := by
  refine ⟨by constructor <;> simp, by simp, by simp, by simp, by simp, fun m hm => ?_, fun y _ => Strand.likeSelf (t.strand y)⟩
  unfold Task.semOf Task.setSem
  rw [SMap.look_put, if_neg]
  intro hk
  have : m = n := BitVec.eq_of_toNat_eq hk
  rw [this, h] at hm
  exact absurd hm (by simp)

/-- A strand that waits is woken by a change of its semaphore (R32). -/
theorem Task.wakeStrand_seq (t : Task) (n : BitVec 8) (e y : Eng) (cl : Clauses) (h : clauseNames cl n = true) :
    t.Seq (t.wakeStrand n y) e cl := by
  unfold Task.wakeStrand
  simp only
  split
  · exact Task.Seq.rfl _ _ _
  · rename_i m thr _
    split
    · exact Task.Seq.rfl _ _ _
    · split
      · exact Task.Seq.rfl _ _ _
      · rename_i u hu
        unfold Task.waitOn at hu
        simp only at hu
        split at hu
        · injection hu with hu
          have hs := Task.setSem_seq t e cl n ((t.semOf n).waited thr) h
          rw [hu] at hs
          refine hs.trans ⟨by constructor <;> simp, by simp, by simp, by simp, by simp, by simp [Task.semOf], fun z _ => ?_⟩
          by_cases hzy : Eng.num z = Eng.num y
          · rw [Task.strand_setStrand_eq _ _ _ _ hzy]
            have : u.strand z = t.strand y := by
              rw [← hu]
              unfold Task.strand Task.setSem
              rw [hzy]
            rw [this]
            exact ⟨_, _, rfl⟩
          · rw [Task.strand_setStrand_ne _ _ _ _ hzy]
            exact Strand.likeSelf _
        · cases hu

theorem Task.changeSem_seq (t : Task) (e : Eng) (cl : Clauses) (n : BitVec 8) (x : Sem) (h : clauseNames cl n = true) :
    t.Seq (t.changeSem n x) e cl := by
  unfold Task.changeSem
  refine (Task.setSem_seq t e cl n x h).trans ?_
  generalize t.setSem n x = u
  generalize strandsOf t.kernel = l
  induction l generalizing u with
  | nil => exact Task.Seq.rfl _ _ _
  | cons y l ih => exact (Task.wakeStrand_seq u n e y cl h).trans (ih _)

/-! ## Of the module -/

theorem State.SameBut.rfl (s : State) (c : Nat) : s.SameBut s c := ⟨by simp, by simp, by simp, by simp⟩
theorem State.SameBut.trans {s u w : State} {c : Nat} (h : s.SameBut u c) (g : u.SameBut w c) : s.SameBut w c := by
  obtain ⟨h1, h2, h3, h4⟩ := h
  obtain ⟨g1, g2, g3, g4⟩ := g
  refine ⟨?_, fun d hd => (g2 d hd).trans (h2 d hd), g3.trans h3, g4.trans h4⟩
  rw [g1, h1]
theorem State.Seq.rfl (s : State) (c : Nat) (e : Eng) (cl : Clauses) : s.Seq s c e cl :=
  ⟨State.SameBut.rfl s c, fun t t' h h' => by
    rw [h] at h'
    obtain rfl := Option.some.inj h'
    exact Task.Seq.rfl t e cl⟩
theorem State.Seq.trans {s u w : State} {c : Nat} {e : Eng} {cl : Clauses} (h : s.Seq u c e cl) (g : u.Seq w c e cl) :
    s.Seq w c e cl := by
  refine ⟨h.same.trans g.same, fun t t' ht ht' => ?_⟩
  have := h.same.some
  rw [ht] at this
  obtain ⟨x, hx⟩ := Option.isSome_iff_exists.1 this
  exact (h.task t x ht hx).trans (g.task x t' hx ht')

theorem State.setTask_sameBut (s : State) (c : Nat) (t u : Task) (h : s.task c = some t) : s.SameBut (s.setTask c u) c :=
  ⟨by unfold State.setTask State.setCore; simp, fun d hd => State.core_setTask_ne s c d u hd, State.tiles_setTask s c c u,
    by rw [State.task_setTask, h]; simp⟩
theorem State.setTask_seq {s : State} {c : Nat} {t u : Task} {e : Eng} {cl : Clauses} (h : s.task c = some t)
    (g : t.Seq u e cl) : s.Seq (s.setTask c u) c e cl :=
  ⟨State.setTask_sameBut s c t u h, fun x x' hx hx' => by
    rw [State.task_setTask] at hx'
    rw [h] at hx
    obtain rfl := Option.some.inj hx
    obtain rfl := Option.some.inj hx'
    exact g⟩
theorem State.modTask_seq (s : State) (c : Nat) (e : Eng) (cl : Clauses) (f : Task → Task) (g : ∀ t : Task, t.Seq (f t) e cl) :
    s.Seq (s.modTask c f) c e cl := by
  unfold State.modTask
  split
  · exact State.setTask_seq ‹_› (g _)
  · exact State.Seq.rfl s c e cl

theorem Task.seq_faults (t : Task) (l : List FaultInfo) (e : Eng) (cl : Clauses) : t.Seq { t with faults := l } e cl :=
  ⟨by constructor <;> simp, by simp, by simp, by simp, by simp, by simp [Task.semOf], fun y _ => Strand.likeSelf (t.strand y)⟩
theorem Task.seq_recalls (t : Task) (l : List FaultInfo) (e : Eng) (cl : Clauses) : t.Seq { t with recalls := l } e cl :=
  ⟨by constructor <;> simp, by simp, by simp, by simp, by simp, by simp [Task.semOf], fun y _ => Strand.likeSelf (t.strand y)⟩
theorem Task.seq_sigs (t : Task) (l : List PendSig) (e : Eng) (cl : Clauses) : t.Seq { t with sigs := l } e cl :=
  ⟨by constructor <;> simp, by simp, by simp, by simp, by simp, by simp [Task.semOf], fun y _ => Strand.likeSelf (t.strand y)⟩

theorem State.halt_seq (s : State) (c : Nat) (e : Eng) (cl : Clauses) (r : List RecordOut) :
    s.Seq { s.setCore c { s.core c with halted := true } with records := r } c e cl := by
  have hc : ∀ d, State.core { s.setCore c { s.core c with halted := true } with records := r } d =
      if d = c then { s.core c with halted := true } else s.core d := by
    intro d
    unfold State.core State.setCore
    simp only
    rw [SMap.look_put]
  have ht : State.task { s.setCore c { s.core c with halted := true } with records := r } c = s.task c := by
    unfold State.task
    rw [hc, if_pos (by trivial)]
  refine ⟨⟨?_, fun d hd => ?_, ?_, ?_⟩, fun a b ha hb => ?_⟩
  · simp [State.setCore]
  · rw [hc, if_neg hd]
  · rw [hc, if_pos (by trivial)]
  · rw [ht]
  · rw [ht, ha] at hb
    obtain rfl := Option.some.inj hb
    exact Task.Seq.rfl _ _ _

/-- Taking an exception writes no register but those of the sequencing (R438). -/
theorem State.takeFaultAt_seq (s : State) (c : Nat) (e y : Eng) (pc : Va) (f : FaultInfo) (cl : Clauses) :
    s.Seq (s.takeFaultAt c y pc f) c e cl := by
  unfold State.takeFaultAt
  split
  · exact State.Seq.rfl s c e cl
  · rename_i t h
    simp only
    split
    · exact (State.setTask_seq h (Task.seq_faults t _ e cl)).trans (State.halt_seq _ _ _ _ _)
    · exact State.setTask_seq h (Task.seq_faults t _ e cl)
theorem State.takeFault_seq (s : State) (c : Nat) (e y : Eng) (f : FaultInfo) (cl : Clauses) :
    s.Seq (s.takeFault c y f) c e cl := by
  unfold State.takeFault
  split
  · exact State.Seq.rfl s c e cl
  · exact State.takeFaultAt_seq _ _ _ _ _ _ _

theorem State.stay_seq (s : State) (c : Nat) (e : Eng) (cl : Clauses) : s.Seq (s.stay c e) c e cl := by
  refine State.modTask_seq _ _ _ _ _ fun t => ?_
  simp only
  split
  · exact Task.seq_setStrand _ _ _ _
  · exact Task.Seq.rfl _ _ _

theorem State.noteRefusal_seq (s : State) (c : Nat) (e : Eng) (cl : Clauses) : s.Seq (s.noteRefusal c e) c e cl :=
  State.modTask_seq _ _ _ _ _ fun _ => Task.seq_setStrand _ _ _ _

/-- The record of the order of accesses is none of what sequencing keeps. -/
theorem State.OrderOnly.seq {s u : State} (h : s.OrderOnly u) (c : Nat) (e : Eng) (cl : Clauses) : s.Seq u c e cl := by
  refine ⟨⟨?_, fun d _ => h.core d, by rw [h.core], by rw [h.task]⟩, fun t t' ht ht' => ?_⟩
  · rw [h]
  · rw [h.task, ht] at ht'
    obtain rfl := Option.some.inj ht'
    exact Task.Seq.rfl t e cl

theorem State.ownSignal_seq (s : State) (c : Nat) (e y : Eng) (pc : Va) (g : SigClause) (l : List Nat) (cl : Clauses)
    (h : cl.sig = some g) : s.Seq (s.ownSignal c y pc g l) c e cl := by
  unfold State.ownSignal
  split
  · exact State.Seq.rfl s c e cl
  · rename_i t ht
    split
    · refine ((State.pairFor_only s c g l).seq c e cl).trans (State.setTask_seq (t := t) ?_ (Task.changeSem_seq _ _ _ _ _ ?_))
      · rw [(State.pairFor_only ..).task, ht]
      · simp [clauseNames, h]
    · exact State.takeFaultAt_seq _ _ _ _ _ _ _

theorem State.signalFor_seq (s : State) (c : Nat) (e : Eng) (pc : Va) (g : SigClause) (l : List Token) (ids : List Nat)
    (h : s.cur.clauses.sig = some g) : s.Seq (s.signalFor c e pc g l ids) c e s.cur.clauses := by
  unfold State.signalFor
  extract_lets l
  split
  · exact State.ownSignal_seq _ _ _ _ _ _ _ _ h
  · exact State.modTask_seq _ _ _ _ _ fun t => Task.seq_sigs t _ _ _

theorem State.signalWord_seq (s : State) (c : Nat) (e : Eng) (pc : Va) (toks : List Token) :
    s.Seq (s.signalWord c e pc toks) c e s.cur.clauses := by
  unfold State.signalWord
  split
  · exact State.Seq.rfl _ _ _ _
  · exact State.signalFor_seq _ _ _ _ _ _ _ ‹_›

theorem State.signalX_seq (s : State) (c : Nat) (e : Eng) (x : Strand) :
    s.Seq (s.signalX c e x) c e s.cur.clauses := by
  unfold State.signalX
  split
  · split
    · exact State.ownSignal_seq _ _ _ _ _ _ _ _ ‹_›
    · exact State.Seq.rfl _ _ _ _
  · exact State.Seq.rfl _ _ _ _

theorem Task.waitedFor_seq (t : Task) (e : Eng) (w : WaitClause) (cl : Clauses) (h : cl.wait = some w) :
    t.Seq (t.waitedFor w) e cl :=
  Task.setSem_seq t e cl w.sem ((t.semOf w.sem).waited w.thr) (by simp [clauseNames, h])

/-- What the gate keeps has only been sequenced. -/
theorem State.gate_over {s u : State} {needs : Bool} (h : s.gate needs = .over u) :
    s.Seq u s.cur.core s.cur.eng s.cur.clauses := by
  unfold State.gate at h
  simp only at h
  have self : s.Seq s s.cur.core s.cur.eng s.cur.clauses := State.Seq.rfl _ _ _ _
  split at h
  · injection h with h; subst h; exact self
  rename_i t ht
  split at h
  · injection h with h; subst h; exact self
  split at h
  · injection h with h; subst h
    exact (State.setTask_seq ht (Task.seq_recalls t _ _ _)).trans (State.takeFault_seq _ _ _ _ _ _)
  split at h
  · injection h with h; subst h
    split
    · exact State.setTask_seq ht (Task.fall_seq t _ _)
    · exact self
  split at h
  · rename_i w hw hp
    split at h
    · split at h
      · cases h
      · injection h with h; subst h
        refine ((State.meetWait_only ..).seq _ _ _).trans (State.setTask_seq (t := t) ?_
          ((Task.waitedFor_seq t _ w _ hw).trans (Task.seq_setStrand _ _ _ _)))
        rw [(State.meetWait_only ..).task, ht]
    · injection h with h; subst h
      exact State.setTask_seq ht (Task.seq_setStrand _ _ _ _)
  all_goals
    split at h
    · cases h
    · injection h with h; subst h; exact self

/-- What the gate lets through: the task, sequenced, and its operands as its strand reads them (R23). -/
theorem State.gate_go {s u : State} {needs : Bool} {t : Task} {x : Strand} {env : Env} {dep : Option Deposit}
    (h : s.gate needs = .go u t x env dep) :
    s.Seq u s.cur.core s.cur.eng s.cur.clauses ∧ u.task s.cur.core = some t ∧ u.cur = s.cur ∧ u.mem = s.mem ∧
      ∃ t0, s.task s.cur.core = some t0 ∧ x = t0.strand s.cur.eng ∧ env = t0.envOf s.cur.eng x dep := by
  unfold State.gate at h
  simp only at h
  split at h
  · cases h
  rename_i t0 ht
  split at h
  · cases h
  split at h
  · cases h
  split at h
  · cases h
  split at h
  · rename_i w hw hp
    split at h
    · split at h
      · injection h with h1 h2 h3 h4 h5
        subst h1 h2 h3 h4 h5
        have hm := State.meetWait_only s s.cur.core s.cur.eng w.sem
        refine ⟨(hm.seq _ _ _).trans (State.setTask_seq (by rw [hm.task, ht]) (Task.waitedFor_seq t0 _ w _ hw)), ?_, ?_, ?_,
          t0, ht, rfl, rfl⟩
        · rw [State.task_setTask]
        · exact hm.cur
        · exact hm.mem
      · cases h
    · cases h
  · rename_i w _ _
    split at h
    · injection h with h1 h2 h3 h4 h5
      subst h1 h2 h3 h4 h5
      have hm := State.metOnce_only s s.cur.core s.cur.eng w.sem
      exact ⟨hm.seq _ _ _, by rw [hm.task, ht], hm.cur, hm.mem, _, ht, rfl, rfl⟩
    · cases h
  · split at h
    · injection h with h1 h2 h3 h4 h5
      subst h1 h2 h3 h4 h5
      exact ⟨State.Seq.rfl _ _ _ _, ht, rfl, rfl, _, ht, rfl, rfl⟩
    · cases h

/-- Whatever a ready word answers with comes from its effect: it was kept, or its effect `x` on the sequenced state was
ended (the law of runWord for frames). -/
theorem State.runWord_cases {s u : State} {needs : Bool} {body : Env → State → Eff}
    (h : s.runWord needs body = .next u) :
    s.Seq u s.cur.core s.cur.eng s.cur.clauses ∨
      ∃ s1 t0 dep pc, s.Seq s1 s.cur.core s.cur.eng s.cur.clauses ∧ s1.cur = s.cur ∧ s1.mem = s.mem ∧
        s.task s.cur.core = some t0 ∧
        (State.finish s.cur.core s.cur.eng pc (body (t0.envOf s.cur.eng (t0.strand s.cur.eng) dep) s1) = .next u ∨
          u = s1.stay s.cur.core s.cur.eng) := by
  unfold State.runWord at h
  split at h
  · rename_i u' hg
    injection h with h
    subst h
    exact .inl (State.gate_over hg)
  · rename_i s1 t x env dep hg
    obtain ⟨h1, h2, h3, h4, t0, h5, h6, h7⟩ := State.gate_go hg
    subst h6 h7
    rw [h3] at h
    refine .inr ⟨s1, t0, dep, (t0.strand s.cur.eng).pc, h1, h3, h4, h5, ?_⟩
    generalize t.parkedOwn s.cur.eng = held at h
    cases held
    · exact .inl h
    · generalize body (t0.envOf s.cur.eng (t0.strand s.cur.eng) dep) s1 = r at h
      cases r
      case fault => injection h with h; exact .inr h.symm
      all_goals exact .inl h

/-- The state that an effect hands to the end of its word. -/
def Eff.state : Eff → Option State
  | .done s | .pend s _ | .wait s | .refused s | .fault s _ => some s
  | .hole _ => none

/-- The end of a word only sequences. -/
theorem State.finish_seq {c : Nat} {e : Eng} {pc : Va} {x : Eff} {u : State} (h : State.finish c e pc x = .next u) :
    ∃ s1, x.state = some s1 ∧ s1.Seq u c e s1.cur.clauses := by
  unfold State.finish at h
  split at h <;> cases h
  · refine ⟨_, rfl, ?_⟩
    refine (State.modTask_seq _ c e _ _ fun t => Task.fall_seq t e _).trans ?_
    have := State.signalWord_seq (State.modTask ‹State› c fun t => t.fall e) c e pc []
    rwa [State.modTask_cur] at this
  · refine ⟨_, rfl, ?_⟩
    refine (State.modTask_seq _ c e _ _ fun t => Task.fall_seq t e _).trans ?_
    have := State.signalWord_seq (State.modTask ‹State› c fun t => t.fall e) c e pc ‹_›
    rwa [State.modTask_cur] at this
  · exact ⟨_, rfl, State.stay_seq _ _ _ _⟩
  · exact ⟨_, rfl, State.noteRefusal_seq _ _ _ _⟩
  · exact ⟨_, rfl, State.takeFault_seq _ _ _ _ _ _⟩

/-- A word changes only what sequencing changes and what its effect changes: every next state is a sequencing of the state
its effect hands to its end, which began at a sequencing of the first. -/
theorem State.runWord_frame {s u : State} {needs : Bool} {body : Env → State → Eff}
    (h : s.runWord needs body = .next u) :
    s.Seq u s.cur.core s.cur.eng s.cur.clauses ∨
      ∃ s1 s2 t0 dep, s.Seq s1 s.cur.core s.cur.eng s.cur.clauses ∧ s1.cur = s.cur ∧ s1.mem = s.mem ∧
        s.task s.cur.core = some t0 ∧
        (body (t0.envOf s.cur.eng (t0.strand s.cur.eng) dep) s1).state = some s2 ∧
        s2.Seq u s.cur.core s.cur.eng s2.cur.clauses := by
  rcases State.runWord_cases h with h | ⟨s1, t0, dep, pc, h1, h2, h3, h4, h5⟩
  · exact .inl h
  · rcases h5 with h5 | rfl
    swap
    · exact .inl (h1.trans (State.stay_seq _ _ _ _))
    obtain ⟨s2, h6, h7⟩ := State.finish_seq h5
    exact .inr ⟨s1, s2, t0, dep, h1, h2, h3, h4, h6, h7⟩

end Sys2Proof.Machine
end

