-- ==== Sys2Proof/Tests/Slice0.lean ====
section
/-! SUPPORT. Small tests of the model: ill-formed terms, words the spec writes out, one step on small states with results
worked out from the spec, and for each claim that has hypotheses a state and operands that meet them. -/

set_option Elab.async false

namespace Sys2Proof.Tests

open Sys2Proof.Machine

/-! ## Ill-formed instructions: one term for each check -/

def p0 : VPred := ⟨0, false⟩
def mt : MTile := ⟨1, 0, none, false, false⟩

/-- R28, R30. -/
theorem test_ill_formed_x : ([.loop ⟨1, 0⟩, .loop ⟨1, 65536⟩, .loopm ⟨1, 0, 1, 1, 1, 1, 0⟩, .loopm ⟨1, 1, 0, 1, 1, 1, 0⟩,
    .loopm ⟨1, 1, 1, 0, 1, 1, 0⟩, .loopm ⟨1, 1, 1, 1, 640, 1, 0⟩, .loopm ⟨1, 1, 1, 1, 1, 32, 0⟩,
    .loopm ⟨1, 1, 1, 1, 1, 1, 32⟩] : List Instr).all (!·.wf) = true := by decide

/-- R195, R203, R205, R211, R212. -/
theorem test_ill_formed_s : ([.sext ⟨1, 2, .b8⟩, .zext ⟨1, 2, .b16⟩, .ld ⟨1, 2, 0, .b8, .rel, .die⟩,
    .ld ⟨1, 2, 0, .b16, .relaxed, .core⟩, .st ⟨1, 2, 0, .b8, .acq, .die⟩, .st ⟨1, 2, 0, .b16, .rel, .die⟩,
    .lda ⟨1, 2, 0, .b16, .die⟩, .stl ⟨1, 2, 0, .b16, .die⟩, .ldnt ⟨1, 2, 0, .b16, .die⟩, .amoadd ⟨1, 2, 3, .b1, .acq, .die⟩,
    .amoand ⟨1, 2, 3, .b1, .acq, .die⟩, .amoor ⟨1, 2, 3, .b2, .acq, .die⟩, .amoxor ⟨1, 2, 3, .b16, .acq, .die⟩,
    .amomin ⟨1, 2, 3, .b1, .acq, .die⟩, .amomax ⟨1, 2, 3, .b1, .acq, .die⟩, .amominn ⟨1, 2, 3, .b1, .acq, .die⟩,
    .amomaxn ⟨1, 2, 3, .b1, .acq, .die⟩, .amoswp ⟨1, 2, 3, .b16, .acq, .die⟩, .cas ⟨1, 2, 3, 4, .b16, .acq, .die⟩,
    .cas2 ⟨1, 2, 4, 6, .acq, .die⟩, .cas2 ⟨2, 2, 5, 6, .acq, .die⟩, .cas2 ⟨2, 2, 4, 7, .acq, .die⟩,
    .amofadd ⟨1, 2, 3, .b8, .acq, .die⟩] : List Instr).all (!·.wf) = true := by decide

/-- R172, R234, R241, R244, R247 to R259. -/
theorem test_ill_formed_v : ([.vfadd ⟨.reg 1, .reg 2, .reg 3, p0, .i32, .rne, false⟩,
    .vfadd ⟨.reg 768, .reg 2, .reg 3, p0, .f32, .rne, false⟩, .vfadd ⟨.reg 1, .reg 768, .reg 3, p0, .f32, .rne, false⟩,
    .vfadd ⟨.reg 1, .reg 2, .reg 800, p0, .f32, .rne, false⟩, .vfma ⟨.reg 1, .reg 2, .reg 3, .reg 768, p0, .f16, .rne, false⟩,
    .vfsqrt ⟨.reg 1, .reg 2, p0, .e4m3, .rne, false⟩, .vfexp2 ⟨.reg 1, .reg 2, p0, .n32, 0⟩,
    .vfcmp ⟨1, .reg 1, .reg 2, p0, .i8, .eq⟩, .vadd ⟨.reg 1, .reg 2, .reg 3, p0, .f32⟩, .vshlImm ⟨.reg 1, .reg 2, p0, .bf16, 1⟩,
    .vcmp ⟨1, .reg 1, .reg 2, p0, .f16, .eq⟩, .vcvt ⟨.reg 1, .reg 2, p0, .f32, .f32, .rne, false, 0⟩,
    .vcvt ⟨.reg 1, .reg 2, p0, .e8m0, .f32, .rne, false, 0⟩, .vcvt ⟨.reg 1, .reg 2, p0, .i8, .i16, .rtz, false, 0⟩,
    .vcvt ⟨.reg 1, .reg 2, p0, .bf16, .f32, .rne, false, 2⟩, .vpack ⟨.reg 1, .reg 2, .reg 3, p0, .i8, .f32, .rne, false⟩,
    .vunpk ⟨.reg 1, .reg 2, p0, .f32, .e4m3, .rne, false⟩, .vunpk ⟨.reg 127, .reg 2, p0, .f32, .bf16, .rne, false⟩,
    .vunpk ⟨.reg 767, .reg 2, p0, .f32, .bf16, .rne, false⟩, .vqnt ⟨.reg 1, .reg 2, 3, .i8, .f32, .rne, 0⟩,
    .vqnt ⟨.reg 1, .reg 2, 3, .e4m3, .i32, .rne, 0⟩, .vqnt ⟨.reg 3, .reg 2, 3, .e4m3, .f32, .rne, 0⟩,
    .vqnt ⟨.reg 1, .reg 2, 3, .e4m3, .f32, .rne, 4⟩, .vscl ⟨.reg 1, .reg 2, .reg 3, p0, .i32, .rne, false⟩,
    .vmov ⟨.reg 1, .reg 2, p0, .e2m1⟩, .vmovi ⟨.reg 1, .n8, 0, 256⟩, .vperm ⟨.reg 1, .reg 2, .reg 3, .reg 4, p0, .n8⟩,
    .vshuf ⟨.reg 1, .reg 2, .reg 3, p0, .n8, .rev⟩, .vslide ⟨.reg 1, .reg 2, .reg 3, p0, .f32, 65⟩,
    .vbcast ⟨.reg 1, .reg 2, p0, .f32, 64⟩, .vsetl ⟨1, 2, .f32, 64⟩, .vtpose ⟨96, 128, .f32⟩, .vtpose ⟨0, 705, .f32⟩,
    .viota ⟨.reg 1, p0, .f32, 0⟩, .vrsum ⟨.reg 1, .reg 2, 0, .i32, .rtz⟩, .vrmax ⟨.reg 1, .reg 2, 0, .i32, .rtz⟩,
    .vrsum ⟨.reg 1, .reg 2, 0, .e4m3, .rne⟩, .vscan ⟨.reg 1, .reg 2, p0, .n16, .rup⟩, .vrsumw ⟨.reg 1, .reg 2, 0, .f32, .rne⟩,
    .pset ⟨1, .e2m1, .all, 0⟩, .pfirst ⟨1, 2, .e2m1⟩] : List Instr).all (!·.wf) = true := by decide

/-- R257: the floating forms of VRMAX, VRMIN and VRAMAX admit RND. -/
theorem test_rounded_reductions : ([.vrmax ⟨.reg 1, .reg 2, 0, .f32, .rtz⟩, .vrmin ⟨.reg 1, .reg 2, 0, .bf16, .rup⟩] : List Instr).all
    Instr.wf = true := by decide

/-- R272 to R274, R277, R278, R281, R282; R290, R296, R311, R313; R322 to R325, R332, R348. -/
theorem test_ill_formed_units : ([.accld ⟨0, mt, .i8, .i32, 0⟩, .accld ⟨0, mt, .f32, .i32, 0⟩,
    .accst ⟨0, 1, 0, .i32, .f32, 0, .rne, false, false⟩, .mma ⟨0, mt, mt, .bf16, .e4m3, 0⟩, .mma ⟨0, mt, mt, .f32, .f32, 0⟩,
    .attq ⟨0, mt, 0, .f32, 0⟩, .attkv ⟨0, mt, mt, .bf16, .i8, 0⟩, .attst ⟨0, 1, 0, 2, 0, .e4m3, 0, .rne, false⟩,
    .attmrg ⟨0, mt, mt, .i32, 0⟩, .tpin ⟨1, 0, 0, 4⟩, .qclr ⟨12⟩, .ldxBt ⟨1, 2, 3, 0, true⟩,
    .gatherLin ⟨0, 0, 0, 1, 2, .f32, 0⟩, .gatherPaged ⟨0, 0, 0, 1, 2, .f32, 257⟩, .scatterLin ⟨0, 0, 0, 1, 2, .e2m1, 4⟩,
    .scatterPaged ⟨0, 0, 0, 1, 2, .f32, 0⟩, .rld ⟨1, 1, 0, 2, 0, .b8, .rel, .die, false⟩,
    .rld ⟨1, 1, 0, 2, 0, .b8, .acq, .core, false⟩, .rst ⟨1, 1, 2, 0, 0, .b8, .acq, .die, false⟩,
    .rst ⟨1, 1, 3, 0, 0, .b16, .rel, .die, false⟩, .ramo ⟨.fadd, 1, 1, 2, 0, 3, .b8, .relaxed, .core, false⟩,
    .ramo ⟨.add, 1, 1, 2, 0, 3, .b2, .relaxed, .core, false⟩, .rcas ⟨1, 1, 2, 4, 5, .b1, .relaxed, .core, false⟩,
    .rcas ⟨1, 1, 2, 5, 6, .b16, .relaxed, .core, false⟩, .rsig ⟨1, 1, 2, 0, 3, 0, false⟩, .grpstat ⟨0, 1⟩, .jwait ⟨0, 1⟩,
    .jwaitAll ⟨0, 1⟩, .jstat ⟨0, 1⟩, .jcancel ⟨0, 1⟩] : List Instr).all (!·.wf) = true := by decide

/-! ## Words that the spec writes out, with the assembly text it gives beside them -/

/-- What a word decodes to at user level, and that the instruction encodes to the word. -/
def reads (w : Nat) (cl : Clauses) (i : Instr) : Bool :=
  decide (decode false (BitVec.ofNat 128 w) = .ok (cl, i)) && decide (encode cl i = some (BitVec.ofNat 128 w))
def plain : Clauses := ⟨none, none⟩
def waits (s t : BitVec 8) : Clauses := ⟨some ⟨s, t⟩, none⟩
def signals (s : BitVec 8) (p : SigPoint) : Clauses := ⟨none, some ⟨s, 0, p⟩⟩

/-- `BRC.eq s5, s0, top`, `LOOPM s3, 6, 2, 3, 1, 1`, `LOOP s4, 8`, `RDV`, `FRET` (07, 02, 17, 24, 22). -/
theorem test_words_x : (reads 0xe02000000001400000000000ffffffff plain (.brc ⟨5, 0, .eq, 0xffffffff⟩) &&
    reads 0xe07000000000c0602300410000000000 plain (.loopm ⟨3, 6, 2, 3, 1, 1, 0⟩) &&
    reads 0xe0600000000100000000000000000008 plain (.loop ⟨4, 8⟩) && reads 0xe0900000000000000000000000000000 plain .rdv &&
    reads 0xe0d00000000000000000000000000000 plain .fret) = true := by decide +kernel

/-- `LD.8.acq.die s5, [s6 + 16] ~w sem7 12`, `CAS.8.acq.module s4, [s6], s0, s7`, `ST.8.rel.module s0, [s6]`, `KSET k3, s7,
s0`, `BAR.team ~w sem1 3 ~s sem2 1 done` (07, 08, 13). -/
theorem test_words_s : (reads 0x0308386000014600000000000000106a (waits 7 12) (.ld ⟨5, 6, 16, .b8, .acq, .die⟩) &&
    reads 0x049000000001060076b0000000000000 plain (.cas ⟨4, 6, 0, 7, .b8, .acq, .module⟩) &&
    reads 0x03100000000006000000000000000073 plain (.st ⟨0, 6, 0, .b8, .rel, .module⟩) &&
    reads 0x070000000000c7000000000000000000 plain (.kset ⟨3, 7, 0⟩) &&
    reads 0x0678081c080000000000000000000000 ⟨some ⟨1, 3⟩, some ⟨2, 0, .done⟩⟩ .barTeam) = true := by decide +kernel

/-- `ANDN s3, s3, s4`, `CSRR s3, FPCTL`, `MOVI s4, 0x200`, `CSRW UFENTRY, s5`, `SEMWAIT sem5, s3, 0`, `FENCE.mca.domain`
(24, 18, 17); `KILLTASK s4, s5` is a kernel word (19). -/
theorem test_words_system : (reads 0x00e000000000c3100000000000000000 plain (.andn ⟨3, 3, 4⟩) &&
    reads 0x080000000000c0000000000000000000 plain (.csrr ⟨3, .fpctl⟩) &&
    reads 0x02000000000100000000000000020000 plain (.movi ⟨4, 0x200⟩) &&
    reads 0x08100000000005000000000000002100 plain (.csrw ⟨5, .ufentry⟩) &&
    reads 0x06100000000003000000000000000500 plain (.semwait ⟨5, 3, 0⟩) &&
    reads 0x05000000000000000040000000000000 plain (.fenceMca .domain) &&
    decide (decode true 0x0c500000000105000000000000000000 = .ok (plain, .killtask ⟨4, 5⟩)) &&
    decide (decode false 0x0c500000000105000000000000000000 = .error .privilegedWord)) = true := by decide +kernel

/-- `VFADD.f32.rne v130, v1, v2 ~s sem9 1 done`, `VCVT.bf16.f32.rne v20, v4, 1`, `VMOVI.bf16 w0, 0x3f80`, `PSET.f32.first p1,
8`, `(p4) VCOMPR.i32 w0, q1`, `VTPOSE.f16 v736, v736` (07, 09, 14, 15, 18). -/
theorem test_words_v : (reads 0x21000004240208010080000000000000 (signals 9 .done)
      (.vfadd ⟨.reg 130, .reg 1, .reg 2, p0, .f32, .rne, false⟩) &&
    reads 0x25000000000050040000000201000000 plain (.vcvt ⟨.reg 20, .reg 4, p0, .bf16, .f32, .rne, false, 1⟩) &&
    reads 0x26100000000c404000001fc000000000 plain (.vmovi ⟨.push 0, .bf16, 0, 0x3f80⟩) &&
    reads 0x29500000000004000000000002000008 plain (.pset ⟨1, .f32, .first, 8⟩) &&
    reads 0x26b00000000c43010000010a00000000 plain (.vcompr ⟨.push 0, .pop 1, 4, .i32⟩) &&
    reads 0x26900000000b82e00000000100000000 plain (.vtpose ⟨736, 736, .f16⟩)) = true := by decide +kernel

/-- The MMA of 10, `ACCST.bf16.f32.rne.fin acc1, t7(k3), 256 ~s sem3 1 done`, `LEASE ~w sem2 1`, `ATTKV.bf16.bf16 acc0,
t41(k0), t42(k0), 3 ~w sem3 1` (13, 14). -/
theorem test_words_m : (reads 0x4060000000080a300310884304000000 plain
      (.mma ⟨1, ⟨5, 3, none, false, false⟩, ⟨6, 4, some 0, true, false⟩, .bf16, .bf16, 3⟩) &&
    reads 0x405000040c080e300000081f01000000 (signals 3 .done) (.accst ⟨1, 7, 3, .bf16, .f32, 31, .rne, false, true⟩) &&
    reads 0x40181008000000000000000000000000 (waits 2 1) .lease &&
    reads 0x40881808000052001500084200000000 (waits 3 1)
      (.attkv ⟨0, ⟨41, 0, none, false, false⟩, ⟨42, 0, none, false, false⟩, .bf16, .bf16, 2⟩)) = true := by decide +kernel

/-- The GATHER of 11, `TBIND t6, [s8 + 64] ~s sem1 1 done`, `TWB.slot t7 ~w sem3 1 ~s sem4 1 done`, `GSTO.row g0, w0 ~s sem3 1
vis`, `TCOPY t11(k0), t13(k0)`, `TINV.slot t11` (13, 14, 24). -/
theorem test_words_a : (reads 0x61300000000000042516820100000100 plain (.gatherPaged ⟨2, 4, 1, 10, 11, .bf16, 256⟩) &&
    reads 0x60100004040018000400000000000040 (signals 1 .done) (.tbind ⟨6, 8, 64⟩) &&
    reads 0x60a8180c10001c000000000400000000 ⟨some ⟨3, 1⟩, some ⟨4, 0, .done⟩⟩ (.twbSlot ⟨7, 0⟩) &&
    reads 0x60f000040c2000010000000100000000 (signals 3 .vis) (.gsto ⟨0, 0, true, false⟩) &&
    reads 0x60c0000000002c00000000000000000d plain (.tcopy ⟨11, 0, 13, 0, none, false⟩) &&
    reads 0x60b0000000002c000000000400000000 plain (.tinvSlot ⟨11, 0⟩)) = true := by decide +kernel

/-- `RST.8.rel.die s5, s9 + 3, [s6 + 16]`, `GRPSET s6, cg2, [s5] ~s sem1 1 done`, `MLDRED cg2, [s4], [s3] ~w sem2 1`,
`RWAIT ~s sem3 1 done` (12, 16); `JCOPY s4, [s8 + 0x80]`, `JPAGE s0, [s8 + 256] ~s sem1 1 vis`, `JSEL s0, [s8] ~s sem1 1 done`
(12, 14, 15). -/
theorem test_words_f_j : (reads 0x80200000000000c61490000072000010 plain (.rst ⟨3, 6, 5, 9, 16, .b8, .rel, .die, false⟩) &&
    reads 0x80800004040000050001800002000000 (signals 1 .done) (.grpset ⟨6, 5, 0, 2⟩) &&
    reads 0x80a81008000000031000000002000000 (waits 2 1) (.mldred ⟨3, 4, 2⟩) &&
    reads 0x80d000040c0000000000000000000000 (signals 3 .done) .rwait &&
    reads 0xa0100000000204000000000000000080 plain (.jcopy ⟨8, 4, 0x80⟩) &&
    reads 0xa0400004042200000000000000000100 (signals 1 .vis) (.jpage ⟨8, 0, 0x100⟩) &&
    reads 0xa0300004040200000000000000000000 (signals 1 .done) (.jsel ⟨8, 0, 0⟩)) = true := by decide +kernel

/-- R163, R164, R168, R173, R176: a reserved tag, an undefined opcode, reserved bits with no clause, signal point 11, an
unassigned condition, and a KGET of no form. -/
theorem test_words_refused : (decide (decode false (6 <<< 125) = .error .reservedEngine) &&
    decide (decode false (0x1ff <<< 116) = .error .illegalOpcode) &&
    decide (decode false (1 <<< 99) = .error .reservedField) &&
    decide (decode false (1 <<< 98 ||| 3 <<< 84) = .error .reservedField) &&
    decide (decode false 0xe02000000001300000000000ffffffff = .error .reservedField) &&
    decide (decode false (0x072 <<< 116 ||| 2 <<< 52) = .error .reservedField)) = true := by decide +kernel

/-! ## Small states -/

/-- A user task of context 0 with the s registers of `regs`, whose strands all stand at 0x1000. -/
def task (regs : SMap Word) : Task :=
  [Eng.s, .v, .m, .a, .f, .j].foldl (fun t e => t.setStrand e { pc := 0x1000 })
    { ctx := some 0, asid := 1, s := regs, window := [] }
/-- The module with one task on core 0 and the turn at its strand `e`; the page at 0x1000 is mapped to itself. -/
def at_ (e : Eng) (t : Task) : State :=
  { State.reset with
    boot := .ready
    cores := [(0, { task := some t })]
    cur := ⟨0, e, ⟨none, none⟩, 0⟩
    tlb := [⟨.die 0, 1, 0x1000, 0x1000, 0x10f1⟩] }
/-- The S strand of a task has passed its first word and left its snapshot for the others. -/
def fed (t : Task) : Task := (t.addDeposit t.snapshot).setStrand .s { pc := 0x1010, path := 1 }

/-- The state after an instruction, when it answers one. -/
def after (i : Instr) (s : State) : State :=
  match exec i s with
  | .next u => u
  | _ => State.reset
/-- A property of the task of core 0 after an instruction. -/
def thatTask (i : Instr) (s : State) (p : Task → Bool) : Bool :=
  match exec i s with
  | .next u => (u.task 0).any p
  | _ => false
def sIs (r : SReg) (v : Word) (t : Task) : Bool := sget t.s r == v

/-! ## The S words: results worked out by hand from R203, R204, R222 -/

def sa : State := at_ .s (task [(1, 0xffffffffffffffff), (2, 2), (3, 0x8000000000000000), (4, 0x0000000300000002), (5, 5)])

theorem test_add_wraps : thatTask (.add ⟨7, 1, 2⟩) sa (sIs 7 1) = true := by decide +kernel
theorem test_sub_borrows : thatTask (.sub ⟨7, 5, 1⟩) sa (sIs 7 6) = true := by decide +kernel
theorem test_addi : thatTask (.addi ⟨1, 1, 16⟩) sa (sIs 1 15) = true := by decide +kernel
theorem test_mulh_signed : thatTask (.mulh ⟨7, 1, 2⟩) sa (sIs 7 0xffffffffffffffff) = true := by decide +kernel
theorem test_mulhn_natural : thatTask (.mulhn ⟨7, 1, 2⟩) sa (sIs 7 1) = true := by decide +kernel
theorem test_div_wraps : thatTask (.div ⟨7, 3, 1⟩) sa (sIs 7 0x8000000000000000) = true := by decide +kernel
theorem test_div_by_zero_traps : thatTask (.div ⟨7, 3, 0⟩) sa
    (fun t => sIs 7 0 t && t.faults.map (·.cause) == [.intDivzero] && (t.strand .s).pc == 0x1000) = true := by decide +kernel
theorem test_rem_takes_sign : thatTask (.rem ⟨7, 3, 5⟩) sa (sIs 7 (BitVec.ofInt 64 (-3))) = true := by decide +kernel
theorem test_sra_fills_sign : thatTask (.sra ⟨7, 3, 2⟩) sa (sIs 7 0xe000000000000000) = true := by decide +kernel
theorem test_extr : thatTask (.extr ⟨7, 4, 0, 2⟩) sa (sIs 7 2) = true := by decide +kernel
theorem test_insr : thatTask (.insr ⟨1, 5, 2, 2⟩) sa (sIs 1 0xfffffffffffffff7) = true := by decide +kernel
theorem test_s0_discards : thatTask (.add ⟨0, 1, 5⟩) sa (sIs 0 0) = true := by decide +kernel
/-- The example of R222: k5 = (2, 3, 5, 0). -/
theorem test_kset : thatTask (.kset ⟨5, 4, 5⟩) sa (fun t => kget t.k 5 == 0x00000000000000050000000300000002) = true := by
  decide +kernel

/-! ## Meeting the hypotheses of the claims -/

def readyB (s : State) (needs : Bool) (t : Task) : Bool :=
  s.task s.cur.core == some t && !s.heldBack t s.cur.eng && t.recalls.isEmpty && t.slipOk (t.strand s.cur.eng) &&
  !t.ctlPending s.cur.eng (t.strand s.cur.eng) && !(t.strand s.cur.eng).squashed &&
  (!needs || s.cur.eng == .s || (t.depositAt (t.strand s.cur.eng)).isSome) &&
  (match s.cur.clauses.wait with
    | some w => (t.strand s.cur.eng).phase != .fresh || semMet (t.semOf w.sem).val w.thr
    | none => true)

theorem ready_of {s : State} {needs : Bool} {t : Task} (h : readyB s needs t = true) : s.Ready needs t := by
  simp only [readyB, Bool.and_eq_true, beq_iff_eq, Bool.not_eq_true', List.isEmpty_iff] at h
  obtain ⟨⟨⟨⟨⟨⟨⟨h1, h2⟩, h3⟩, h4⟩, h5⟩, h6⟩, h7⟩, h8⟩ := h
  refine ⟨h1, h2, h3, h4, h5, h6, fun hn => ?_, fun w hw hp => ?_⟩
  · simpa [hn] using h7
  · simpa [hw, hp] using h8

theorem pair_of {α β : Type} {x : α × β} {b : β} (h : x.2 = b) : ∃ a, x = (a, b) := ⟨x.1, Prod.ext rfl h⟩

theorem ok_of {α ε β : Type} {x : α × Except ε β} (h : x.2.isOk = true) : ∃ a b, x = (a, .ok b) := by
  obtain ⟨a, b⟩ := x
  cases b with
  | ok b => exact ⟨a, b, rfl⟩
  | error e => cases h

/-- ScalarResults, BitAndCoordinateWords, DivisionAndBitFields and the other claims about an S word that nothing keeps
from its strand. -/
theorem witness_s_word : ∃ t, sa.Ready false t ∧ sa.cur.eng = .s :=
  ⟨_, ready_of (t := (sa.task 0).getD {}) (by decide +kernel), rfl⟩

/-- DivisionAndBitFields: a zero divisor, the wrapping quotient, and one clause more with neither. -/
theorem witness_divide : ∃ t, sa.Ready false t ∧ sget t.s 0 = 0 ∧ sget t.s 3 = BitVec.intMin 64 ∧
    sget t.s 1 = BitVec.allOnes 64 ∧ sget t.s 5 ≠ 0 ∧ ¬(sget t.s 4 = BitVec.intMin 64 ∧ sget t.s 5 = BitVec.allOnes 64) :=
  ⟨_, ready_of (t := (sa.task 0).getD {}) (by decide +kernel), by decide +kernel⟩

/-- A context descriptor of R389: ASID 1, valid, JQUOTA and LQUOTA 16, FID 0x77, EVADDR 0x1200, save area of 8 images at
1 MiB, queue 0. -/
def ctx0 : Nat := 1 + 2 ^ 31 + 0x77 * 2 ^ 352 + 16 * 2 ^ 416 + 16 * 2 ^ 432 + 8 * 2 ^ 464 + 0x100000 * 2 ^ 480 +
  0x1200 * 2 ^ 704 + 2 ^ 768
/-- The same with context 0 and one partition of the whole module, and bytes from 0x1100. -/
def full (e : Eng) (t : Task) (data : List Byte := []) : State :=
  { at_ e t with
    mem := rawPut (rawPut [] 0 (leBytes 128 ctx0)) 0x1100 data
    parts := [(0, ⟨0xffffffffffff, 0xfff, 0x10000, 0x8000000000000000⟩)] }

theorem answers_of {i : Instr} {s : State} (h : (match exec i s with | .next _ => true | _ => false) = true) :
    ∃ u, exec i s = .next u := by
  revert h
  cases exec i s with
  | next u => exact fun _ => ⟨u, rfl⟩
  | fault _ => exact fun h => Bool.noConfusion h
  | refused _ => exact fun h => Bool.noConfusion h

/-! ## Scalar memory, R205 to R212 -/

def tm : Task := task [(1, 0x1100), (2, 0xfffffffffffffffe), (3, 0x1101), (4, 0x5000), (6, 3), (8, 5)]
def sm : State := full .s tm [1, 2, 3, 4, 5, 6, 7, 8, 9, 10, 11, 12, 13, 14, 15, 16]

theorem test_ld_little_endian : thatTask (.ld ⟨7, 1, 1, .b4, .relaxed, .core⟩) sm (sIs 7 0x05040302) = true := by decide +kernel
theorem test_ld_pair : thatTask (.ld ⟨10, 1, 0, .b16, .relaxed, .core⟩) sm
    (fun t => sIs 10 0x0807060504030201 t && sIs 11 0x100f0e0d0c0b0a09 t) = true := by decide +kernel
theorem test_st_half : (List.range 4).map (fun k => (after (.st ⟨2, 1, 1, .b2, .relaxed, .core⟩) sm).byteOn 0 (0x1100 + k)) =
    [1, 0xfe, 0xff, 4] := by decide +kernel
theorem test_ld_unmapped_faults : thatTask (.ld ⟨7, 4, 0, .b4, .relaxed, .core⟩) sm
    (fun t => t.faults.map (fun f => (f.cause, f.addr)) == [(.translationAbsent, 0x5000)]) = true := by decide +kernel
theorem test_amomin_signed : thatTask (.amomin ⟨7, 1, 2, .b4, .relaxed, .core⟩) sm (sIs 7 0x04030201) = true ∧
    (after (.amomin ⟨7, 1, 2, .b4, .relaxed, .core⟩) sm).physNat 0x1100 4 = 0xfffffffe := by decide +kernel
theorem test_amominn_natural : (after (.amominn ⟨7, 1, 2, .b4, .relaxed, .core⟩) sm).physNat 0x1100 4 = 0x04030201 := by
  decide +kernel
theorem test_cas_misaligned : thatTask (.cas ⟨7, 3, 0, 2, .b4, .relaxed, .core⟩) sm
    (fun t => t.faults.map (·.cause) == [.atomicAlign]) = true := by decide +kernel

theorem witness_s_memory : sm.Ready false tm ∧ sm.cur.eng = .s := ⟨ready_of (by decide +kernel), rfl⟩
/-- LoadsReadMemory: 1 and 16 bytes read; a wide scope with no write in flight. -/
theorem witness_loads : (∃ s1 b, (sm.begun tm).readRun (tm.whoAs 0 .s) .rd ((sget tm.s 1 + 0).toNat % 2 ^ 56) 16 = (s1, .ok b)) ∧
    (∃ s1 b, (sm.begun tm).readRun (tm.whoAs 0 .s) .rd ((sget tm.s 1 + 0).toNat % 2 ^ 56) 1 = (s1, .ok b)) ∧ sm.flight 0 = [] :=
  ⟨ok_of (by decide +kernel), ok_of (by decide +kernel), by decide +kernel⟩
/-- LoadsReadMemory, AccessFrames, Atomics: a translated address of device memory, no line of it lost. -/
theorem witness_translates : ∃ s1, (sm.begun tm).xl (tm.whoAs 0 .s) 0x1100 .rd = (s1, .ok 0x1100) ∧ whereIs 0x1100 = .hbm ∧
    s1.mismatch = false ∧ s1.lostIn 0x1100 16 = false :=
  ⟨((sm.begun tm).xl (tm.whoAs 0 .s) 0x1100 .rd).1, Prod.ext rfl (by decide +kernel), by decide +kernel⟩
theorem witness_translates_at : ∃ s1, (sm.begun tm).xl (tm.whoAs 0 .s) 0x1100 .at = (s1, .ok 0x1100) ∧ whereIs 0x1100 = .hbm ∧
    s1.mismatch = false ∧ s1.lostIn 0x1100 16 = false ∧ sm.flight 0 = [] ∧ 0x1100 % 16 = 0 ∧ 0x1101 % 4 ≠ 0 :=
  ⟨((sm.begun tm).xl (tm.whoAs 0 .s) 0x1100 .at).1, Prod.ext rfl (by decide +kernel), by decide +kernel⟩
theorem witness_translates_wr : ∃ s1, (sm.begun tm).xl (tm.whoAs 0 .s) 0x1100 .wr = (s1, .ok 0x1100) ∧ sm.dirty = [] :=
  ⟨((sm.begun tm).xl (tm.whoAs 0 .s) 0x1100 .wr).1, Prod.ext rfl (by decide +kernel), by decide +kernel⟩
/-- StoresWriteMemory: the bytes can be written; an address that is not mapped. -/
theorem witness_stores : (∃ s1, (sm.begun tm).writeRun (tm.whoAs 0 .s) .wr ((sget tm.s 1 + 0).toNat % 2 ^ 56) [0xfe] = (s1, none)) ∧
    (∃ s1, (sm.begun tm).pieces (tm.whoAs 0 .s) .wr ((sget tm.s 4 + 0).toNat % 2 ^ 56) 4 =
      (s1, .error (.fault .translationAbsent 512 0x5000))) ∧
    ∃ s1, (sm.begun tm).pieces (tm.whoAs 0 .s) .rd ((sget tm.s 4 + 0).toNat % 2 ^ 56) 4 =
      (s1, .error (.fault .translationAbsent 512 0x5000)) :=
  ⟨pair_of (by decide +kernel), pair_of (by decide +kernel), pair_of (by decide +kernel)⟩
/-- AccessFrames: loads and stores that complete. -/
theorem witness_access_frames : (∃ u, exec (.ld ⟨7, 1, 0, .b8, .acq, .module⟩) sm = .next u) ∧
    (∃ u, exec (.ldnt ⟨7, 1, 0, .b8, .core⟩) sm = .next u) ∧ (∃ u, exec (.lda ⟨7, 1, 0, .b8, .core⟩) sm = .next u) ∧
    (∃ u, exec (.st ⟨7, 1, 0, .b8, .rel, .module⟩) sm = .next u) ∧ ∃ u, exec (.stl ⟨7, 1, 0, .b8, .core⟩) sm = .next u := by
  refine ⟨answers_of ?_, answers_of ?_, answers_of ?_, answers_of ?_, answers_of ?_⟩ <;> decide +kernel
/-- FencesAndCacheWordsComplete: a write in flight at a wide scope, and none. -/
theorem witness_fences : (∃ t, { sm with wb := [(0, [⟨0x4800000000, [1], 1, [], 1⟩])] }.Ready false t) ∧
    { sm with wb := [(0, [⟨0x4800000000, [1], 1, [], 1⟩])] }.flight 0 ≠ [] :=
  ⟨⟨tm, ready_of (by decide +kernel)⟩, by decide +kernel⟩

/-- A page at 0x2000 that is homed on the other die, and a store to it that is on its way there. -/
def sFar : State :=
  { full .s (task [(1, 0x2000), (2, 5)]) with
    tlb := [⟨.die 0, 1, 0x1000, 0x1000, 0x10f1⟩, ⟨.die 0, 1, 0x2000, 0x1000, 0x48000000f1⟩] }
def sStored : State := after (.st ⟨2, 1, 0, .b8, .relaxed, .core⟩) sFar
/-- FencesAndCacheWordsComplete: a fence that waits for the store and fences that do not. -/
theorem witness_fence_waits : (sStored.flight 0).map (·.addr) = [0x4800000000] ∧
    sStored.fenceWaits (.strand 0 .s) .full .module = true ∧ sStored.fenceWaits (.strand 0 .s) .mca .domain = true ∧
    sStored.fenceWaits (.strand 0 .s) .full .die = false ∧ sm.fenceWaits (.strand 0 .s) .mca .module = false := by decide +kernel
/-- NothingOldIsRead, StoreIsSeenOnItsDie: the die's agents see the store, the other die does not yet (R119, R126). -/
theorem test_store_on_its_die : sStored.byteOn 0 0x4800000000 = 5 ∧ sStored.byteOn 1 0x4800000000 = 0 ∧
    sStored.viewBytes (.strand 0 .s) 0 0x4800000000 1 1 = [5] ∧ sStored.viewBytes (.strand 1 .s) 0 0x4800000000 1 1 = [5] := by
  decide +kernel
/-- PatchedCodeIsFetched: a word that a core's store has changed in part, as the core's L1D holds it. -/
theorem witness_patched_code : ((after (.st ⟨2, 1, 0, .b8, .relaxed, .core⟩) sm).code.map fun x => (x.addr, x.dirty, x.vers.length)) =
    [(0x1100, some 0, 1)] ∧ (sm.code.find? fun y => y.addr == 0x1100) = none := by decide +kernel

/-! ## Semaphores, events, barriers, launches, R31 to R39, R217 to R221 -/

theorem test_semsig_floor : (thatTask (.semsig ⟨5, 0, 127⟩) sm (fun t => (t.semOf 5).val == 127)) = true ∧
    (thatTask (.semsig ⟨5, 0, 128⟩) sm (fun t => (t.semOf 5).val == 0 && t.faults.map (·.cause) == [.semOverflow] &&
      t.faults.map (·.pc) == [0x1000])) = true := by decide +kernel
theorem test_semwait_waits : thatTask (.semwait ⟨5, 0, 1⟩) sm (fun t => (t.strand .s).pc == 0x1000) = true := by decide +kernel
theorem test_evset : (after (.evset ⟨6, 5⟩) sm).physNat 0x1200 32 = 256 := by decide +kernel

def tsem : Task := tm.setSem 5 ⟨1, 0⟩
/-- SemaphoresAndEvents: increments at both sides of the floor check, a threshold met and one not, an event set and one
clear. -/
theorem witness_semaphores : (full .s tsem).Ready false tsem ∧ tsem.ctx = some 0 ∧
    (let x := ((full .s tsem).waited tsem).semOf 5
     ((x.val + (126 : BitVec 16)).toNat % 256 + 256 - x.floor.toNat) % 256 ≤ 127 ∧
     127 < ((x.val + (127 : BitVec 16)).toNat % 256 + 256 - x.floor.toNat) % 256 ∧
     (((x.val.toNat % 256 : Nat) : Int) - 1) % 256 < 128 ∧ 128 ≤ (((x.val.toNat % 256 : Nat) : Int) - 2) % 256) ∧
    ((sm.begun tm).physNat ((sm.begun tm).ctx 0).evaddr 32).testBit 5 = false ∧
    (((after (.evset ⟨0, 5⟩) sm)).physNat ((sm.begun tm).ctx 0).evaddr 32).testBit 5 = true ∧ sm.flight 0 = [] :=
  ⟨ready_of (by decide +kernel), by decide +kernel⟩

/-- SemaphoreWords, EventWords: a SEMWAIT whose threshold was met while it waited, and a task of no context. -/
def tWoken : Task := tm.setStrand .s { pc := 0x1000, phase := .woken }
def tAlone : Task := { tm with ctx := none }
theorem witness_woken : (full .s tWoken).Ready false tWoken ∧ (full .s tAlone).Ready false tAlone :=
  ⟨ready_of (by decide +kernel), ready_of (by decide +kernel)⟩
theorem test_semwait_woken_passes : thatTask (.semwait ⟨5, 0, 9⟩) (full .s tWoken) (fun t => (t.strand .s).pc == 0x1010) = true := by
  decide +kernel

def tb (size cores count : Nat) : Task :=
  { task [] with teaminfo := BitVec.ofNat 64 (size * 2 ^ 50), gridinfo := BitVec.ofNat 64 (cores * 2 ^ 48),
                 domain := BitVec.ofNat 64 (count * 2 ^ 36 + count * 2 ^ 43 + count * 2 ^ 51) }
theorem barred_of {x : Task} (n : Nat) (h : (x.strand .s).phase = .barred n) : ¬((x.strand .s).phase == .fresh) := by
  rw [h]; simp

/-- Barriers: a team of one, whose last participant arrives; a team of two, which waits; a grid that is not co-resident,
one whose count is 0, and one of two participants. -/
theorem witness_barriers : ((full .s (tb 0 0 0)).Ready false (tb 0 0 0) ∧ (full .s (tb 1 0 0)).Ready false (tb 1 0 0) ∧
      (full .s (tb 0 1 2)).Ready false (tb 0 1 2)) ∧
    (∀ x ∈ [tb 0 0 0, tb 1 0 0, tb 0 1 2], ∀ n, (x.strand .s).phase ≠ .barred n) ∧
    (let s := full .s (tb 0 0 0)
     let a := s.arriveAt 0 (s.barKey (tb 0 0 0) 0) 0 1 (.inl 0)
     a.1.openEpisode a.2 = false) ∧
    (let s := full .s (tb 1 0 0)
     let a := s.arriveAt 0 (s.barKey (tb 1 0 0) 0) 0 2 (.inl 0)
     a.1.openEpisode a.2 = true) ∧
    (tb 0 0 0).gridinfo.getLsbD 48 = false ∧ bits (tb 0 1 0).domain 42 36 = 0 ∧
    (tb 0 1 2).gridinfo.getLsbD 48 = true ∧ bits (tb 0 1 2).domain 63 51 = 2 ∧ (full .s (tb 0 1 2)).flight 0 = [] :=
  ⟨⟨ready_of (by decide +kernel), ready_of (by decide +kernel), ready_of (by decide +kernel)⟩,
    fun x hx n h => barred_of n h (by
      have : ∀ x ∈ [tb 0 0 0, tb 1 0 0, tb 0 1 2], (x.strand .s).phase == .fresh := by decide +kernel
      exact this x hx), by decide +kernel⟩

/-- Barriers: an arrival that has been counted, in its open episode and after it. -/
def sBarred : State := after .barTeam (full .s (tb 1 0 0))
theorem witness_barred : ((sBarred.task 0).any fun t => readyB sBarred false t && (t.strand .s).phase == .barred 0) = true ∧
    sBarred.openEpisode 0 = true ∧ ({ sBarred with barriers := [] } : State).openEpisode 0 = false := by decide +kernel
theorem test_barrier_not_coresident : thatTask .barDie (full .s (tb 0 0 2))
    (fun t => t.faults.map (·.cause) == [.barNotCoresident]) = true := by decide +kernel

/-- LaunchWords: a misaligned record; room in the pool and in the quota; a rival team, and none. -/
theorem witness_launch : sm.Ready false tm ∧ tm.ctx = some 0 ∧ (sget tm.s 3).toNat % 128 ≠ 0 ∧ (sget tm.s 1).toNat % 128 = 0 ∧
    sm.flight 0 = [] ∧ (∃ s1 b, (sm.begun tm).readRun (tm.whoAs 0 .s) .rd 0x1100 128 = (s1, .ok b)) ∧ (sm.pending 0).length < 1024 ∧
    (sm.ctx 0).lquota = 16 ∧ sm.launchLog = [] := by
  refine ⟨ready_of ?_, ?_, ?_, ?_, ?_, ok_of ?_, ?_⟩ <;> decide +kernel
/-- LaunchPosts, TaskWords: a context descriptor with a reserved bit set (R2, R389). -/
theorem witness_broken_context : ({ sm with mem := rawPut sm.mem 95 [0x80] } : State).ctxBroken 0 = true ∧ sm.ctxBroken 0 = false := by
  decide +kernel
theorem test_launch_misaligned : thatTask (.launch ⟨7, 3, 0⟩) sm (sIs 7 3) = true := by decide +kernel
theorem test_lstat_unknown : thatTask (.lstat ⟨7, 8⟩) sm (sIs 7 4) = true := by decide +kernel

/-! ## Control registers, traps and the privileged words, R223 to R226, R385 to R396 -/

/-- ControlRegisters: V and M have passed the word before, and V is still behind. -/
def tv : Task := task [(5, 7)]
def sv : State := full .s tv
def behind : Task := (fed tv)
theorem witness_control_registers : sv.Ready false tv ∧ tv.kernel = false ∧
    before (tv.strand .v).epoch (tv.strand .v).path (tv.strand .s).epoch (tv.strand .s).path = false ∧
    (full .s behind).Ready false behind ∧ (behind.strand .v).ended = false ∧
    before (behind.strand .v).epoch (behind.strand .v).path (behind.strand .s).epoch (behind.strand .s).path = true := by
  refine ⟨ready_of ?_, ?_, ?_, ready_of ?_, ?_⟩ <;> decide +kernel
theorem test_csrw_fpctl_reserved_mode : thatTask (.csrw ⟨5, .fpctl⟩) sv (fun t => t.fpctl == 0) = true := by decide +kernel
theorem test_csrw_win_clamps : thatTask (.csrw ⟨5, .win⟩) sv (fun t => t.win == 16) = true := by decide +kernel
theorem test_csrr_waits_for_v : thatTask (.csrr ⟨6, .fpstat⟩) (full .s behind) (fun t => (t.strand .s).pc == 0x1010) = true := by
  decide +kernel
theorem test_trap_restarts_after : thatTask (.trap 9) sv
    (fun t => t.faults.map (fun f => (f.cause, f.pc, f.after, f.info)) == [(.userTrap, 0x1000, true, 9)]) = true := by
  decide +kernel

def kt (regs : SMap Word) : Task := { ctx := none, kernel := true, s := regs, strands := [(0, { pc := 0x1000 })] }
/-- A kernel core of die 0 with its task. -/
def sk (regs : SMap Word) : State :=
  { full .s (kt regs) with cores := [(192, { task := some (kt regs) })], cur := ⟨192, .s, plain, 0⟩ }
def kIs (i : Instr) (s : State) (p : Task → Bool) : Bool :=
  match exec i s with
  | .next u => (u.task 192).any p
  | _ => false

/-- TrapsAndPrivilegedRegisters: the numbers at the ends of R385's ranges and just outside them. -/
theorem witness_privileged : ∀ n ∈ ([0x100, 0x1ff, 0x200, 0x21f, 0x220] : List Nat),
    (sk [(1, BitVec.ofNat 64 n)]).Ready false (kt [(1, BitVec.ofNat 64 n)]) ∧
      (sget (kt [(1, BitVec.ofNat 64 n)]).s 1).toNat = n := by
  intro n hn
  have h : ∀ n ∈ ([0x100, 0x1ff, 0x200, 0x21f, 0x220] : List Nat),
      readyB (sk [(1, BitVec.ofNat 64 n)]) false (kt [(1, BitVec.ofNat 64 n)]) = true ∧
        (sget (kt [(1, BitVec.ofNat 64 n)]).s 1).toNat = n := by decide +kernel
  exact ⟨ready_of (h n hn).1, (h n hn).2⟩
theorem test_csrrp_reserved : kIs (.csrrp ⟨2, 1⟩) (sk [(1, 0x220)]) (fun t => t.faults.map (·.cause) == [.reservedField]) = true := by
  decide +kernel
theorem test_csrwp_clash : kIs (.csrwp ⟨2, 1, 3⟩) (sk [(1, 0x207), (3, 0x8000000000000000)]) (sIs 2 0) = true ∧
    kIs (.csrwp ⟨2, 1, 3⟩)
      { sk [(1, 0x207), (3, 0x8000000000000000)] with parts := [(0, ⟨1, 1, 0x100, 0x8000000000000000⟩), (1, ⟨1, 2, 0, 0⟩)] }
      (sIs 2 1) = true := by decide +kernel
theorem test_killtask_no_context : kIs (.killtask ⟨2, 1⟩) (sk [(1, 9)]) (sIs 2 1) = true := by decide +kernel

/-- PrivilegedWords: operands with and without a reserved bit; a valid context and one that is not. -/
theorem witness_kernel_words : (sk [(1, 0x1000)]).Ready false (kt [(1, 0x1000)]) ∧ bits (0x1000 : Word) 15 12 ≠ 0 ∧
    (sk []).Ready false (kt []) ∧ ((sk []).begun (kt [])).ctxValid 0 = true ∧ ((sk []).begun (kt [])).ctxValid 9 = false ∧
    ((sk []).begun (kt [])).imageTeam 0 0 = none ∧ (sk []).flight 0 = [] ∧ (sk []).flight 1 = [] :=
  ⟨ready_of (by decide +kernel), by decide, ready_of (by decide +kernel), by decide +kernel⟩
def ktask (page n : Word) : Task := kt [(1, page), (2, n), (3, 0x3000)]
/-- PrivilegedWords: a harvest of one page, of 4,096, and of no page, one too many and a misaligned start. -/
theorem witness_harvest : (sk [(1, 0x2000), (2, 1), (3, 0x3000)]).Ready false (ktask 0x2000 1) ∧
    (∃ s1 ps, ((sk [(1, 0x2000), (2, 1), (3, 0x3000)]).begun (ktask 0x2000 1)).pieces ((ktask 0x2000 1).whoAs 192 .s) .wr 0x3000 1 =
      (s1, .ok ps)) ∧
    (sk [(1, 0x2000), (2, 4096), (3, 0x3000)]).Ready false (ktask 0x2000 4096) ∧
    (∃ s1 ps, ((sk [(1, 0x2000), (2, 4096), (3, 0x3000)]).begun (ktask 0x2000 4096)).pieces ((ktask 0x2000 4096).whoAs 192 .s) .wr 0x3000
      512 = (s1, .ok ps)) :=
  ⟨ready_of (by decide +kernel), ok_of (by decide +kernel), ready_of (by decide +kernel), ok_of (by decide +kernel)⟩
theorem test_harvest : kIs (.harvest ⟨4, 1, 2, 3⟩)
    { sk [(1, 0x2000), (2, 3), (3, 0x3000)] with grants := [2, 4, 9] } (sIs 4 2) = true ∧
    (after (.harvest ⟨4, 1, 2, 3⟩) { sk [(1, 0x2000), (2, 3), (3, 0x3000)] with grants := [2, 4, 9] }).homeByte 0x3000 = 5 := by
  decide +kernel

/-! ## Sequencing and control flow, R20 to R30, R197 to R202 -/

/-- ScalarWordsChangeOneRegister: a word that writes one register answers a next state. -/
theorem witness_scalar_frame : (Instr.scalarDest (.add ⟨7, 1, 2⟩) = some 7) ∧ ∃ u, exec (.add ⟨7, 1, 2⟩) sa = .next u :=
  ⟨rfl, answers_of (by decide +kernel)⟩

def inLoop (n : Nat) : Task := (task []).setStrand .s { pc := 0x1010, loops := [⟨0x1000, 0x1010, n, 0, none⟩], path := 1 }
/-- WordsIssueAndPass: an unmet wait clause; a fault of another strand, an EXIT, a stop, and a full slip window each hold
the strand; a squashed word. -/
theorem witness_unmet_wait : ({ sa with cur := ⟨0, .s, waits 3 1, 0⟩ } : State).task 0 = some ((sa.task 0).getD {}) ∧
    128 ≤ (((((sa.task 0).getD {}).semOf 3).val.toNat % 256 : Nat) - (1 : Int)) % 256 ∧
    (((sa.task 0).getD {}).strand .s).phase = .fresh ∧ (((sa.task 0).getD {}).strand .s).squashed = false := by decide +kernel
theorem test_unmet_wait : thatTask (.add ⟨7, 1, 2⟩) { sa with cur := ⟨0, .s, waits 3 1, 0⟩ }
    (fun t => (t.strand .s).waiting == some (3, 1) && (t.strand .s).pc == 0x1000 && sIs 7 0 t) = true := by decide +kernel
/-- SatisfactionIsSeen (R32): a change that satisfies the clause of the waiting strand, and one that does not. -/
def tWaits : Task := (task []).setStrand .a { pc := 0x1000, waiting := some (3, 5) }
theorem test_satisfaction_is_seen : ((tWaits.changeSem 3 ⟨5, 0⟩).strand .a).phase = .begun ∧
    ((tWaits.changeSem 3 ⟨5, 0⟩).semOf 3).floor = 5 ∧ ((tWaits.changeSem 3 ⟨4, 0⟩).strand .a).phase = .fresh := by
  decide +kernel
theorem witness_held : (∃ f ∈ ({ tv with faults := [{ cause := .tileBounds, strand := some .s }] } : Task).faults,
      f.strand = some .s) ∧ (({ tv with stopAt := some (0, 0) } : Task).stopAt = some (0, 0)) ∧
    ((fed { tv with win := 0 }).strand .s).path = 1 ∧
    (∃ y ∈ (fed tv).live, y.path + 0 < ((fed tv).strand .s).path) :=
  ⟨by decide, rfl, by decide +kernel, by decide +kernel⟩
/-- A LOOPM body of four words in two stages, in its first pass. -/
def piped (k : Nat) : Strand :=
  { pc := BitVec.ofNat 56 (0x1000 + 16 * k), loops := [⟨0x1000, 0x1030, 3, 0, some ⟨4, 2, 3, 0, 1, 1, 0⟩⟩] }
theorem test_squashed_in_first_pass : (List.range 4).map (fun k => (piped k).squashed) = [false, false, true, true] := by decide +kernel
/-- LoopmPassEnd: the last word of a body, with passes left and in the last pass (R28, R29). -/
def pipedEnd (pass : Nat) : Task :=
  (task []).setStrand .s { pc := 0x1030, loops := [⟨0x1000, 0x1030, 3, 0, some ⟨4, 2, 3, pass, 1, 1, 0⟩⟩] }
theorem witness_loopm_end : ((pipedEnd 0).strand .s).loops = [⟨0x1000, 0x1030, 3, 0, some ⟨4, 2, 3, 0, 1, 1, 0⟩⟩] ∧
    ((pipedEnd 0).strand .s).pc = 0x1030 ∧ ((pipedEnd 0).strand .s).depth = 0 ∧ 0 + 1 < 3 + 2 - 1 ∧ ¬(3 + 1 < 3 + 2 - 1) := by
  decide +kernel
theorem test_loopm_goes_round : (((pipedEnd 2).fall .s).strand .s).pc = 0x1000 ∧ ((pipedEnd 2).fall .s).rrb = 639 ∧
    (((pipedEnd 3).fall .s).strand .s).pc = 0x1040 ∧ ((pipedEnd 3).fall .s).prb = 31 := by decide +kernel
def squash : Task := (task []).setStrand .s (piped 2)
theorem witness_squashed : (at_ .s squash).task 0 = some squash ∧ (at_ .s squash).heldBack squash .s = false ∧
    squash.slipOk (squash.strand .s) = true ∧ squash.ctlPending .s (squash.strand .s) = false ∧
    (squash.strand .s).squashed = true := by decide +kernel

theorem readyX_of {s : State} {needs : Bool} {t : Task} (h : readyB s needs t = true)
    (h2 : (t.strand s.cur.eng).inLoopm = none) : s.ReadyX needs t := { toReady := ready_of h, outside := h2 }

def tx : Task := task [(1, 0x2000), (2, 0x1008), (3, 3), (62, 0x1040)]
def fx (t : Task) (taken : Bool) (target : Va) : Task :=
  (t.addDeposit { t.snapshot with taken := taken, target := target }).setStrand .s { pc := 0x2000, path := 1 }
/-- BranchesCallsReturns: the S strand, V with the latch S left for it, the call depth at its bound. -/
theorem witness_branches : (full .s tx).ReadyX false tx ∧ (full .s tx).ReadyX true tx ∧ tx.kernel = false ∧
    before (tx.strand .v).epoch (tx.strand .v).path (tx.strand .s).epoch (tx.strand .s).path = false ∧
    (full .v (fx tx true 0x2000)).ReadyX true (fx tx true 0x2000) ∧
    ((fx tx true 0x2000).depositAt ((fx tx true 0x2000).strand .v)).isSome = true ∧
    (full .s (tx.setStrand .s { pc := 0x1000, depth := 65535 })).ReadyX true (tx.setStrand .s { pc := 0x1000, depth := 65535 }) := by
  refine ⟨readyX_of ?_ ?_, readyX_of ?_ ?_, ?_, ?_, readyX_of ?_ ?_, ?_, readyX_of ?_ ?_⟩ <;> decide +kernel
theorem test_br_back : thatTask (.br 0xffffffff) (full .s tx) (fun t => (t.strand .s).pc == 0xff0) = true := by decide +kernel
theorem test_brc_follows_latch : thatTask (.brc ⟨0, 0, .ne, 4⟩) (full .v (fx tx true 0)) (fun t => (t.strand .v).pc == 0x1040) = true := by
  decide +kernel
theorem test_call_links : thatTask (.call 2) (full .s tx) (fun t => sIs 62 0x1010 t && (t.strand .s).pc == 0x1020 &&
    (t.strand .s).depth == 1) = true := by decide +kernel
theorem test_brx_misaligned : thatTask (.brx ⟨2, 0, 0⟩) (full .s tx) (fun t => t.faults.map (·.cause) == [.pcAlign] &&
    (t.strand .s).pc == 0x1000) = true := by decide +kernel

/-- Loops: no trips; room on the loop stack, and four entries in use; an entry to go round and one at its end. -/
def full4 : Task := tx.setStrand .s { pc := 0x1000, loops := List.replicate 4 ⟨0, 0x10000, 5, 0, none⟩ }
theorem witness_loops : (full .s tx).ReadyX true tx ∧ sget tx.s 0 = 0 ∧ sget tx.s 3 ≠ 0 ∧ (tx.strand .s).loops = [] ∧
    (full .s full4).ReadyX true full4 ∧ (full4.strand .s).loops.length = 4 ∧
    ((inLoop 2).strand .s).loops = [⟨0x1000, 0x1010, 2, 0, none⟩] ∧ ((inLoop 1).strand .s).loops = [⟨0x1000, 0x1010, 1, 0, none⟩] := by
  refine ⟨readyX_of ?_ ?_, ?_, ?_, ?_, readyX_of ?_ ?_, ?_⟩ <;> decide +kernel
theorem test_loop_goes_round : thatTask (.mov ⟨7, 1⟩) (at_ .s (inLoop 2)) (fun t => (t.strand .s).pc == 0x1000) = true ∧
    thatTask (.mov ⟨7, 1⟩) (at_ .s (inLoop 1)) (fun t => (t.strand .s).pc == 0x1020 && (t.strand .s).loops == []) = true := by
  decide +kernel
theorem test_loop_nest : thatTask (.loop ⟨3, 2⟩) (full .s full4) (fun t => t.faults.map (·.cause) == [.loopNest]) = true := by
  decide +kernel
def piping : Task := (task []).setStrand .s (piped 0)
theorem witness_x_in_loopm : (at_ .s piping).task 0 = some piping ∧ (at_ .s piping).heldBack piping .s = false ∧
    (piping.strand .s).inLoopm ≠ none := by decide +kernel
/-- ForkRendezvousExit: every live strand is there, and one is behind. -/
theorem witness_rendezvous : (full .s tx).ReadyX false tx ∧
    (∀ y ∈ tx.live, ¬(y.epoch < (tx.strand .s).epoch ∨ (y.epoch = (tx.strand .s).epoch ∧ y.path < (tx.strand .s).path))) ∧
    (full .s (fed tx)).ReadyX false (fed tx) ∧ (∃ y ∈ (fed tx).live, y.epoch = 0 ∧ y.path < ((fed tx).strand .s).path) := by
  refine ⟨readyX_of ?_ ?_, ?_, readyX_of ?_ ?_, ?_⟩ <;> decide +kernel
theorem test_fork_empties : thatTask (.fork 2) (full .s full4) (fun t => (t.strand .s).pc == 0x1020 && (t.strand .s).loops == [] &&
    (t.strand .s).path == 0 && (t.strand .s).epoch == 1) = true := by decide +kernel

/-! ## Exceptions, R437 to R448 -/

/-- A task with a user handler at 0x1040 (its frame at 0x1200) and one fault. -/
def tf (cause : Cause) : Task :=
  { task [(4, 9)] with ufentry := 0x8000000000001200, faults := [{ cause := cause, strand := some .s, pc := 0x1000 }] }
def sf (cause : Cause) : State := { full .s (tf cause) (List.replicate 256 0 ++ [0x40, 0x10]) with input := ⟨0, 0, .none⟩ }
/-- ExceptionEntry: a user-class fault whose handler can be entered, a kernel-class one. -/
theorem witness_exception_entry : ((sf .intDivzero).enterHandler 0 (tf .intDivzero)
      { cause := .intDivzero, strand := some .s, pc := 0x1000 }).isOk = true ∧
    (sf .intDivzero).records = [] ∧ (sf .intDivzero).task 0 = some (tf .intDivzero) ∧ (tf .intDivzero).faults.Nodup ∧
    (tf .intDivzero).ufentry.getLsbD 63 = true ∧ (tf .intDivzero).ufentry.getLsbD 62 = false ∧
    (Cause.isUser .tileBounds = false) ∧ (sf .tileBounds).maySave 0 (tf .tileBounds) = true := by decide +kernel
theorem test_handler_entry : thatTask .faultDelivery (sf .intDivzero) (fun t => (t.strand .v).pc == 0x1040 && sIs 1 0x1200 t &&
    sIs 2 (BitVec.ofNat 64 Cause.intDivzero.code) t && sIs 4 9 t && t.ufentry.getLsbD 62 && t.faults == []) = true := by
  decide +kernel

/-- UserHandlerEntry, FaultRings: a frame that can be read and written, one that cannot; a ring in device memory whose next entry is
free. -/
theorem witness_frame : (tf .intDivzero).kernel = false ∧ bits (tf .intDivzero).ufentry 55 9 * 512 = 0x1200 ∧
    (∃ s1 h, (sf .intDivzero).readRun ((tf .intDivzero).who 0) .rd 0x1200 8 = (s1, .ok h)) ∧
    (((sf .intDivzero).readRun ((tf .intDivzero).who 0) .rd 0x1200 8).1.writeRuns ((tf .intDivzero).who 0)
      [(0x1208, leBytes 8 0), (0x1240, leBytes 64 0), (0x1280, leBytes 152 0)]).2 = none ∧
    ((sf .intDivzero).readRun ((tf .intDivzero).who 0) .rd 0x3000 8).2.isOk = false ∧
    (sf .intDivzero).dirty = [] ∧ (sf .intDivzero).lost = [] ∧ whereIs 0x1400 = .hbm ∧ (sf .intDivzero).physNat 0x1401 1 % 2 = 0 := by
  refine ⟨?_, ?_, ok_of ?_, ?_, ?_, ?_, ?_, ?_, ?_⟩ <;> decide +kernel

/-- FretReturns: no fault in progress; a handler that returns, with its frame as the entry left it. -/
theorem test_fret_without_fault : thatTask .fret (full .s tx) (fun t => t.faults.map (·.cause) == [.noUserFault]) = true := by
  decide +kernel
def inHandler : State := after .faultDelivery (sf .intDivzero)
def th : Task := (inHandler.task 0).getD {}
theorem witness_fret : inHandler.ReadyX false th ∧ th.saved.isSome = true ∧
    (inHandler.waited th).allReached (th.strand .s) = true ∧
    (∀ k ∈ th.saved, (inHandler.begun th).handlerDone 0 (inHandler.waited th) k = true) ∧ th.defer = [] :=
  ⟨readyX_of (by decide +kernel) (by decide +kernel), by decide +kernel⟩
theorem test_fret_returns : thatTask .fret inHandler (fun t => (t.strand .s).pc == 0x1000 && t.saved == none &&
    !t.ufentry.getLsbD 62) = true := by decide +kernel

/-! ## Vector words, R227 to R259 -/

def vl (w : Nat) (l : List Nat) : Vec := vecOf w l
/-- A task whose S strand has passed its first word, with v1 = `a`, v2 = `b`, p4 = `p` and s9 = 9. -/
def vt (a b : Vec) (p : BitVec 128 := 0) : Task := fed { task [(9, 9)] with v := [(1, a), (2, b)], p := SMap.put 0 [] 4 p }
def vs (a b : Vec) (p : BitVec 128 := 0) : State := full .v (vt a b p)
def lane (w i : Nat) (r : BitVec 10) (n : Nat) (t : Task) : Bool := laneAt w (t.vread 0 r) i == n

theorem test_vadd_i8_wraps : thatTask (.vadd ⟨.reg 3, .reg 1, .reg 2, p0, .i8⟩) (vs (vl 8 [100, 200]) (vl 8 [100, 100]))
    (fun t => lane 8 0 3 200 t && lane 8 1 3 44 t) = true := by decide +kernel
theorem test_vadds_saturates : thatTask (.vadds ⟨.reg 3, .reg 1, .reg 2, p0, .i8⟩) (vs (vl 8 [100, 200]) (vl 8 [100, 156]))
    (fun t => lane 8 0 3 127 t && lane 8 1 3 128 t) = true := by decide +kernel
theorem test_merging_and_zeroing : thatTask (.vsub ⟨.reg 1, .reg 1, .reg 2, ⟨4, false⟩, .n32⟩) (vs (vl 32 [7, 7]) (vl 32 [2, 2]) 1)
      (fun t => lane 32 0 1 5 t && lane 32 1 1 7 t) = true ∧
    thatTask (.vsub ⟨.reg 1, .reg 1, .reg 2, ⟨4, true⟩, .n32⟩) (vs (vl 32 [7, 7]) (vl 32 [2, 2]) 1)
      (fun t => lane 32 0 1 5 t && lane 32 1 1 0 t) = true := by decide +kernel
/-- 1.5 + 2.25 = 3.75; 1/0 gives infinity and sets DZ. -/
theorem test_vfadd_f32 : thatTask (.vfadd ⟨.reg 3, .reg 1, .reg 2, p0, .f32, .rne, false⟩)
    (vs (vl 32 [0x3fc00000]) (vl 32 [0x40100000])) (lane 32 0 3 0x40700000) = true := by decide +kernel
theorem test_vfdiv_by_zero : thatTask (.vfdiv ⟨.reg 3, .reg 1, .reg 2, ⟨4, true⟩, .f32, .rne, false⟩)
    (vs (vl 32 [0x3f800000]) (vl 32 [0]) 3) (fun t => lane 32 0 3 0x7f800000 t && t.fpstat == 2) = true := by decide +kernel
/-- The example of 07: the 16 bits below are more than half, so the result rounds up to 0x3f81. -/
theorem test_vcvt_example : thatTask (.vcvt ⟨.reg 20, .reg 1, p0, .bf16, .f32, .rne, false, 1⟩) (vs (vl 32 [0x3f808001]) 0)
    (lane 16 64 20 0x3f81) = true := by decide +kernel
theorem test_vfcmp_nan : thatTask (.vfcmp ⟨5, .reg 1, .reg 2, ⟨4, true⟩, .f32, .un⟩) (vs (vl 32 [0x7fc00000, 0]) 0 0xff)
    (fun t => (t.pread 0 5) == 0x3) = true := by decide +kernel
theorem test_vrsum_i32 : thatTask (.vrsum ⟨.reg 3, .reg 1, 4, .i32, .rne⟩) (vs (vl 32 [5, 7, 100]) 0 0x5)
    (fun t => lane 32 0 3 12 t && lane 32 1 3 0 t) = true := by decide +kernel
theorem test_vshuf_zlo : thatTask (.vshuf ⟨.reg 3, .reg 1, .reg 2, p0, .n32, .zlo⟩) (vs (vl 32 [1, 2]) (vl 32 [8, 9]))
    (fun t => lane 32 0 3 1 t && lane 32 1 3 8 t && lane 32 2 3 2 t && lane 32 3 3 9 t) = true := by decide +kernel
theorem test_vsetl : thatTask (.vsetl ⟨1, 9, .n32, 63⟩) (vs (vl 32 [1]) 0) (fun t => lane 32 63 1 9 t && lane 32 0 1 1 t) = true := by
  decide +kernel
theorem test_pset_first : thatTask (.pset ⟨5, .f32, .first, 8⟩) (vs 0 0) (fun t => t.pread 0 5 == 0xffff) = true := by decide +kernel
theorem test_empty_queue_waits : thatTask (.vmov ⟨.reg 3, .pop 0, p0, .f32⟩) (vs 0 0) (fun t => (t.strand .v).pc == 0x1000) = true := by
  decide +kernel
theorem test_fp_trap : thatTask (.vfdiv ⟨.reg 3, .reg 1, .reg 2, ⟨4, true⟩, .f32, .rne, false⟩)
    (full .v (fed { task [] with v := [(1, vl 32 [0x3f800000])], p := [(4, 1)], fpctl := 0x200 }))
    (fun t => t.faults.map (·.cause) == [.fpDivzero] && t.fpstat == 2 && t.vread 0 3 == 0) = true := by decide +kernel

/-- The claims about V words: operands that are registers, one that is a queue's head, a store queue with room and one full,
an empty queue, no trap enabled, types of each width. -/
def vq : Task := { vt 0 0 with q := [(0, [5])] }
theorem witness_v_words : (vs 0 0).Ready true (vt 0 0) ∧ (vs 0 0).cur.eng = .v ∧
    ((vt 0 0).source ((vs 0 0).env (vt 0 0)).rrb (.reg 1)).isSome = true ∧ (vt 0 0).hasRoom (.reg 3) 1 = true ∧
    (vt 0 0).hasRoom (.push 0) 1 = true ∧ trapEnables ((vs 0 0).env (vt 0 0)).fpctl = 0 ∧
    (full .v vq).Ready true vq ∧ vq.source 0 (.pop 0) = some 5 ∧ vq.source 0 (.pop 1) = none ∧
    ({ vq with q := [(8, List.replicate 16 0)] } : Task).hasRoom (.push 0) 1 = false ∧
    physV 0 3 ≠ physV 0 4 := by
  refine ⟨ready_of ?_, rfl, ?_, ?_, ?_, ?_, ready_of ?_, ?_, ?_, ?_, ?_⟩ <;> decide +kernel
theorem witness_v_frame : (∃ op body, (Instr.vadd ⟨.reg 3, .reg 1, .reg 2, p0, .i8⟩).fields = some (.v, op, body)) ∧
    ∃ u, exec (.vadd ⟨.reg 3, .reg 1, .reg 2, p0, .i8⟩) (vs 0 0) = .next u :=
  ⟨⟨_, _, rfl⟩, answers_of (by decide +kernel)⟩

/-! ## The array, slots and tiles, R78 to R107, R260 to R301 -/

/-- A 2 × 2 row-major f32 tensor at 0x1200 with stride 2, and the module with it bound to slot 3. -/
def desc : BitVec 512 := BitVec.ofNat 512 (0x1200 + 2 * 2 ^ 69 + 2 * 2 ^ 128 + 2 * 2 ^ 160 + 2 ^ 192 + 2 ^ 224 + 2 * 2 ^ 256)
def dataBytes : List Byte := leBytes 64 desc.toNat ++ List.replicate 192 0 ++
  [0, 0, 0x80, 0x3f, 0, 0, 0, 0x40, 0, 0, 0x40, 0x40, 0, 0, 0x80, 0x40]
def ta : Task := fed (task [(1, 0x1100), (2, 0x1140), (3, 0x1104)])
def sA : State := full .a ta dataBytes
theorem test_desc_checks : descCheck 0x1100 desc = none ∧ descCheck 0x1110 desc = some .descriptorInvalid := by decide +kernel

theorem test_tbind : thatTask (.tbind ⟨3, 1, 0⟩) sA (fun t => (t.binding 3).isSome && (t.binding 2).isNone) = true := by decide +kernel
theorem test_tbind_misaligned : thatTask (.tbind ⟨3, 3, 0⟩) sA (fun t => t.faults.map (·.cause) == [.descriptorInvalid]) = true := by
  decide +kernel
def tb3 : Task := ta.bindSlot 3 (mkBinding 0x1100 desc)
/-- The state with slot 3 bound. -/
def sB : State := full .a tb3 dataBytes
theorem test_tfill_parks : thatTask (.tfill ⟨3, 0⟩) sB (fun t => t.replay.length == 1 && t.fills.length == 1 &&
    (t.strand .a).pc == 0x1010) = true := by decide +kernel
/-- The fill, and then the parked word. -/
def sFilled : State := after .tileFill { after (.tfill ⟨3, 0⟩) sB with input := ⟨0, 0, .none⟩ }
theorem test_fill_reads_memory : ((sFilled.core 0).tiles.map fun x => [x.elem 0, x.elem 1, x.elem 2, x.elem 32, x.elem 33]) =
    [[0x3f800000, 0x40000000, 0, 0x40400000, 0x40800000]] := by decide +kernel
theorem test_parked_word_executes : thatTask .replayExecute { sFilled with input := ⟨0, 0, .none⟩ } (fun t => t.replay == []) = true := by
  decide +kernel

def desc16 : BitVec 512 := desc + BitVec.ofNat 512 (2 * 2 ^ 64)
def tBoth : Task := (ta.bindSlot 3 (mkBinding 0x1100 desc)).bindSlot 4 (mkBinding 0x1140 desc16)
/-- The tiles (0, 0) of slots 3 and 4, both filled. -/
def tiles : List Tile := [3, 4].flatMap fun n =>
  ((after .tileFill { after (.tfill ⟨n, 0⟩) (full .a tBoth dataBytes) with input := ⟨0, 0, .none⟩ }).core 0).tiles
/-- The task with both tiles resident, its cluster's array held by core 0. -/
def withTiles (e : Eng) (t : Task) : State :=
  { full e t dataBytes with cores := [(0, { task := some t, tiles := tiles })], clusters := [(0, { holder := some 0 })] }
def mt3 : MTile := ⟨3, 0, none, false, false⟩
def mt4 : MTile := ⟨4, 0, none, false, false⟩

theorem readyTiles_of {s : State} {i : Instr} {t : Task} (h : readyB s true t = true)
    (h2 : t.clash s.cur.eng (accOf i) [] = false) : s.ReadyTiles i t := { toReady := ready_of h, apart := h2 }
def arrayB (s : State) (i : Instr) (t : Task) : Bool :=
  readyB s true t && !t.clash s.cur.eng (accOf i) [] && s.cur.eng == .m && (s.cluster s.cur.core).holder == some s.cur.core &&
  !s.mustPass (s.cluster s.cur.core)
theorem readyArray_of {s : State} {i : Instr} {t : Task} (h : arrayB s i t = true) : s.ReadyArray i t := by
  simp only [arrayB, Bool.and_eq_true, beq_iff_eq, Bool.not_eq_true'] at h
  obtain ⟨⟨⟨⟨h1, h2⟩, h3⟩, h4⟩, h5⟩ := h
  exact { toReadyTiles := readyTiles_of h1 h2, onM := h3, held := h4, kept := h5 }

/-- LeaseWords: no parked word, the lease held, free, and requested; an array word without it. -/
def sL (cl : Cluster) : State := { full .m (fed (task [])) with clusters := [(0, cl)] }
theorem witness_lease : (∀ cl ∈ [({} : Cluster), { holder := some 0 }, { reqs := [0] }],
      (sL cl).Ready false (fed (task []))) ∧ (fed (task [])).anyParked .m = false ∧
    (sL {}).ReadyTiles (.accz ⟨0⟩) (fed (task [])) ∧ ((sL {}).cluster 0).holder ≠ some 0 ∧ 0 ∉ ((sL {}).cluster 0).reqs ∧
    0 ∈ ((sL { reqs := [0] }).cluster 0).reqs := by
  have h : ∀ cl ∈ [({} : Cluster), { holder := some 0 }, { reqs := [0] }], readyB (sL cl) false (fed (task [])) = true := by
    decide +kernel
  exact ⟨fun cl hc => ready_of (h cl hc), by decide +kernel, readyTiles_of (by decide +kernel) (by decide +kernel),
    by decide +kernel⟩
theorem test_lease_not_held : thatTask (.accz ⟨0⟩) (sL {}) (fun t => t.faults.map (·.cause) == [.leaseNotHeld]) = true := by
  decide +kernel
theorem test_lease_posts_request : ((after .lease (sL {})).cluster 0).reqs = [0] := by decide +kernel
theorem test_mburst : ((after .mburstStart (sL {})).cluster 0).bursts = [(0, (sL {}).chrono)] := by decide +kernel

/-- SetsArePlaced: a spilled set with room for it; two other tenancies, of which the first was named less recently. -/
def tSpilled : Task := { fed (task []) with accs := [(0, { st := .spilled })] }
theorem witness_sets : (full .m tSpilled).task 0 = some tSpilled ∧ (tSpilled.acc 0).st = .spilled ∧ tSpilled.ctx = some 0 ∧
    ((full .m tSpilled).cluster 0).sets.length < 2 ∧ (0, 0) ∉ (sL { sets := [(0, 1), (1, 0)] } |>.cluster 0).sets ∧
    (sL { sets := [(0, 1), (1, 0)] } |>.cluster 0).sets.head? = some (0, 1) ∧ (fed (task [])).ctx = some 0 := by decide +kernel
theorem test_attfin_places_empty_set : thatTask (.attfin ⟨0⟩) (sL { holder := some 0 })
    (fun t => (t.acc 0).st == .resident && (t.acc 0).cells == []) = true := by decide +kernel

/-- AccumulatorWords: ACCLD of the resident f32 tile, ACCST to it. -/
def sM : State := withTiles .m tBoth
theorem witness_accld : sM.ReadyArray (.accld ⟨0, mt3, .f32, .f32, 0⟩) tBoth ∧ tBoth.peerBad none = false ∧
    (tBoth.binding 3).isSome = true ∧ (mkBinding 0x1100 desc).d.ty = .f32 ∧
    (∃ s1 l, (sM.begun tBoth).nameRead 0 (sM.waited tBoth) 0 (mkBinding 0x1100 desc) (mSlab mt3 (sM.env tBoth) 8 256) false false =
      (s1, .ok l)) ∧
    (∀ l ∈ (((sM.begun tBoth).nameRead 0 (sM.waited tBoth) 0 (mkBinding 0x1100 desc) (mSlab mt3 (sM.env tBoth) 8 256)
        false false).2).toOption, tBoth.clash .m none l = false ∧ sM.allHit (sM.waited tBoth) l = true ∧
        (sM.viewOf (sM.waited tBoth) 0 (mSlab mt3 (sM.env tBoth) 8 256) l).isSome = true) := by
  refine ⟨readyArray_of ?_, ?_, ?_, ?_, ok_of ?_, ?_⟩ <;> decide +kernel
theorem test_accz : thatTask (.accz ⟨1⟩) sM (fun t => t.acc 1 == {}) = true := by decide +kernel

/-- MatrixMultiply: both operands the resident bf16 tile. -/
theorem witness_mma : sM.ReadyArray (.mma ⟨0, mt4, mt4, .bf16, .bf16, 0⟩) tBoth ∧ (mkBinding 0x1140 desc16).d.ty = .bf16 ∧
    tBoth.binding 4 = some (mkBinding 0x1140 desc16) ∧
    (∃ s1 l, (sM.begun tBoth).nameRead 0 (sM.waited tBoth) 0 (mkBinding 0x1140 desc16)
      (mSlab mt4 (sM.env tBoth) 256 32) false false = (s1, .ok l)) ∧
    (∀ l ∈ (((sM.begun tBoth).nameRead 0 (sM.waited tBoth) 0 (mkBinding 0x1140 desc16) (mSlab mt4 (sM.env tBoth) 256 32)
        false false).2).toOption, tBoth.clash .m none (l ++ l) = false ∧ sM.allHit (sM.waited tBoth) (l ++ l) = true ∧
        (sM.viewOf (sM.waited tBoth) 0 (mSlab mt4 (sM.env tBoth) 256 32) (l ++ l)).isSome = true) := by
  refine ⟨readyArray_of ?_, ?_, ?_, ok_of ?_, ?_⟩ <;> decide +kernel

/-- AttentionWords: a set without a triple for ATTQ and ATTMRG, one with a query buffer for ATTKV, ATTFIN and ATTST. -/
def tq : Task := { tBoth with accs := [(0, { st := .resident, tri := some ⟨[], [], 1, some ⟨[], .bf16, 2, 1, 0, 0, 0, 0, 1⟩⟩ })] }
theorem witness_attention : sM.ReadyArray (.attq ⟨0, mt4, 0, .bf16, 0⟩) tBoth ∧
    bits (kget (sM.env tBoth).k 0) 95 64 ≤ 2 ∧
    (withTiles .m tq).ReadyArray (.attkv ⟨0, mt4, mt4, .bf16, .bf16, 0⟩) tq ∧ (tq.acc 0).tri.isSome = true ∧
    kvBad ⟨[], .bf16, 2, 1, 0, 0, 0, 0, 1⟩ .bf16 (mkBinding 0x1140 desc16) (mkBinding 0x1140 desc16) 0 0 = false ∧
    (withTiles .m tq).ReadyArray (.attfin ⟨0⟩) tq ∧ sM.ReadyArray (.attfin ⟨0⟩) tBoth ∧ (tBoth.acc 0).tri = none ∧
    (tBoth.acc 0).st = .empty ∧ (tBoth.acc 0).plain = false ∧ sM.ReadyArray (.attmrg ⟨0, mt3, mt3, .f32, 0⟩) tBoth := by
  refine ⟨readyArray_of ?_, ?_, readyArray_of ?_, ?_, ?_, readyArray_of ?_, readyArray_of ?_, ?_, ?_, ?_,
    readyArray_of ?_⟩ <;> decide +kernel
theorem test_attq_operand_type : thatTask (.attq ⟨0, mt3, 0, .bf16, 0⟩) sM (fun t => t.faults.map (·.cause) == [.operandType]) = true := by
  decide +kernel
theorem test_accld_cells : thatTask (.accld ⟨0, mt3, .f32, .f32, 0⟩) sM
    (fun t => (t.acc 0).cells.take 2 == [(0, 0x3f800000), (1, 0x40000000)]) = true := by
  decide +kernel

/-- SlotBindings: a descriptor that can be bound, a misaligned one; a bound slot; VERSION older than the minimum and not. -/
def sBound : State := withTiles .a tBoth
theorem witness_slots : sA.Ready true ta ∧ ta.anyParked .a = false ∧ sA.slotBusy 0 ta 3 = false ∧
    (sA.begun ta).wordBehind 0 (sA.waited ta) (sA.env ta) [(0x1100, 64)] = false ∧
    (∃ s1 l, (sA.begun ta).readRun (ta.whoAs 0 .a) .rd 0x1100 64 = (s1, .ok l)) ∧ descCheck 0x1100 desc = none ∧
    (∃ s2, sA.rebind 0 ta 3 (mkBinding 0x1100 desc) = (s2, none)) ∧ (sget (sA.env ta).s 3).toNat % 64 ≠ 0 ∧
    sBound.Ready false tBoth ∧ tBoth.binding 3 ≠ none ∧ tBoth.binding 5 = none ∧
    (∃ s2, (sBound.begun tBoth).clearSlot 0 (sBound.waited tBoth) 3 = (s2, none)) ∧
    (tBoth.strand .a).phase ≠ .rereading ∧
    (sBound.begun tBoth).wordBehind 0 (sBound.waited tBoth) (sBound.env tBoth) [(0x1100 + 12, 4)] = false ∧
    (∃ s1 n, (sBound.begun tBoth).readNat (tBoth.whoAs 0 .a) (0x1100 + 12) 4 = (s1, .ok n)) := by
  refine ⟨ready_of ?_, ?_, ?_, ?_, ok_of ?_, ?_, pair_of ?_, ?_, ready_of ?_, ?_, ?_, pair_of ?_, ?_, ?_, ok_of
    ?_⟩ <;> decide +kernel
theorem test_tunb_drops : thatTask (.tunb ⟨3⟩) sBound (fun t => (t.binding 3).isNone) = true ∧
    ((after (.tunb ⟨3⟩) sBound).core 0).tiles.map (·.name.slot) = [4] := by decide +kernel
theorem test_tvacq_waits : thatTask (.tvacq ⟨3, 0, 1, .die⟩) sBound (fun t => (t.strand .a).phase == .rereading &&
    (t.strand .a).pc == 0x1000) = true := by decide +kernel
theorem test_tvbump : (after (.tvbump ⟨3, .die⟩) sBound).physNat 0x110c 4 = 1 := by decide +kernel
theorem test_unbound : thatTask (.tfill ⟨5, 0⟩) sBound (fun t => t.faults.map (·.cause) == [.slotUnbound]) = true := by decide +kernel

/-- TileHousekeeping, TileWords: a bound slot, one that is not; a tile that is there, one that is not; no parked word. -/
theorem witness_tiles : sBound.Ready true tBoth ∧ (∀ w ∈ tBoth.replay, w.env.eng ≠ .a) ∧ (tBoth.binding 3).isSome = true ∧
    sBound.tileBusy 0 3 0 = false ∧ tBoth.itins.length < 4 ∧ sBound.ReadyTiles (.tfill ⟨3, 0⟩) tBoth ∧
    sBound.ReadyTiles (.tpin ⟨3, 0, 0, 0⟩) tBoth ∧ sBound.ReadyTiles (.tzero ⟨3, 0⟩) tBoth ∧
    sBound.ReadyTiles (.tcopy ⟨3, 0, 4, 0, none, false⟩) tBoth ∧
    (sBound.hitTile tBoth { core := 0, slot := 3, k := 0, write := true }).isSome = true ∧
    sBound.hitTile tBoth { core := 0, slot := 3, k := 1, write := true } = none ∧
    (sBound.begun tBoth).setFull (sBound.waited tBoth) [{ core := 0, slot := 3, k := 1, write := true }] = none ∧
    (∃ s1, (sBound.begun tBoth).flushStale (sBound.waited tBoth) [{ core := 0, slot := 3, k := 1, write := true }] = (s1, none)) ∧
    (sBound.begun tBoth).wordBehind 0 (sBound.waited tBoth) (sBound.env tBoth) [(0x1100, 4)] = false ∧
    (sBound.hitTile tBoth { core := 0, slot := 3, k := 0, write := true }).any (fun x => x.owner == tBoth.uid &&
      x.bind.d.layout != 2 && ((sBound.begun tBoth).placeTile 0 .wr x (some (.strand 0 .a))).2.isOk) = true ∧
    (∃ s1, (sBound.begun tBoth).writeBackAll 0 ((sBound.core 0).tile ⟨1, 3, 0⟩).toList = (s1, none)) := by
  refine ⟨ready_of ?_, ?_, ?_, ?_, ?_, readyTiles_of ?_ ?_, readyTiles_of ?_ ?_, readyTiles_of ?_ ?_, readyTiles_of ?_
    ?_, ?_, ?_, ?_, pair_of ?_, ?_, ?_, pair_of ?_⟩ <;> decide +kernel
theorem test_tpin : ((after (.tpin ⟨3, 0, 0, 0⟩) sBound).core 0).tiles.map (fun x => (x.name.slot, x.pinned)) =
    [(3, true), (4, false)] := by decide +kernel
theorem test_tinv_slot : ((after (.tinvSlot ⟨3, 0⟩) sBound).core 0).tiles.map (·.name.slot) = [4] := by decide +kernel

/-! ## Generators and index registers, R302 to R316 -/

/-- A record for four f32 elements from 0x1200, one to a step of 4 bytes. -/
def tg : Task := fed { task [(1, 0x1200), (2, 4), (3, 0x1204), (4, 257), (5, 0x100000004)] with
  g := SMap.put 0 [] 1 (BitVec.ofNat 256 0x1200), gens := [(2, { mode := .running, load := true, queue := 3 }),
    (4, { mode := .stopped, kind := .idx [1, 2] })] }
def sG : State := full .a tg dataBytes
theorem witness_generators : sG.Ready true tg ∧ sG.Ready false tg ∧ (tg.gen 1).active = false ∧ tg.genBusy 1 0 = false ∧
    tg.genBusy 2 0 = true ∧ tg.genBusy 1 3 = true ∧ (tg.gen 4).mode = .stopped ∧ (tg.gen 4).entry < (tg.gen 4).kind.count ∧
    (tg.gen 2).active = true ∧ (sG.begun tg).wordBehind 0 (sG.waited tg) (sG.env tg) [(0x1200, 32)] = false ∧
    (∃ s1 v, (sG.begun tg).readNat (tg.whoAs 0 .a) 0x1200 32 = (s1, .ok v)) := by
  refine ⟨ready_of ?_, ready_of ?_, ?_, ?_, ?_, ?_, ?_, ?_, ?_, ?_, ok_of ?_⟩ <;> decide +kernel
theorem test_ldx : thatTask (.ldx ⟨6, 1, 2, 9⟩) sG (fun t => (t.index 6).len == 4 && (t.index 6).bound == 9 &&
    SMap.look 0 (t.index 6).ent 0 == 0x3f800000 && SMap.look 0 (t.index 6).ent 3 == 0x40800000) = true := by decide +kernel
theorem test_ldx_overflow : thatTask (.ldx ⟨6, 1, 4, 9⟩) sG (fun t => t.faults.map (·.cause) == [.indexOverflow] &&
    (t.index 6).len == 0) = true := by decide +kernel

/-- IndexedAccess: an index register within its bound, one whose second entry is not, one of no entries, one with a stale
mark. -/
def ti : Task := { tg with i := [(1, { ent := [(0, 2), (1, 3)], len := 2, bound := 4 }), (2, { ent := [(1, 7)], len := 2, bound := 4 }),
  (5, { ent := [(0, 2)], len := 1, bound := 4, mark := some (0x1200, 9) })] }
def sI : State := full .a ti dataBytes
theorem witness_indexed : sI.Ready true ti ∧ ti.genBusy 1 0 = false ∧ (ti.index 1).len = 2 ∧ (ti.index 1).mark = none ∧
    (ti.index 3).len = 0 ∧ (SMap.look 0 (ti.index 2).ent 1).toNat = (ti.index 2).bound.toNat + 3 ∧
    (∃ s1 n, (sI.begun ti).readNat (ti.whoAs 0 .a) (0x1200 + 52) 4 = (s1, .ok n)) ∧ 
    (sI.begun ti).wordBehind 0 (sI.waited ti) (sI.env ti) [(0x1200 + 52, 4)] = false ∧
    (sget (sI.env ti).s 4).toNat = 257 ∧ (sget (sI.env ti).s 2).toNat ≤ 256 ∧
    (∃ s1 l, (sI.begun ti).readRun (ti.whoAs 0 .a) .rd 0x1200 16 = (s1, .ok l)) := by
  refine ⟨ready_of ?_, ?_, ?_, ?_, ?_, ?_, ok_of ?_, ?_, ?_, ?_, ok_of ?_⟩ <;> decide +kernel
theorem test_gather_bounds : thatTask (.gatherLin ⟨1, 2, 0, 1, 2, .f32, 4⟩) sI
    (fun t => t.faults.map (fun f => (f.cause, f.info)) == [(.gatherBounds, 0x100000007)]) = true := by decide +kernel
theorem test_gather_starts : thatTask (.gatherLin ⟨1, 1, 0, 1, 2, .f32, 4⟩) sI (fun t => (t.gen 1).mode == .running &&
    (t.gen 1).kind == .rows [0x1208, 0x120c] 4 .f32) = true := by decide +kernel
theorem test_stale_index : thatTask (.gatherIdx ⟨1, 5, 0⟩) sI (fun t => t.faults.map (·.cause) == [.staleIndex]) = true := by
  decide +kernel
/-- The running load pushes one entry: the first row, 4 bytes from 0x1208. -/
theorem test_load_entry : thatTask .generatorLoadEntry
    { after (.gatherLin ⟨1, 1, 0, 1, 2, .f32, 4⟩) sI with input := ⟨0, 1, .none⟩ }
    (fun t => (SMap.look [] t.q 0).length == 1 && (t.gen 1).entry == 1) = true := by decide +kernel
theorem witness_entries : (∃ s, s = { after (.gatherLin ⟨1, 1, 0, 1, 2, .f32, 4⟩) sI with input := ⟨0, 1, .none⟩ } ∧
    (s.task 0).isSome = true ∧ ((s.task 0).any fun t => (t.gen 1).mode == .running && (t.gen 1).load &&
      !s.runBehind 0 t (t.gen 1) (((t.gen 1).kind.parts 0).drop 0)) = true) := ⟨_, rfl, by decide +kernel⟩

/-- The state after a step of the part itself, with what comes to it. -/
def does (i : Instr) (unit idx : Nat) (l : Payload) (s : State) : State := after i { s with input := ⟨unit, idx, l⟩ }

/-! ## Fabric and job words, R318 to R349 -/

def gd : GroupDesc := { slots := 1, timeout := 0, count := 1, oty := .f32, ity := .f32, op := 0, gid := 0, mask := 0, base := 0 }
def tF : Task := fed { task [(1, 0x1100), (2, 0x1200), (3, 8), (4, 0x4000000000000), (6, 0x100000001)] with
  groups := [(1, { st := .ready, desc := some gd }), (2, { st := .busy, desc := some gd }),
    (3, { st := .aborted, cause := .linkLost, desc := some gd })] }
def sF : State := full .f tF dataBytes
theorem readyF_of {s : State} {needs : Bool} {t : Task} {n : Nat} (h : readyB s needs t = true) (h1 : s.cur.eng = .f)
    (h2 : t.ctx = some n) (h3 : t.takeDeferred (t.strand .f).pc = none) (h4 : (s.ownReqs n t.image).any (·.acq.isSome) = false) :
    s.ReadyF needs t n := { toReady := ready_of h, onF := h1, inCtx := h2, sound := h3, landed := h4 }
def own : FReq :=
  { id := 7, core := 0, image := 0, ctx := 0, order := 0, pc := 0x1000, die := 0, dst := 0, key := 0, fid := 0x77, adp := false,
    bank := false, va := 0x1200, op := .read 8, land := some 0x1100, landSize := 8, sent := 0, waits := [], acq := none,
    rel := none, performed := false }
/-- RemoteWords, GroupWords: a free landing and one that an earlier request still has; operands in and out of range; groups
unset, ready, busy and aborted; a failure kept. -/
theorem witness_f_words : sF.ReadyF true tF 0 ∧ sF.ReadyF false tF 0 ∧
    sF.landBusy tF 0 0x1100 8 = false ∧ { sF with reqs := [own] }.landBusy tF 0 0x1100 8 = true ∧
    (sget (sF.env tF).s 4).extractLsb' 50 14 ≠ 0 ∧ (sget (sF.env tF).s 1).extractLsb' 50 14 = 0 ∧
    2 ^ 32 < (sget (sF.env tF).s 6).toNat ∧ (sget (sF.env tF).s 3).toNat = 8 ∧
    (tF.group 0).st = .unset ∧ (tF.group 1).st = .ready ∧ (tF.group 2).st = .busy ∧ (tF.group 3).st = .aborted ∧
    (∃ s1 b, (sF.begun tF).readRun (tF.who 0) .rd 0x1100 8 = (s1, .ok b)) ∧
    (∃ s2, (sF.begun tF).writeRun (tF.who 0) .wr 0x1200 (leBytes 8 3) = (s2, none)) ∧
    (∃ s1 v, (sF.begun tF).readNat (tF.who 0) 0x1100 64 = (s1, .ok v)) := by
  refine ⟨readyF_of ?_ rfl rfl ?_ ?_, readyF_of ?_ rfl rfl ?_ ?_, ?_, ?_, ?_, ?_, ?_, ?_, ?_, ?_, ?_, ?_, ok_of ?_,
    pair_of ?_, ok_of ?_⟩ <;> decide +kernel
def tD : Task := { tF with groups := [], defer := [⟨3, .linkLost, 0x500, 0x1200, some 9, 0⟩, ⟨1, .peerAbsent, 0x400, 0x1300, some 8, 0⟩] }
theorem witness_deferred : (full .f tD).Ready true tD ∧ (∀ x ∈ tD.defer, x ≠ ⟨1, .peerAbsent, 0x400, 0x1300, some 8, 0⟩ → 1 < x.order) :=
  ⟨ready_of (by decide +kernel), by decide +kernel⟩
theorem test_rput_posts : (after (.rput ⟨5, 1, 2, 0, 3, false⟩) sF).reqs.map (fun r => (r.dst, r.va, r.op)) =
    [(5, 0x1200, .put (dataBytes.take 8))] := by decide +kernel
theorem test_deferred_taken : thatTask .rwait (full .f tD) (fun t => t.defer == [] &&
    t.faults.map (fun f => (f.cause, f.pc, f.more)) == [(.peerAbsent, 0x400, 1)]) = true := by decide +kernel
theorem test_mcast_unset : thatTask (.mcast ⟨1, 2, 3, 0, false⟩) sF (fun t => t.faults.map (·.cause) == [.groupUnset]) = true := by
  decide +kernel
/-- GroupWords: a router that holds the context's key and the one member's label; one without the key, one without the label. -/
def rt : Router := { keys := [(0, 0x8000001000000000)] }
def rtAbsent : Router := { labels := [(0, 0)] }
theorem witness_members : gd.members = [0] ∧ (rt.physOf rt.inj 0).isSome = true ∧ (rt.keyEntry rt.inj 0).isSome = true ∧
    rtAbsent.physOf false 0 = none ∧
    (sF.router 0).keyEntry false 0 = none ∧ (sF.fabOf 0).extractLsb' 0 16 = 0 := by decide +kernel
theorem test_mldred_contributes : (after (.mldred ⟨2, 1, 1⟩) (sF.setRouter 0 rt)).contribs.map (fun x => (x.msg.key, x.msg.vals.length)) =
    [(0, 1)] := by decide +kernel
theorem test_mldred_absent_member : thatTask (.mldred ⟨2, 1, 1⟩) (sF.setRouter 0 rtAbsent) (fun t => t.defer.getLast?.map (fun x => (x.cause, x.label)) ==
    some (.peerAbsent, some 0) && (t.group 1).absent == some 0 && (t.group 2).st == .aborted) = true := by decide +kernel
/-- A group busy, member count 1: STATE 10, cause 0. -/
theorem test_grpstat : (after (.grpstat ⟨2, 2⟩) sF).physNat 0x1200 8 = 0x10002 := by decide +kernel

/-- A fill of 3 bytes 0xab at 0x1300, and a commit of position 3 of the sequence at 0x1180. -/
def fillCard : Nat := 2 + 256 + 0x1300 * 2 ^ 320 + 3 * 2 ^ 384 + 2 ^ 416 + 2 ^ 448 + 2 ^ 576 + 0xab * 2 ^ 896
def tJ : Task := fed (task [(1, 0x1100), (2, 0x1200), (3, 0x1104), (5, 7)])
def sJ : State := full .j tJ (leBytes 128 fillCard)
theorem test_fill_card : cardBad 2 (BitVec.ofNat 1024 fillCard) = false ∧ cardBad 1 (BitVec.ofNat 1024 fillCard) = true := by
  decide +kernel
/-- JobStrandWords: a card that is valid, a misaligned one, room in the intake and the quota; an unknown job, an accepted one
and one that has ended. -/
def job1 : Job := ⟨0, 7, BitVec.ofNat 1024 fillCard, none, 0, some 0, none, 1, 0, none⟩
theorem witness_jobs : sJ.Ready true tJ ∧ tJ.ctx = some 0 ∧ (sget (sJ.env tJ).s 1).toNat % 128 = 0 ∧
    (sget (sJ.env tJ).s 3).toNat % 128 ≠ 0 ∧ (∃ s1 v, (sJ.begun tJ).readNat (tJ.whoAs 0 .j) 0x1100 128 = (s1, .ok v)) ∧
    cardCrec (BitVec.ofNat 1024 fillCard) % 32 = 0 ∧ sJ.jobs = [] ∧ (sJ.ctx 0).jquota = 16 ∧
    (∃ s3, (sJ.begun tJ).writeRun (tJ.whoAs 0 .j) .wr 0x1200 (leBytes 8 0) = (s3, none)) ∧
    ({ sJ with jobs := [job1] }.jobs.find? fun j => j.ctx == 0 && j.handle == 7 && j.node.isNone) = some job1 ∧
    (sJ.begun tJ).ownsQueue 0 0 = true ∧ (sJ.begun tJ).ownsQueue 0 1 = false := by
  refine ⟨ready_of ?_, rfl, ?_, ?_, ok_of ?_, ?_, ?_, ?_, pair_of ?_, ?_, ?_, ?_⟩ <;> decide +kernel
theorem test_jfill_accepted : thatTask (.jfill ⟨1, 2, 0⟩) sJ (fun t => t.jobs == [1]) = true ∧
    ((after (.jfill ⟨1, 2, 0⟩) sJ).jobs.map (·.handle)) = [1] ∧ (after (.jfill ⟨1, 2, 0⟩) sJ).physNat 0x1200 8 = 0x100000000 := by
  decide +kernel
theorem test_jfill_misaligned : (after (.jfill ⟨3, 2, 0⟩) sJ).physNat 0x1200 8 = 3 ∧ (after (.jfill ⟨3, 2, 0⟩) sJ).jobs = [] := by
  decide +kernel
/-- JobWords: a JWAIT that waits has issued. -/
theorem test_jwait_waits : thatTask (.jwait ⟨2, 5⟩) { sJ with jobs := [job1], jobHandle := [(0, 7)] }
    (fun t => (t.strand .j).phase == .issued && (t.strand .j).pc == 0x1000) = true := by decide +kernel
theorem test_jstat_unknown : (after (.jstat ⟨2, 5⟩) sJ).physNat 0x1200 8 = 6 := by decide +kernel

/-! ## Steps of the part itself -/

/-- The fill runs: three bytes, state completed. -/
def sJob : State := { sJ with jobs := [job1], input := ⟨1, 0, .none⟩ }
theorem test_fill_runs : (after .fillJob sJob).physNat 0x1300 4 = 0xababab ∧ (after .fillJob sJob).jobs.map (·.code) = [2] := by
  decide +kernel
/-- CopyAndSelectJobs: a job that has not run, whose elements can all be written. -/
theorem witness_copy_job : job1 ∈ sJob.jobs ∧ job1.seq = sJob.input.unit ∧ job1.code = 0 ∧
    Retry.early job1.retry (sJob.now job1.die) = false ∧ cardKind job1.card = 2 ∧
    (∃ s1, copyEach (sJob.jobWho job1) job1.card (copyOrder sJob (sJob.jobWho job1) job1.card 3) sJob = (s1, none)) ∧
    job1.card.getLsbD 40 = false := by
  refine ⟨?_, rfl, rfl, ?_, ?_, pair_of ?_, ?_⟩ <;> decide +kernel
/-- A selection of the positive elements among four f32 values at 0x1200 into 0x1100. -/
def selCard : Nat := 3 + 256 + 0x1200 * 2 ^ 256 + 4 * 2 ^ 320 + 0x1100 * 2 ^ 576 + 4 * 2 ^ 640
def job2 : Job := { job1 with card := BitVec.ofNat 1024 selCard }
theorem witness_select : selBad job2.card = false ∧ sJob.anyAway (sJob.jobWho job1) 0x1200 16 = false ∧
    (∃ s1 b, sJob.readRun (sJob.jobWho job1) .rd 0x1200 16 = (s1, .ok b)) :=
  ⟨by decide +kernel, by decide +kernel, ok_of (by decide +kernel)⟩
/-- SequenceJobs: a commit of position 3 of a sequence of one layer whose cursor is 4 and NEXTPOS 5. -/
def seqBytes : List Byte := leBytes 64 (2 ^ 64 + 5 * 2 ^ 128 + 0x1140 * 2 ^ 192 + 2 ^ 320) ++ leBytes 4 4
def job3 : Job := { job1 with card := BitVec.ofNat 1024 (6 + 256 + 0x1100 * 2 ^ 256 + 3 * 2 ^ 320) }
def sSeq : State := { full .j tJ seqBytes with jobs := [job3], input := ⟨1, 0, .none⟩ }
theorem witness_sequence : spanBad job3.card = false ∧ sSeq.spanBehind job3 = false ∧ Retry.early job3.retry (sSeq.now job3.die) = false ∧
    seqReserved (BitVec.ofNat 512 (leNat (seqBytes.take 64))) = false ∧
    (seqOf 0x1100 (BitVec.ofNat 512 (leNat (seqBytes.take 64)))).bad = false := by decide +kernel
theorem test_commit : (after .commitJob sSeq).physNat 0x1114 4 = 3 ∧ (after .commitJob sSeq).jobs.map (·.code) = [2] := by
  decide +kernel

/-- SignalsAndWritesArrive. -/
def tS : Task := { task [] with sigs := [⟨⟨9, 1, .done⟩, .a, 0x1000, [], []⟩] }
theorem test_pending_signal : ((does .signalClause 0 0 .none (full .s tS)).task 0).any (fun t => (t.semOf 9).val == 2 && t.sigs == []) =
    true := by decide +kernel
def sW : State := { full .s tv with wb := [(0, [⟨0x4800000000, [7], 1, [], 1⟩])], input := ⟨0, 0, .none⟩ }
theorem witness_signals_writes : (full .s tS).task 0 = some tS ∧ tS.sigs = [] ++ ⟨⟨9, 1, .done⟩, .a, 0x1000, [], []⟩ :: [] ∧
    sW.flight 0 = [⟨0x4800000000, [7], 1, [], 1⟩] ∧ (∀ d ∈ sW.dirty, d.1 ∉ linesOf 0x4800000000 1) ∧
    (after (.tvacq ⟨3, 0, 1, .die⟩) sBound).task 0 ≠ none := by decide +kernel
theorem test_write_crosses : (after .causalWriteApply sW).homeByte 0x4800000000 = 7 ∧ (after .causalWriteApply sW).flight 0 = [] := by
  decide +kernel
def tRet : Task := (task []).setStrand .s { pc := 0x1000, retry := some ⟨0, 64, 64, false, 0x1200⟩ }
/-- TileCacheActsByItself: a clean tile, a fill on its way, a parked word whose tile is there. -/
theorem witness_tile_steps : (sBound.core 0).tiles.length = 2 ∧ (∀ x ∈ (sBound.core 0).tiles, x.dirty = false) ∧
    ((after (.tfill ⟨3, 0⟩) sB).task 0).any (fun t => t.fills.length == 1 && t.replay.length == 1) = true ∧
    ((sFilled.task 0).any fun t => t.replay.all fun p => sFilled.allHit t p.uses && t.mayReplay p) = true := by decide +kernel

/-- TasksEndAndMove: a task whose strands have all obeyed EXIT. -/
def tE : Task := [Eng.s, .v, .m, .a, .f, .j].foldl (fun t e => t.setStrand e { ended := true }) (task [])
theorem witness_task_end : (full .s tE).task 0 = some tE ∧ tE.kernel = false ∧ (full .s tE).localDone tE = true := by decide +kernel
theorem test_task_end : (does .taskEnd 0 0 .none (full .s tE)).task 0 = none := by decide +kernel

/-- ClustersActByThemselves. -/
theorem test_lease_grant : ((does .leaseGrant 0 0 .none (sL { reqs := [3, 1], last := 0 })).cluster 0).holder = some 1 := by
  decide +kernel
theorem test_quantum_passes : (does .leaseQuantumExpiry 0 0 .none (sL { holder := some 0, reqs := [1], words := 255 })).cluster 0 =
    { holder := none, last := 0, reqs := [1, 0], words := 255 } := by decide +kernel
theorem test_level_rises : ((does .arrayLevelStep 0 0 .none (sL { bursts := [(0, 0)] })).cluster 0).level = 1 := by decide +kernel

/-- RegistersAboveDeviceMemory: a byte of device memory, the ends of the queue numbers and of the table windows. -/
theorem witness_registers : whereIs 0 = .hbm ∧ whereIs (hbmEnd - 1) = .hbm ∧ (full .s tv).boot = .ready ∧
    (full .s tv).lostIn 0x1100 8 = false ∧ (full .s tv).dirty = [] ∧ (0x1100 % 8 = 0) ∧
    ((full .s tv).router 0).accept = 0 ∧ (0x10000 - 0x10000) / 0x10000 = 0 ∧ (0x2fffc - 0x10000) / 0x10000 = 1 ∧
    (0x3fffc - 0x30000) / 0x8000 = 1 ∧ (0x403fc - 0x40000) / 0x200 = 1 := by decide +kernel
theorem test_mailbox_write : (does .controlNodeWrite 0x2000 0 (.bytes [1, 2]) (full .s tv)).homeByte 0x2001 = 2 := by decide +kernel
theorem test_mailbox_not_ready : (does .controlNodeRead 0x2000 1 .none State.reset).outbox = [.notReady 0x2000] := by decide +kernel
theorem test_qtime_zero_field : (does .registerWrite (hbmEnd + 0x1010) 0 (.word 0) (full .s tv)).queue 1 =
    { qtime := 0x0001000001000001 } := by decide +kernel

/-- Ports: one that is up, one down with RETRAIN written, one training. -/
def sP (x : Port) : State := (full .s tv).setRouter 0 { ports := [(3, x)] }
theorem witness_ports : ((sP { st := 2 }).router 0).port 3 = { st := 2 } ∧ ((sP { retrain := true }).router 0).port 3 = { retrain := true } ∧
    ((sP { st := 1 }).router 0).port 3 = { st := 1 } := by decide +kernel
theorem test_link_silence : ((does .linkSilence 0 3 .none (sP { st := 2 })).router 0).port 3 = { cause := 2, downs := 1 } := by
  decide +kernel
theorem test_training : ((does .linkTrainingDone 0 3 (.trained 9 true) (sP { st := 1 })).router 0).port 3 = { st := 2, far := 9 } := by
  decide +kernel

/-- FabricCarriesRequests, Episodes: a request that may leave, one performed and answered, one of another label; an episode
whose one member has contributed. -/
def sReq : State := { sF with reqs := [own], nextReq := 8 }
theorem witness_requests : (sReq.reqs.find? fun x => x.id == 7) = some own ∧ sReq.mayLeave own = true ∧
    (sReq.router 0).keyEntry false 0 = none ∧ own.dst = (sReq.router 0).lself ∧ sReq.ctxOfFid 0x77 = some 0 ∧
    (∃ s1 b, sReq.readRun (sReq.pilotWho 0 0) .rd 0x1200 8 = (s1, .ok b)) ∧
    (∃ s1, sReq.writeRun (sReq.pilotWho 0 0) .wr 0x1100 (leBytes 8 5) = (s1, none)) := by
  refine ⟨?_, ?_, ?_, ?_, ?_, ok_of ?_, pair_of ?_⟩ <;> decide +kernel
theorem test_request_without_key : (does .remoteRequest 0 0 (.req (.own 7)) sReq).reqs.map (fun r => r.failed.map (·.cause)) =
    [some .partitionKey] := by decide +kernel
theorem test_remote_label : (does .remoteAck 7 0 (.ack (.ok (leBytes 8 5)))
    { sReq.setRouter 0 { rt with accept := 1 } with reqs := [{ own with performed := true }] }).physNat 0x1100 8 = 5 := by decide +kernel
def msg : ContribMsg := ⟨0, 0x77, 0, false, 0, 0, 0, .f32, .f32, 1, 0, 0, [0x3f800000]⟩
def sEp : State := { sF with contribs := [⟨0, 0, msg⟩], input := ⟨0, 2, .none⟩ }
theorem witness_episode : (SMap.look {} tF.groups 2 : Group).desc = some gd ∧ (SMap.look {} tF.groups 2 : Group).st = .busy ∧
    forEpisode gd (SMap.look {} tF.groups 2) ((sEp.ctx 0).fid) msg = true ∧ (gatherParts [msg] gd.members).isSome = true ∧
    sEp.images = [] := by decide +kernel
/-- PilotActs: a launch posted with its events set, a NOP record that is ready, a queue with a node that waits. -/
def nop : Node := { id := 0, queue := 0, die := 0, ctx := 0, record := BitVec.ofNat 1024 0x106, handle := 0 }
def sN : State := { full .s tv with nodes := [nop], input := ⟨0, 0, .none⟩ }
theorem witness_pilot : sN.node 0 = some nop ∧ nop.bad = false ∧ sN.ctxValid 0 = true ∧
    sN.nodeReady { nop with evOk := true } = true ∧ bits nop.record 7 0 = 6 ∧ sN.pilotEvents 0 0 &&& 0 = 0 := by decide +kernel
theorem test_event_wait_resolves : ((after .eventWaitResolve sN).node 0).any (·.evOk) = true := by decide +kernel
theorem test_nop_done : ((after .nopRecord { sN with nodes := [{ nop with evOk := true }] }).node 0).map (·.st) = some .done := by
  decide +kernel
/-- PilotActs: a posted launch of a context that was invalid is over at once with status 2 (R390, R406). -/
def sPost : State := { full .s tv with launches := [(0, [⟨0, 1, BitVec.ofNat 1024 0x101, 0, 0, 0, true⟩])] }
theorem test_refused_launch : (does .pendingLaunchEntry 0 0 .none sPost).nodes.map (fun n => (n.st, n.status)) = [(.done, 2)] := by
  decide +kernel
/-- TasksEndAndMove: a team of one whose task stands at its stop. -/
def tStop : Task := { task [(1, 7)] with stop := some 0, stopAt := some (0, 0) }
def sStop : State := { full .s tStop with teams := [⟨0, 0, 1, 0, 0, [0], .stopping, 0, some 0⟩] }
theorem witness_safe_stop : tStop.atStop = true ∧ tStop.faults = [] ∧ sStop.coreDrained 0 tStop = true ∧
    sStop.badMask 0 tStop = none ∧ sStop.saveLost tStop = false ∧ sStop.stopMask 0 tStop = some none ∧
    sStop.teamTasks ⟨0, 0, 1, 0, 0, [0], .stopping, 0, some 0⟩ = [(0, tStop)] := by decide +kernel
/-- BootAndManagement: power-on in each boot state, a sensor below and above its limit, the reference 100 ms away. -/
theorem witness_boot : State.reset.boot = .rom ∧ (after .firmwareFetchRetry State.reset).boot = .fetch ∧
    (100000000 : Nat) ≤ (((100000000 : Word) - 0).toNat) ∧ (0x05f0 : BitVec 16).toInt < (0x06e0 : BitVec 16).toInt := by decide +kernel
/-- A die 5,000 ticks behind gains 100 ticks in 1,000,000; one ahead loses them; the other die counts by itself (R488). -/
theorem test_chrono_slews : (let s := does .chronoExchange 0 0 (.word 5000) (full .s tv)
    SMap.look 0 s.slew 0 = 5000 ∧ (s.passTime 1000000).now 0 = 1000100 ∧ (s.passTime 1000000).now 1 = 1000000) ∧
    ((does .chronoExchange 1 0 (.word (-5000)) (full .s tv)).passTime 1000000).now 1 = 999900 := by decide +kernel
theorem test_sensor_trips : (does .sensorRefresh 0 0 (.sensors [0x06e1] []) (full .s tv)).boot = .rom := by decide +kernel

/-! ## Steps -/

/-- StepRunsDecoded: placed by withFetchWord, the next step fetches and runs the word: `ADDI s1, s0, 5` (R163, R166, R203). -/
theorem test_step_runs_word : (match step (State.reset.withFetchWord 128 0x02000000000100000000000000020000) with
    | .next u => (u.task 0).any fun t => sIs 4 0x200 t && (t.strand .s).pc == 0x1010
    | _ => false) = true := by decide +kernel
theorem witness_step : ∃ s1 w t, (State.reset.withFetchWord 128 0x02000000000100000000000000020000).turns = [.strand 0 .s] ∧
    (State.reset.withFetchWord 128 0x02000000000100000000000000020000).task 0 = some t ∧
    (State.reset.withFetchWord 128 0x02000000000100000000000000020000).heldBack t .s = false ∧
    (State.reset.withFetchWord 128 0x02000000000100000000000000020000).fetch 0 t (t.strand .s).pc = (s1, .ok w) := by
  refine (ok_of (x := (State.reset.withFetchWord 128 0x02000000000100000000000000020000).fetch 0
    (((State.reset.withFetchWord 128 0x02000000000100000000000000020000).task 0).getD {}) 0x1000) (by decide +kernel)).elim ?_
  rintro s1 ⟨w, h⟩
  exact ⟨s1, w, _, rfl, by decide +kernel, by decide +kernel, h⟩
/-- StepKeepsMemory, ResetIsSound: states whose memory is in canonical form, one that is not. -/
theorem witness_memory_sound : Memory.wf State.reset.mem ∧ Memory.wf sm.mem ∧ ¬Memory.wf [(2, 1), (1, 1)] := by
  decide +kernel
theorem test_reset_reads_zero : State.reset.homeByte 0x1000 = 0 ∧ State.reset.boot = .rom := by decide +kernel
end Sys2Proof.Tests
end

section
/-! SUPPORT. Bits, bytes and halves of a word: what the counting functions, the bytes of a number and the bit-field
functions give, bit by bit (08, R203, R204, R222). -/

namespace Sys2Proof.Machine

/-! ## Counting (R203) -/

theorem clzNat_le (v n : Nat) : clzNat v n ≤ n := by
  induction n with
  | zero => exact Nat.le_refl 0
  | succ n ih =>
    unfold clzNat
    split <;> omega
theorem testBit_before_clzNat (v n i : Nat) (h : i < clzNat v n) : v.testBit (n - 1 - i) = false := by
  induction n generalizing i with
  | zero => exact absurd h (Nat.not_lt_zero i)
  | succ n ih =>
    unfold clzNat at h
    split at h
    · exact absurd h (Nat.not_lt_zero i)
    · next hn =>
      cases i with
      | zero => simpa using hn
      | succ i => simpa [Nat.sub_sub, Nat.add_comm] using ih i (by omega)
theorem testBit_at_clzNat (v n : Nat) (h : clzNat v n < n) : v.testBit (n - 1 - clzNat v n) = true := by
  induction n with
  | zero => exact absurd h (Nat.not_lt_zero _)
  | succ n ih =>
    by_cases hn : v.testBit n = true
    · simp [clzNat, hn]
    · rw [clzNat, if_neg hn] at h ⊢
      simpa [Nat.sub_sub] using ih (by omega)

theorem ctzNat_le (v n i : Nat) : ctzNat v n i ≤ n := by
  induction n generalizing i with
  | zero => exact Nat.le_refl 0
  | succ n ih =>
    have := ih (i + 1)
    unfold ctzNat
    split <;> omega
theorem testBit_before_ctzNat (v n i j : Nat) (h : j < ctzNat v n i) : v.testBit (i + j) = false := by
  induction n generalizing i j with
  | zero => exact absurd h (Nat.not_lt_zero j)
  | succ n ih =>
    unfold ctzNat at h
    split at h
    · exact absurd h (Nat.not_lt_zero j)
    · next hi =>
      cases j with
      | zero => simpa using hi
      | succ j => simpa [Nat.add_assoc, Nat.add_comm 1] using ih (i + 1) j (by omega)
theorem testBit_at_ctzNat (v n i : Nat) (h : ctzNat v n i < n) : v.testBit (i + ctzNat v n i) = true := by
  induction n generalizing i with
  | zero => exact absurd h (Nat.not_lt_zero _)
  | succ n ih =>
    by_cases hi : v.testBit i = true
    · simp [ctzNat, hi]
    · rw [ctzNat, if_neg hi] at h ⊢
      simpa [Nat.add_assoc] using ih (i + 1) (by omega)

theorem popNat_eq_countP (v n : Nat) : popNat v n = (List.range n).countP v.testBit := by
  induction n with
  | zero => rfl
  | succ n ih =>
    rw [List.range_succ, List.countP_append, ← ih, popNat, List.countP_singleton, Nat.add_comm]
    cases v.testBit n <;> rfl

/-! ## Bytes (R1) -/

@[simp] theorem length_leBytes (n v : Nat) : (leBytes n v).length = n := by
  induction n generalizing v with
  | zero => rfl
  | succ n ih => exact congrArg (· + 1) (ih _)
theorem getElem_leBytes (n v i : Nat) (h : i < (leBytes n v).length) :
    (leBytes n v)[i] = BitVec.ofNat 8 (v / 256 ^ i) := by
  induction n generalizing v i with
  | zero => exact absurd h (Nat.not_lt_zero i)
  | succ n ih =>
    cases i with
    | zero => simp [leBytes]
    | succ i => simpa [leBytes, Nat.div_div_eq_div_mul, Nat.pow_succ'] using ih (v / 256) i (by simpa using h)
theorem leNat_lt (l : List Byte) : leNat l < 256 ^ l.length := by
  induction l with
  | nil => exact Nat.one_pos
  | cons b l ih =>
    have := b.isLt
    rw [leNat, List.length_cons, Nat.pow_succ]
    omega
/-- Byte `i` of the number that bytes hold. -/
theorem leNat_div_mod (l : List Byte) (i : Nat) (h : i < l.length) : leNat l / 256 ^ i % 256 = l[i].toNat := by
  induction l generalizing i with
  | nil => exact absurd h (Nat.not_lt_zero i)
  | cons b l ih =>
    have hb := b.isLt
    cases i with
    | zero =>
      rw [leNat, List.getElem_cons_zero]
      omega
    | succ i =>
      have ht : leNat (b :: l) / 256 = leNat l := by
        rw [leNat]
        omega
      rw [Nat.pow_succ', ← Nat.div_div_eq_div_mul, ht, List.getElem_cons_succ]
      exact ih i (by simpa using h)

theorem extractByte_eq_ofNat (x : Word) (i : Nat) : x.extractLsb' (8 * i) 8 = BitVec.ofNat 8 (x.toNat / 256 ^ i) := by
  rw [show (256 : Nat) = 2 ^ 8 from rfl, ← Nat.pow_mul, ← Nat.shiftRight_eq_div_pow]
  rfl
theorem extractByte_ofNat_leNat (l : List Byte) (hl : l.length = 8) (i : Nat) (h : i < l.length) :
    (BitVec.ofNat 64 (leNat l)).extractLsb' (8 * i) 8 = l[i] := by
  have hlt : leNat l < 2 ^ 64 := lt_of_lt_of_eq (leNat_lt l) (by rw [hl]; rfl)
  apply BitVec.eq_of_toNat_eq
  rw [extractByte_eq_ofNat, BitVec.toNat_ofNat, BitVec.toNat_ofNat, Nat.mod_eq_of_lt hlt]
  exact leNat_div_mod l i h
/-- BSWAP takes byte `i` to byte `7 - i` (R203). -/
theorem extractByte_swapBytes (x : Word) (i : Nat) (h : i < 8) :
    (swapBytes x).extractLsb' (8 * (7 - i)) 8 = x.extractLsb' (8 * i) 8 := by
  have hl : (leBytes 8 x.toNat).reverse.length = 8 := by simp
  rw [swapBytes, extractByte_ofNat_leNat _ hl (7 - i) (by omega), List.getElem_reverse, getElem_leBytes,
    extractByte_eq_ofNat, length_leBytes, show 8 - 1 - (7 - i) = i by omega]

/-! ## Bit fields (R204) -/

theorem getLsbD_extractBits (x b c : Word) (i : Nat) (h : i < 64) :
    (extractBits x b c).getLsbD i = (decide (i < bitWidth b c) && x.getLsbD (bitPos b + i)) := by
  rw [extractBits, BitVec.getLsbD_ofNat, Nat.testBit_mod_two_pow, Nat.testBit_div_two_pow, BitVec.testBit_toNat,
    Nat.add_comm i]
  simp [h]
/-- The mask of INSR is 1 over the field alone. -/
theorem getLsbD_fieldMask (pos w i : Nat) (h : i < 64) :
    (BitVec.ofNat 64 ((2 ^ w - 1) * 2 ^ pos)).getLsbD i = decide (pos ≤ i ∧ i < pos + w) := by
  rw [BitVec.getLsbD_ofNat, Nat.testBit_mul_two_pow, Nat.testBit_two_pow_sub_one, decide_eq_true h, Bool.true_and,
    ← Bool.decide_and, decide_eq_decide]
  omega
theorem getLsbD_insertBits (y x b c : Word) (i : Nat) (h : i < 64) :
    (insertBits y x b c).getLsbD i =
      if bitPos b ≤ i ∧ i < bitPos b + bitWidth b c then x.getLsbD (i - bitPos b) else y.getLsbD i := by
  simp only [insertBits, BitVec.getLsbD_or, BitVec.getLsbD_and, BitVec.getLsbD_not, BitVec.getLsbD_shiftLeft,
    getLsbD_fieldMask _ _ i h]
  split
  · next hf => simp [h, hf.1, hf.2]
  · next hf => simp [h, hf]

/-! ## Quotients and remainders (R204) -/

theorem divS_eq_sdiv (x y : Word) : divS x y = x.sdiv y :=
  BitVec.eq_of_toInt_eq (by rw [divS, BitVec.toInt_ofInt, BitVec.toInt_sdiv])
theorem remS_eq_srem (x y : Word) : remS x y = x.srem y := by
  rw [remS, ← BitVec.toInt_srem, BitVec.ofInt_toInt]
theorem toInt_divS {x y : Word} (h : ¬(x = BitVec.intMin 64 ∧ y = BitVec.allOnes 64)) :
    (divS x y).toInt = x.toInt.tdiv y.toInt := by
  rw [divS_eq_sdiv]
  exact BitVec.toInt_sdiv_of_ne_or_ne x y (by rwa [BitVec.neg_one_eq_allOnes, ← not_and_or])
theorem toInt_remS {x y : Word} (h : ¬(x = BitVec.intMin 64 ∧ y = BitVec.allOnes 64)) :
    (remS x y).toInt = x.toInt - (divS x y).toInt * y.toInt := by
  rw [remS_eq_srem, BitVec.toInt_srem, toInt_divS h, Int.tmod_def, Int.mul_comm]

/-! ## Coordinates (R222) -/

/-- A word is its high half above its low half. -/
theorem halves_append (x : Word) : x.extractLsb' 32 32 ++ x.extractLsb' 0 32 = x :=
  (BitVec.extractLsb'_append_extractLsb'_eq_extractLsb' rfl).trans (extract_all x)
/-- KSET keeps the four coordinates of two pairs, the lowest first. -/
theorem packK_eq_coordinates (x y : Word) :
    packK x y = y.extractLsb' 32 32 ++ y.extractLsb' 0 32 ++ x.extractLsb' 32 32 ++ x.extractLsb' 0 32 := by
  rw [BitVec.append_assoc, halves_append, halves_append]
  rfl
/-- KADD adds coordinate by coordinate. -/
theorem addK_packK (k : BitVec 128) (x y : Word) : addK k (packK x y) =
    (k.extractLsb' 96 32 + y.extractLsb' 32 32) ++ (k.extractLsb' 64 32 + y.extractLsb' 0 32) ++
      (k.extractLsb' 32 32 + x.extractLsb' 32 32) ++ (k.extractLsb' 0 32 + x.extractLsb' 0 32) := by
  rw [addK, packK, extract_high y x 96 32 (by decide), extract_high y x 64 32 (by decide),
    extract_low y x 32 32 (by decide), extract_low y x 0 32 (by decide)]

end Sys2Proof.Machine
end

section
/-! SUPPORT. What an accepted word tells of its instruction, and when a word of a defined opcode holds a reserved field
(07, R163 to R176); the coordinate words by opcode (R222). -/

namespace Sys2Proof

/-- The instruction of an accepted word is parsed from its body, and that body is the instruction's own. -/
theorem decode_ok {priv : Bool} {w : IWord} {e : Eng} {cl : Clauses} {i : Instr}
    (he : Eng.ofCode (w.extractLsb' 125 3) = some e) (h : decode priv w = .ok (cl, i)) :
    parse e (w.extractLsb' 116 9).toNat (w.extractLsb' 0 84) = some i ∧
      i.fields.map (·.2.2) = some (w.extractLsb' 0 84) := by
  unfold decode at h
  rw [he] at h
  simp only at h
  iterate 3
    split at h
    · cases h
  split at h
  · split at h
    · next hp hw =>
      cases h
      obtain ⟨-, henc⟩ := Bool.and_eq_true_iff.1 hw
      obtain ⟨⟨e', op, body⟩, hf, hb⟩ := Option.map_eq_some_iff.1 (eq_of_beq henc)
      refine ⟨hp, ?_⟩
      rw [hf, ← hb, BitVec.extractLsb'_append_eq_right]
      rfl
    · cases h
  · cases h

/-- A user word of a defined opcode with no reserved specifier and no instruction to its fields is RESERVED_FIELD (R176). -/
theorem decode_reservedField {w : IWord} {e : Eng} (he : Eng.ofCode (w.extractLsb' 125 3) = some e)
    (hdef : opDefined e (w.extractLsb' 116 9).toNat = true) (huser : (w.extractLsb' 116 9).toNat < 0x0c0)
    (hspec : specBad e (w.extractLsb' 116 9).toNat (w.extractLsb' 0 84) = false)
    (hparse : parse e (w.extractLsb' 116 9).toNat (w.extractLsb' 0 84) = none) (priv : Bool) :
    decode priv w = .error .reservedField := by
  unfold decode
  rw [he]
  simp only [hdef, hspec, hparse, Bool.not_true, Bool.false_eq_true, if_false, decide_eq_false (Nat.not_le.2 huser),
    Bool.and_false, Bool.false_and]
  cases clausesOf w <;> rfl

/-! ## The coordinate words by opcode (R222) -/

/-- The fields of format SR, by their places in the word. -/
theorem SRF.of_word (w : IWord) : SRF.of (w.extractLsb' 0 84) =
    ⟨w.extractLsb' 78 6, w.extractLsb' 72 6, w.extractLsb' 66 6, w.extractLsb' 60 6, w.extractLsb' 52 8⟩ := by
  simp only [SRF.of, BitVec.extractLsb'_extractLsb'_of_le (show 78 + 6 ≤ 84 by decide),
    BitVec.extractLsb'_extractLsb'_of_le (show 72 + 6 ≤ 84 by decide),
    BitVec.extractLsb'_extractLsb'_of_le (show 66 + 6 ≤ 84 by decide),
    BitVec.extractLsb'_extractLsb'_of_le (show 60 + 6 ≤ 84 by decide),
    BitVec.extractLsb'_extractLsb'_of_le (show 52 + 8 ≤ 84 by decide)]
/-- A word whose body is an instruction's own has that instruction's fields of format SR in their places. -/
theorem SRF.eq_of_own_body {f : SRF} {w : IWord} (h : some f.bits = some (w.extractLsb' 0 84)) :
    f = ⟨w.extractLsb' 78 6, w.extractLsb' 72 6, w.extractLsb' 66 6, w.extractLsb' 60 6, w.extractLsb' 52 8⟩ := by
  rw [← SRF.of_word, ← Option.some.inj h, SRF.of_bits]

section
variable {priv : Bool} {w : IWord} {cl : Clauses} {i : Instr}

theorem parse_kset (hop : w.extractLsb' 116 9 = 0x070) :
    parse .s (w.extractLsb' 116 9).toNat (w.extractLsb' 0 84) =
      some (.kset ⟨(w.extractLsb' 78 6).setWidth 5, w.extractLsb' 72 6, w.extractLsb' 66 6⟩) := by
  rw [hop]
  change (let f := SRF.of _; some (.kset ⟨f.d.setWidth 5, f.a, f.b⟩) : Option Instr) = _
  rw [SRF.of_word]
theorem parse_kadd (hop : w.extractLsb' 116 9 = 0x071) :
    parse .s (w.extractLsb' 116 9).toNat (w.extractLsb' 0 84) =
      some (.kadd ⟨(w.extractLsb' 78 6).setWidth 5, (w.extractLsb' 72 6).setWidth 5, w.extractLsb' 66 6,
        w.extractLsb' 60 6⟩) := by
  rw [hop]
  change (let f := SRF.of _; some (.kadd ⟨f.d.setWidth 5, f.a.setWidth 5, f.b, f.c⟩) : Option Instr) = _
  rw [SRF.of_word]
theorem parse_kget (hop : w.extractLsb' 116 9 = 0x072) :
    parse .s (w.extractLsb' 116 9).toNat (w.extractLsb' 0 84) =
      let o : KgetOp := ⟨w.extractLsb' 78 6, (w.extractLsb' 72 6).setWidth 5⟩
      if w.extractLsb' 52 8 == 0 then some (.kgetLo o) else if w.extractLsb' 52 8 == 1 then some (.kgetHi o) else none := by
  rw [hop]
  change (let f := SRF.of _
    if f.fn == 0 then some (.kgetLo ⟨f.d, f.a.setWidth 5⟩)
    else if f.fn == 1 then some (.kgetHi ⟨f.d, f.a.setWidth 5⟩)
    else none : Option Instr) = _
  rw [SRF.of_word]

theorem decode_kset (htag : w.extractLsb' 125 3 = 0) (hop : w.extractLsb' 116 9 = 0x070)
    (h : decode priv w = .ok (cl, i)) :
    ∃ kd : KReg, w.extractLsb' 78 6 = kd.setWidth 6 ∧ i = .kset ⟨kd, w.extractLsb' 72 6, w.extractLsb' 66 6⟩ := by
  obtain ⟨hp, hf⟩ := decode_ok (e := .s) (by rw [htag]; rfl) h
  obtain rfl := Option.some.inj ((parse_kset hop).symm.trans hp)
  exact ⟨_, (congrArg SRF.d (SRF.eq_of_own_body hf)).symm, rfl⟩

theorem decode_kadd (htag : w.extractLsb' 125 3 = 0) (hop : w.extractLsb' 116 9 = 0x071)
    (h : decode priv w = .ok (cl, i)) :
    ∃ kd ka : KReg, w.extractLsb' 78 6 = kd.setWidth 6 ∧ w.extractLsb' 72 6 = ka.setWidth 6 ∧
      i = .kadd ⟨kd, ka, w.extractLsb' 66 6, w.extractLsb' 60 6⟩ := by
  obtain ⟨hp, hf⟩ := decode_ok (e := .s) (by rw [htag]; rfl) h
  obtain rfl := Option.some.inj ((parse_kadd hop).symm.trans hp)
  have hown := SRF.eq_of_own_body hf
  exact ⟨_, _, (congrArg SRF.d hown).symm, (congrArg SRF.a hown).symm, rfl⟩

theorem decode_kget (htag : w.extractLsb' 125 3 = 0) (hop : w.extractLsb' 116 9 = 0x072)
    (h : decode priv w = .ok (cl, i)) :
    ∃ ka : KReg, w.extractLsb' 72 6 = ka.setWidth 6 ∧
      i = if w.extractLsb' 52 8 = 0 then .kgetLo ⟨w.extractLsb' 78 6, ka⟩ else .kgetHi ⟨w.extractLsb' 78 6, ka⟩ := by
  obtain ⟨hp, hf⟩ := decode_ok (e := .s) (by rw [htag]; rfl) h
  rw [parse_kget hop] at hp
  simp only at hp
  split at hp
  · next hlo =>
    obtain rfl := Option.some.inj hp
    exact ⟨_, (congrArg SRF.a (SRF.eq_of_own_body hf)).symm, (if_pos (eq_of_beq hlo)).symm⟩
  · next hlo =>
    split at hp
    · obtain rfl := Option.some.inj hp
      exact ⟨_, (congrArg SRF.a (SRF.eq_of_own_body hf)).symm, (if_neg fun h0 => hlo (beq_iff_eq.2 h0)).symm⟩
    · cases hp

/-- KGET takes no fn above 1. -/
theorem decode_kget_reserved (htag : w.extractLsb' 125 3 = 0) (hop : w.extractLsb' 116 9 = 0x072)
    (hfn : 1 < w.extractLsb' 52 8) : decode priv w = .error .reservedField := by
  apply decode_reservedField (e := .s) (by rw [htag]; rfl)
  · rw [hop]
    rfl
  · rw [hop]
    decide
  · rfl
  · rw [parse_kget hop, if_neg, if_neg]
    all_goals
      rw [beq_iff_eq]
      bv_omega
end

end Sys2Proof
end

section
/-! SUPPORT. The words of counting, of coordinates, of division and of bit fields from a ready S strand, and the claims about
them (08, R203, R204, R222). -/

namespace Sys2Proof.Machine

/-! ## A ready word of the S strand -/

section
variable {s : State} {t : Task} (h : s.Ready false t) (he : s.cur.eng = .s)
include h he

theorem State.scalar2_ready (o : R2) (f : Word → Word) :
    s.scalar2 o f = .next (s.after t fun u => u.sset o.d (f (sget t.s o.a))) :=
  State.scalar_ready h he o.d fun r => f (sget r o.a)
/-- A word that reads the s and k registers and changes its task alone. -/
theorem State.coordinate_ready (f : SMap Word → SMap (BitVec 128) → Task → Task) :
    (s.runWord false fun env s => .done (s.modTask s.cur.core (f env.s env.k))) = .next (s.after t (f t.s t.k)) := by
  rw [State.runWord_after h fun env => f env.s env.k, State.env_s he]
theorem State.divide_ready_zero {o : R3} (f : Word → Word → Word) (hz : sget t.s o.b = 0) :
    s.divide o f = .next (s.faulted t { cause := .intDivzero }) := by
  rw [State.divide_ready h he, if_pos hz]
theorem State.divide_ready_nonzero {o : R3} (f : Word → Word → Word) (hz : sget t.s o.b ≠ 0) :
    s.divide o f = .next (s.after t fun u => u.sset o.d (f (sget t.s o.a) (sget t.s o.b))) := by
  rw [State.divide_ready h he, if_neg hz]
end

/-! ## The task of a word that faults (R438, R440) -/

/-- The task that takes a fault records it, and nothing else of it changes. -/
theorem State.task_takeFaultAt {s : State} {c : Nat} {t : Task} (h : s.task c = some t) (e : Eng) (pc : Va) (f : FaultInfo) :
    (s.takeFaultAt c e pc f).task c =
      some { t with faults := t.faults ++ [{ f with strand := some e, pc := pc, stamp := s.now (dieOf c) }] } := by
  unfold State.takeFaultAt
  rw [h]
  simp only
  split
  · unfold State.task State.core State.setCore
    simp only
    rw [SMap.look_put, if_pos rfl]
    exact State.task_setTask ..
  · exact State.task_setTask ..
/-- A fault of an S word that names no other place is recorded at the word, and nothing the task holds changes but what its
wait clause has done. -/
theorem State.task_faulted {s : State} {needs : Bool} {t : Task} (h : s.Ready needs t) (he : s.cur.eng = .s) (f : FaultInfo)
    (hpc : f.pc = 0) : (s.faulted t f).task s.cur.core = some { s.waited t with faults := (s.waited t).faults ++
      [{ f with strand := some .s, pc := (t.strand .s).pc, stamp := (s.begun t).now (dieOf s.cur.core) }] } := by
  have hb := State.task_begun s t h.present
  unfold State.faulted State.takeFault
  rw [he, if_neg (show ¬t.parkedOwn .s = true from Bool.false_ne_true), hb]
  simp only
  rw [if_pos hpc, State.task_takeFaultAt hb, State.waited_strand]

end Sys2Proof.Machine

namespace Sys2Proof
open Sys2Proof.Machine

/-! ## The counting, reversing and coordinate words (R203, R222) -/

theorem scalarBits : Claims.ScalarBits := by
  intro s t d a h he x gives
  have unary {f : Word → Word} := State.scalar2_ready h he ⟨d, a⟩ f
  refine ⟨⟨clzNat x.toNat 64, clzNat_le _ _, (exec_clz _ s).trans unary, fun i hi => ?_, fun hn => ?_⟩,
    ⟨ctzNat x.toNat 64 0, ctzNat_le _ _ _, (exec_ctz _ s).trans unary, fun i hi => ?_, fun hn => ?_⟩,
    ?_, ⟨x.reverse, (exec_brev _ s).trans unary, fun i hi => ?_⟩,
    ⟨swapBytes x, (exec_bswap _ s).trans unary, extractByte_swapBytes x⟩⟩
  · exact testBit_before_clzNat _ _ _ hi
  · exact testBit_at_clzNat _ _ hn
  · rw [← BitVec.testBit_toNat, ← Nat.zero_add i]
    exact testBit_before_ctzNat _ _ _ _ hi
  · rw [← BitVec.testBit_toNat, ← Nat.zero_add (ctzNat _ _ _)]
    exact testBit_at_ctzNat _ _ _ hn
  · have hcount : popNat x.toNat 64 = (List.range 64).countP x.getLsbD := popNat_eq_countP x.toNat 64
    rw [← hcount]
    exact (exec_popc _ s).trans unary
  · rw [BitVec.getLsbD_reverse, BitVec.getMsbD_eq_getLsbD, decide_eq_true (by omega), Bool.true_and]
    congr 1
    omega

theorem coordinateWords : Claims.CoordinateWords := by
  intro s t d a e b c h he lo hi k x y
  refine ⟨?_, ?_, ?_, ?_, fun w htag => ⟨fun hop hfn => decode_kget_reserved htag hop hfn, fun cl i hdec =>
    ⟨fun hop => decode_kset htag hop hdec, fun hop => decode_kadd htag hop hdec, fun hop => decode_kget htag hop hdec⟩⟩⟩
  · rw [← packK_eq_coordinates x y]
    exact (exec_kset _ s).trans (State.coordinate_ready h he fun r _ u => u.kset d (packK (sget r b) (sget r c)))
  · rw [← addK_packK (kget t.k a) x y]
    exact (exec_kadd _ s).trans (State.coordinate_ready h he fun r q u => u.kset d (addK (kget q a) (packK (sget r b) (sget r c))))
  · have hlow : k 1 ++ k 0 = (kget t.k a).extractLsb' 0 64 := BitVec.extractLsb'_append_extractLsb'_eq_extractLsb' rfl
    rw [hlow]
    exact (exec_kgetLo _ s).trans (State.coordinate_ready h he fun _ q u => u.sset e ((kget q a).extractLsb' 0 64))
  · have hhigh : k 3 ++ k 2 = (kget t.k a).extractLsb' 64 64 := BitVec.extractLsb'_append_extractLsb'_eq_extractLsb' rfl
    rw [hhigh]
    exact (exec_kgetHi _ s).trans (State.coordinate_ready h he fun _ q u => u.sset e ((kget q a).extractLsb' 64 64))

/-- Settles O2, from the words' effects on a ready S strand and the inversion of the decoder. -/
theorem bitAndCoordinateWords : Obligations.BitAndCoordinateWords :=
  ⟨scalarBits, coordinateWords⟩

/-! ## The dividing and bit-field words (R204) -/

theorem divideResults : Claims.DivideResults := by
  intro s t d a b h he x y gives
  refine ⟨fun hz => ?_, fun hx hy => ?_, fun hz hwrap => ?_, fun hz => ?_⟩
  · have traps (f : Word → Word → Word) := State.divide_ready_zero h he (o := ⟨d, a, b⟩) f hz
    refine ⟨(exec_div _ s).trans (traps _), (exec_divn _ s).trans (traps _), (exec_rem _ s).trans (traps _),
      (exec_remn _ s).trans (traps _), rfl, ?_⟩
    have htask := State.task_faulted h he { cause := .intDivzero } rfl
    rw [State.waited_eq s t] at htask
    exact ⟨_, _, htask, rfl, rfl, rfl, rfl, rfl, rfl⟩
  · have hz : y ≠ 0 := by
      rw [hy]
      decide
    have hdiv : divS x y = x := by
      rw [divS_eq_sdiv, hx, hy, ← BitVec.neg_one_eq_allOnes, BitVec.intMin_sdiv_neg_one]
    have hrem : remS x y = 0 := by
      rw [hx, hy]
      decide
    exact ⟨((exec_div _ s).trans (State.divide_ready_nonzero h he divS hz)).trans (congrArg gives hdiv),
      ((exec_rem _ s).trans (State.divide_ready_nonzero h he remS hz)).trans (congrArg gives hrem)⟩
  · exact ⟨divS x y, remS x y, (exec_div _ s).trans (State.divide_ready_nonzero h he _ hz),
      (exec_rem _ s).trans (State.divide_ready_nonzero h he _ hz), toInt_divS hwrap, toInt_remS hwrap⟩
  · refine ⟨x / y, x % y, (exec_divn _ s).trans (State.divide_ready_nonzero h he _ hz),
      (exec_remn _ s).trans (State.divide_ready_nonzero h he _ hz), BitVec.toNat_udiv, ?_⟩
    rw [BitVec.toNat_umod, BitVec.toNat_udiv, Nat.mod_def, Nat.mul_comm]

theorem bitFields : Claims.BitFields := by
  intro s t d a b c h he x pos w gives
  exact ⟨⟨_, (exec_extr _ s).trans (State.scalar_ready h he _ _), getLsbD_extractBits x (sget t.s b) (sget t.s c)⟩,
    ⟨_, (exec_insr _ s).trans (State.scalar_ready h he _ _),
      getLsbD_insertBits (sget t.s d) x (sget t.s b) (sget t.s c)⟩⟩

/-- Settles O3, from the one law of the dividing words and the bits that the bit-field words give. -/
theorem divisionAndBitFields : Obligations.DivisionAndBitFields :=
  ⟨divideResults, bitFields⟩

end Sys2Proof
end

section
/-! SUPPORT. TRAP, BRK and the words of the privileged registers from a ready S strand, and the claims about them (08, R226;
19, R385 to R388, R392). -/

namespace Sys2Proof.Machine

/-! ## What a word's beginning leaves of the registers of the part -/

@[simp] theorem State.begun_ctxtab (s : State) (t : Task) : (s.begun t).ctxtab = s.ctxtab := by rw [State.begun_eq]
@[simp] theorem State.begun_parts (s : State) (t : Task) : (s.begun t).parts = s.parts := by rw [State.begun_eq]
@[simp] theorem State.begun_part (s : State) (t : Task) (p : Nat) : (s.begun t).part p = s.part p := by
  rw [State.part, State.begun_parts, State.part]
@[simp] theorem State.begun_now (s : State) (t : Task) (d : Nat) : (s.begun t).now d = s.now d := by
  rw [State.begun_eq]
  rfl

/-! ## A ready word by the effect of its body -/

section
variable {s u : State} {needs : Bool} {t : Task} {body : Env → State → Eff} (h : s.Ready needs t)
include h

/-- A word whose body completes on the same turn passes. -/
theorem State.runWord_done (hbody : body (s.env t) (s.begun t) = .done u) (hcur : u.cur = s.cur) :
    s.runWord needs body = .next (u.passed (t.strand s.cur.eng).pc []) := by
  rw [State.runWord_ready h, hbody, Eff.behind_done]
  simp only [State.finish, State.passed, hcur]
/-- A word whose body does nothing but fault. -/
theorem State.runWord_fault {f : FaultInfo} (hbody : body (s.env t) (s.begun t) = .fault (s.begun t) f) :
    s.runWord needs body = .next (s.faulted t f) := by
  rw [State.runWord_ready h, hbody]
  exact State.finish_faulted f
end

/-! ## Faults of the S strand (R438, R440) -/

/-- The S strand has no parked words that its fault could stand behind. -/
theorem State.faulted_s {s : State} {t : Task} (he : s.cur.eng = .s) (f : FaultInfo) :
    s.faulted t f = (s.begun t).takeFault s.cur.core .s f := by
  rw [State.faulted, he]
  exact if_neg Bool.false_ne_true
/-- A task that is no kernel core's own takes a fault by recording it at the word; the module is as it was. -/
theorem State.takeFault_user {s : State} {c : Nat} {t : Task} {e : Eng} {f : FaultInfo} (ht : s.task c = some t)
    (hk : t.kernel = false) (hpc : f.pc = 0) : s.takeFault c e f = s.setTask c
      { t with faults := t.faults ++ [{ f with strand := some e, pc := (t.strand e).pc, stamp := s.now (dieOf c) }] } := by
  unfold State.takeFault State.takeFaultAt
  simp only [ht, hk, hpc, if_true, Bool.false_eq_true, if_false]

/-! ## Asking teams to stop keeps the turn (R388, R420) -/

/-- A fold of updates keeps the turn when each of them does. -/
theorem State.foldl_cur {α : Type} {f : State → α → State} (hf : ∀ s x, (f s x).cur = s.cur) (l : List α) (s : State) :
    (l.foldl f s).cur = s.cur := by
  induction l generalizing s with
  | nil => rfl
  | cons x l ih => exact (ih (f s x)).trans (hf s x)
theorem State.askTask_cur (s : State) (c : Nat) (k : Task) : (s.askTask c k).cur = s.cur := by
  unfold State.askTask
  split
  · rfl
  · simp only
    split
    · exact State.modTask_cur ..
    · rfl
theorem State.askStop_cur (s : State) (t : Team) : (s.askStop t).cur = s.cur := by
  have hfold := State.foldl_cur (fun s (x : Nat × Task) => State.askTask_cur s x.1 x.2) (s.teamTasks t) s
  unfold State.askStop
  simp only
  split <;> exact hfold
theorem State.leaveClusters_cur (s : State) (i : Nat) : (s.leaveClusters i).cur = s.cur :=
  State.foldl_cur (fun s t => State.foldl_cur State.askStop_cur (s.gang t) s) _ s

/-! ## The registers by number (R385, R386) -/

theorem privReg_ctxtab {n : Nat} (h : n = 0x100) : privReg n = some none := if_pos h
theorem privReg_part {n : Nat} (h : 0x200 ≤ n ∧ n < 0x220) : privReg n = some (some ((n - 0x200) / 4, n % 4)) := by
  have hmod : (n - 0x200) % 4 = n % 4 := by omega
  rw [privReg, if_neg (by omega), if_pos (by simpa using h), hmod]
theorem privReg_none {n : Nat} (h : n ≠ 0x100) (hp : ¬(0x200 ≤ n ∧ n < 0x220)) : privReg n = none := by
  rw [privReg, if_neg h, if_neg (by simpa using hp)]

/-- The four registers of a partition, in the order of their numbers. -/
theorem PartRegs.reg_eq (q : PartRegs) {r : Nat} :
    PartRegs.reg q r = if r = 0 then q.pclu else if r = 1 then q.pstk else if r = 2 then q.pque else q.pfab := by
  match r with
  | 0 | 1 | 2 | _ + 3 => rfl

/-- A one-bit field is its bit. -/
theorem bits_bit63 (v : Word) : bits v 63 63 = (v.getLsbD 63).toNat := by
  rw [bits, field, ← BitVec.testBit_toNat, Nat.toNat_testBit]
  rfl

/-! A write changes the register it names alone, keeps that one's fields and clamps QCNT, QCMD and QCYC (R386, R388). -/

theorem PartRegs.put_pclu (q : PartRegs) (r : Nat) (v : Word) :
    (PartRegs.put q r v).pclu = if r = 0 then v &&& 0xffffffffffff else q.pclu := by
  match r with
  | 0 | 1 | 2 | _ + 3 => rfl
theorem PartRegs.put_pstk (q : PartRegs) (r : Nat) (v : Word) :
    (PartRegs.put q r v).pstk = if r = 1 then v &&& 0xfff else q.pstk := by
  match r with
  | 0 | 1 | 2 | _ + 3 => rfl
theorem PartRegs.put_pque (q : PartRegs) (r : Nat) (v : Word) : (PartRegs.put q r v).pque =
    if r = 2 then BitVec.ofNat 64 (bits v 7 0 + 2 ^ 8 * min 256 (bits v 16 8)) else q.pque := by
  match r with
  | 0 | 1 | _ + 3 => rfl
  | 2 => exact congrArg (BitVec.ofNat 64) (by ring)
theorem PartRegs.put_pfab (q : PartRegs) {r : Nat} (hr : r < 4) (v : Word) : (PartRegs.put q r v).pfab =
    if r = 3 then BitVec.ofNat 64 (bits v 16 0 + 2 ^ 24 * max 1 (bits v 31 24) + 2 ^ 32 * max 256 (bits v 55 32) +
      2 ^ 63 * bits v 63 63) else q.pfab := by
  match r with
  | 0 | 1 | 2 => rfl
  | 3 =>
    rw [bits_bit63]
    exact congrArg (BitVec.ofNat 64) (by ring)

/-! ## CSRRP and CSRWP from a ready S strand (R385, R392) -/

section
variable {s : State} {t : Task} (h : s.Ready false t) (he : s.cur.eng = .s)
include h he

theorem execCsrrp_ctxtab {o : R2} (hn : (sget t.s o.a).toNat = 0x100) : execCsrrp o s =
    .next (((s.begun t).modTask s.cur.core fun x => x.sset o.d s.ctxtab).passed (t.strand .s).pc []) := by
  rw [← he]
  refine State.runWord_done h ?_ (by simp)
  simp only [State.env_s he, privReg_ctxtab hn, State.begun_cur, State.begun_ctxtab]
theorem execCsrrp_part {o : R2} {p r : Nat} (hn : privReg (sget t.s o.a).toNat = some (some (p, r))) : execCsrrp o s =
    .next (((s.begun t).modTask s.cur.core fun x => x.sset o.d (PartRegs.reg (s.part p) r)).passed (t.strand .s).pc []) := by
  rw [← he]
  refine State.runWord_done h ?_ (by simp)
  simp only [State.env_s he, hn, State.begun_cur, State.begun_part]
theorem execCsrrp_reserved {o : R2} (hn : privReg (sget t.s o.a).toNat = none) :
    execCsrrp o s = .next (s.faulted t { cause := .reservedField }) := by
  refine State.runWord_fault h ?_
  simp only [State.env_s he, hn]

theorem execCsrwp_ctxtab {o : R3} (hn : (sget t.s o.a).toNat = 0x100) : execCsrwp o s =
    .next ((({ s.begun t with ctxtab := sget t.s o.b &&& 0xffffffff80000 } : State).modTask s.cur.core fun x =>
      x.sset o.d 0).passed (t.strand .s).pc []) := by
  rw [← he]
  refine State.runWord_done h ?_ (by simp)
  simp only [State.env_s he, privReg_ctxtab hn, State.begun_cur]
theorem execCsrwp_reserved {o : R3} (hn : privReg (sget t.s o.a).toNat = none) :
    execCsrwp o s = .next (s.faulted t { cause := .reservedField }) := by
  refine State.runWord_fault h ?_
  simp only [State.env_s he, hn]

section
variable {o : R3} {p r : Nat} (hn : privReg (sget t.s o.a).toNat = some (some (p, r)))
include hn

/-- A write that would let two valid partitions share a unit (R388). -/
theorem execCsrwp_refused (hclash : (s.begun t).partClash p (PartRegs.put (s.part p) r (sget t.s o.b)) = true) : execCsrwp o s =
    .next (((s.begun t).modTask s.cur.core fun x => x.sset o.d 1).passed (t.strand .s).pc []) := by
  rw [← he]
  refine State.runWord_done h ?_ (by simp)
  simp only [State.env_s he, hn, State.begun_cur, State.begun_part, hclash, if_true]
theorem execCsrwp_written (hclash : (s.begun t).partClash p (PartRegs.put (s.part p) r (sget t.s o.b)) = false) : execCsrwp o s =
    let u : State := { s.begun t with parts := SMap.put partReset s.parts p (PartRegs.put (s.part p) r (sget t.s o.b)) }
    .next (((if r = 0 then u.leaveClusters p else u).modTask s.cur.core fun x => x.sset o.d 0).passed (t.strand .s).pc []) := by
  rw [← he]
  refine State.runWord_done h ?_ ?_
  · simp only [State.env_s he, hn, State.begun_cur, State.begun_part, State.begun_parts, hclash, Bool.false_eq_true, if_false]
  · rw [State.modTask_cur]
    split
    · exact (State.leaveClusters_cur ..).trans (State.begun_cur s t)
    · exact State.begun_cur s t
end

end

end Sys2Proof.Machine

namespace Sys2Proof
open Sys2Proof.Machine

theorem trapsAreTaken : Claims.TrapsAreTaken := by
  intro s t code h he trap brk raised
  have takes (f : FaultInfo) : s.runWord false (fun _ s => .fault s f) = .next ((s.begun t).takeFault s.cur.core .s f) :=
    (State.runWord_fault h rfl).trans (congrArg Host.Outcome.next (State.faulted_s he f))
  refine ⟨(exec_trap _ s).trans (takes trap), (exec_brk _ s).trans (takes brk), fun hk f hf => ?_⟩
  have hpc : f.pc = 0 := by
    rcases List.mem_pair.1 hf with rfl | rfl <;> rfl
  rw [State.takeFault_user (State.task_begun s t h.present) (by rw [State.waited_kernel, hk]) hpc, State.waited_strand,
    State.begun_now]

theorem privilegedRegisters : Claims.PrivilegedRegisters := by
  intro s t d a b h he n k r v q gives bad
  refine ⟨fun hn => ⟨?_, ?_⟩, fun hn => ⟨?_, PartRegs.put q r v, fun hclash => ?_, fun hclash => ?_, ?_⟩, fun hn hp => ⟨?_, ?_⟩⟩
  · exact (exec_csrrp _ s).trans (execCsrrp_ctxtab h he hn)
  · exact (exec_csrwp _ s).trans (execCsrwp_ctxtab h he hn)
  · rw [← PartRegs.reg_eq]
    exact (exec_csrrp _ s).trans (execCsrrp_part h he (privReg_part hn))
  · exact (exec_csrwp _ s).trans (execCsrwp_refused h he (privReg_part hn) hclash)
  · exact (exec_csrwp _ s).trans (execCsrwp_written h he (privReg_part hn) hclash)
  · exact ⟨PartRegs.put_pclu q r v, PartRegs.put_pstk q r v, PartRegs.put_pque q r v, PartRegs.put_pfab q (Nat.mod_lt n (by decide)) v⟩
  · exact (exec_csrrp _ s).trans (execCsrrp_reserved h he (privReg_none hn hp))
  · exact (exec_csrwp _ s).trans (execCsrwp_reserved h he (privReg_none hn hp))

/-- Settles O14, from the one law of a word that only faults and the laws of CSRRP and CSRWP by the register that their
number names. -/
theorem trapsAndPrivilegedRegisters : Obligations.TrapsAndPrivilegedRegisters :=
  ⟨trapsAreTaken, privilegedRegisters⟩

end Sys2Proof
end
